-- ==== Sys2Proof/Word.lean ====
section
/-! DEFINITION. The word types of the part: a word of quote memory, a byte of a serial link, a reading of the time
base. -/

namespace Sys2Proof

/-- A word of quote memory: 16 bits (para 0.9.1). -/
abbrev Word := BitVec 16

/-- A byte of a board link frame, or a character of a terminal line or of the ribbon. -/
abbrev Byte := BitVec 8

/-- A reading of the millisecond time base: 32 bits, wrapping (R39). -/
abbrev Time := BitVec 32

/-- A 20-bit word address, as the host bus carries it (para 0.8). -/
abbrev Addr := BitVec 20

end Sys2Proof
end

