-- ==== Sys2Proof/Syntax.lean ====
section
/-! DEFINITION. The commands of the part: one constructor for each row of spec/opcode_table.json, in the table's
order, with the operands that the environment decides. -/

namespace Sys2Proof

/-- One cycle as the quote computer presents it on the host bus (para 1.2, R2). The read/write line is `true`
for a write, which is the code the spec gives the direction (para 10.3; assumption 5, DEDUCED). -/
structure BusCycle where
  /-- the 20 address lines -/
  addr : Addr
  /-- the read/write line, `true` for a write -/
  write : Bool
  /-- the address parity line -/
  addrParity : Bool
  /-- the strobe of the upper byte -/
  upper : Bool
  /-- the strobe of the lower byte -/
  lower : Bool
  /-- the data word of a write -/
  data : Word
  /-- the data parity line of the upper byte -/
  upperParity : Bool
  /-- the data parity line of the lower byte -/
  lowerParity : Bool
deriving DecidableEq, Repr

/-- The strap pins SZ1 and SZ0, as they stand when a reset event reads them (R1). -/
structure Straps where
  /-- the level of SZ1 -/
  sz1 : Bool
  /-- the level of SZ0 -/
  sz0 : Bool
deriving DecidableEq, Repr

/-- A character received on a terminal line: its eight bits, and whether its stop bit was missing (R166). -/
structure RxChar where
  /-- the eight data bits -/
  bits : Byte
  /-- the framing fault: the stop bit is missing -/
  framingFault : Bool
deriving DecidableEq, Repr

/-- The four comparator inputs from the display power cabinet (para 7.3). -/
inductive Comparator where
  | warm
  | hot
  | lwarn
  | llow
deriving DecidableEq, Repr

/-- The commands of the part: every row of the table of operations and events. The operand of a command that
a quote computer's write brings about (a parameter word, a command word, a quote record word) is the word at
the head of the hand-over queue (R7, R21), so the constructor carries none. -/
inductive Instr where
  /-- HOST_CYCLE (R2): a host read or write arrives -/
  | hostCycle (c : BusCycle)
  /-- HOST_READ_SERVED (R5): the RAM port completes a host read -/
  | hostReadServed
  /-- HOST_WRITE_SERVED (R6): the RAM port completes a host write -/
  | hostWriteServed
  /-- REFRESH_REQUEST (R14): the refresh timer's interval expires -/
  | refreshRequest
  /-- REFRESH_CYCLE (R15): the RAM port completes a refresh cycle -/
  | refreshCycle
  /-- EXTERNAL_RESET (R18): the RESET input is asserted -/
  | externalReset
  /-- EXTERNAL_RESET_RELEASE (R18): the RESET input is released -/
  | externalResetRelease (straps : Straps)
  /-- POWER_ON_RESET (R19): power is applied -/
  | powerOnReset (straps : Straps)
  /-- SUPPLY_LOW_RESET (R20): the part's supply falls below its working level -/
  | supplyLowReset
  /-- SUPPLY_RETURN (R20): the supply returns -/
  | supplyReturn (straps : Straps)
  /-- REGION_CLEAR_WRITTEN (R19): one clearing write into the part-owned region completes -/
  | regionClearWritten
  /-- RESET_END (R30): the last reset in progress ends -/
  | resetEnd (straps : Straps)
  /-- PARAMETER_WORD_WRITE (R22): a handed write to a parameter word is taken -/
  | parameterWordWrite
  /-- FAULT_READ_INDEX_WRITE (R33): a handed write to word 010H is taken -/
  | faultReadIndexWrite
  /-- INBOX_READ_INDEX_WRITE (R35): a handed write to word 011H is taken -/
  | inboxReadIndexWrite
  /-- ALERT_ENABLES_WRITE (R36): a handed write to word 012H is taken -/
  | alertEnablesWrite
  /-- UNKNOWN_COMMAND (R25): a handed command word with an unknown code is taken -/
  | unknownCommand
  /-- LOAD (R53) -/
  | load
  /-- CLOSE (R63) -/
  | close
  /-- CONFIRM (R98) -/
  | confirm
  /-- WITHDRAW (R99) -/
  | withdraw
  /-- REMAP (R118) -/
  | remap
  /-- RESTORE (R119) -/
  | restore
  /-- REARM (R129) -/
  | rearm
  /-- LAMP_TEST (R142) -/
  | lampTest
  /-- CLEAR_LIMIT_LOG (R141) -/
  | clearLimitLog
  /-- TAPE_HOLD (R157) -/
  | tapeHold
  /-- TAPE_RESUME (R158) -/
  | tapeResume
  /-- SET_LINE (R163) -/
  | setLine
  /-- SET_GUARD (R10) -/
  | setGuard
  /-- LOCK_GUARDS (R11) -/
  | lockGuards
  /-- ARM_TRAP (R13) -/
  | armTrap
  /-- CLEAR_CAUSES (R38) -/
  | clearCauses
  /-- DIRECTORY_READ_RETURN (R54): a directory word read by LOAD returns -/
  | directoryReadReturn
  /-- PHASE_2_READ_RETURN (R57): a phase-2 quote record read returns -/
  | phase2ReadReturn
  /-- FIELD_WRITE (R67): a handed field word of a quote record is taken -/
  | fieldWrite
  /-- COMMIT_WRITE (R69): a handed commit word is taken -/
  | commitWrite
  /-- FETCH_READ_RETURN (R74): a fetch attempt read returns -/
  | fetchReadReturn
  /-- STALE_STAGING (R68): a staging slot's 2 s run out -/
  | staleStaging (instr : Nat)
  /-- HOLD_EXPIRED (R96): a hold's expiry time is reached -/
  | holdExpired (instr : Nat)
  /-- WRITE_BACK_WRITTEN (R29): the RAM port completes a write-back -/
  | writeBackWritten
  /-- FRAME_SENT (R108): the last byte of a frame on a link has gone -/
  | frameSent (link : Fin 8)
  /-- REPLY (R109): the third byte of a reply arrives on a link -/
  | reply (link : Fin 8) (b0 b1 b2 : Byte)
  /-- REPLY_TIMEOUT (R109): the 4 ms reply wait of a link ends -/
  | replyTimeout (link : Fin 8)
  /-- POLL_DUE (R111): a poll time comes round on a quiet link -/
  | pollDue (link : Fin 8)
  /-- FLASH_TIMER_EXPIRY (R123): the flash timer of logical module link × 16 + home runs out -/
  | flashTimerExpiry (link : Fin 8) (home : Fin 16)
  /-- COMPARATOR_INPUT_CHANGE (R132): a raw comparator input changes level -/
  | comparatorInputChange (input : Comparator) (level : Bool)
  /-- FILTER_TAKEN (R132): a raw level has held for 20 ms -/
  | filterTaken (input : Comparator)
  /-- HOT_CHECK_END (R131): the 20 ms of a HOT check end -/
  | hotCheckEnd
  /-- GOVERNOR_SAMPLE (R137): the 10 ms sample is due -/
  | governorSample
  /-- LAMP_TEST_LINK_END (R142): a link's 5 s under test end -/
  | lampTestLinkEnd
  /-- TAKE (R147): the ribbon takes the head print -/
  | take
  /-- RIBBON_STEP (R154): the ribbon's step interval ends -/
  | ribbonStep
  /-- BLANK_OUT_END (R159): a blank-out has made its 480 steps -/
  | blankOutEnd
  /-- MARK_RECEIVED (R166): 7EH is received on a line -/
  | markReceived (line : Fin 16)
  /-- WATCH_REQUEST (R171): the last check character of a good W frame arrives -/
  | watchRequest (line : Fin 16)
  /-- WATCH_DROP (R172): the last check character of a good D frame arrives -/
  | watchDrop (line : Fin 16)
  /-- PAGE_REQUEST (R173): the last check character of a good P frame arrives -/
  | pageRequest (line : Fin 16)
  /-- MESSAGE_REQUEST (R174): the last check character of a good M frame arrives -/
  | messageRequest (line : Fin 16)
  /-- PING (R169): the last check character of a good Z frame arrives -/
  | ping (line : Fin 16)
  /-- BAD_FRAME (R167): a character arrives that makes the frame in assembly bad -/
  | badFrame (line : Fin 16) (c : RxChar)
  /-- FRAME_ABANDONED (R167): 500 ms pass with no further character -/
  | frameAbandoned (line : Fin 16)
  /-- DOZE_EXPIRY (R182): the doze timer reaches the doze time -/
  | dozeExpiry (line : Fin 16)
  /-- LINE_SERVICE (R178): the line service arbiter makes a choice -/
  | lineService
  /-- TRANSMITTER_EMPTY (R181): the last character of a line's frames has been sent -/
  | transmitterEmpty (line : Fin 16)
  /-- TIME_BASE_ADVANCE (R39): 8,000 periods of the clock input have passed -/
  | timeBaseAdvance
  /-- CHARACTER_RECEIVED (R166): a character other than a mark is received on a line -/
  | characterReceived (line : Fin 16) (c : RxChar)
  /-- GOOD_FRAME_OTHER_KIND (R169): the last check character of a good frame of any other kind arrives -/
  | goodFrameOtherKind (line : Fin 16)
deriving DecidableEq, Repr

end Sys2Proof
end

