-- ==== Sys2Proof/Decode.lean ====
section
/-! DEFINITION. Reading a command from a word of the table's bits. No row of spec/opcode_table.json gives bits, so no
word spells a command. -/

namespace Sys2Proof

/-- The command that the bits `w` spell by the table's encoding: none, since the table gives no row a bit
pattern ("n_rows_with_fixed": 0 and "n_rows_with_fields": 0 in spec/98_reader.md). -/
def decodeTableWord (_nbits _w : Nat) : Option Instr := none

end Sys2Proof
end

