-- ==== Sys2Proof/Config.lean ====
section
/-! DEFINITION. What the spec leaves open: the free values, each a constant without a body, and the fixed numbers of
the spec that more than one file reads. -/

namespace Sys2Proof

/-- A word of dynamic RAM as it is stored: sixteen data bits and one parity bit for each byte
(para 0.8, "Dynamic RAM with one stored parity bit per byte"). -/
structure RamWord where
  /-- the data word -/
  word : Word
  /-- the stored parity bit of the upper byte -/
  upperParity : Bool
  /-- the stored parity bit of the lower byte -/
  lowerParity : Bool
deriving DecidableEq, Repr, Inhabited

namespace Config

/-- FREE VALUE (assumption 3, DESIGN CHOICE): what the RAM holds, data and stored parity, at a word that nothing has
written since the RAM's contents were last lost. The first argument counts those losses, the second is the word
address. R19: "The RAM contents are undefined, and so is the stored parity of every word." -/
opaque ramContents : Nat → Nat → RamWord

/-- FREE VALUE (assumption 4, DESIGN CHOICE): one less than the number of rows the refresh round goes through. R15
gives a fixed round and no number of rows. -/
opaque refreshRowsLessOne : Nat

end Config

end Sys2Proof
end

