-- ==== Sys2Proof/Machine/State.lean ====
section
/-! DEFINITION. The state of the part, block by block (para 0.4), as plain data, and its value at the end of a
power-on reset. -/

namespace Sys2Proof.Machine

open Sys2Proof

/-- Why a command stops the machine with a fault: never. The part answers every event it meets, a bad host
cycle with BERR and a fault RECORD (R2, R31), so no event stops it and the type has no constructor (safe). -/
inductive Fault where
deriving DecidableEq, Repr

/-- Why a command is refused by the model. -/
inductive Refusal where
  /-- Raised by `exec` for a command whose meaning is not written yet; it is safe, and no arm raises it now. -/
  | notModelled (mnemonic : String)
deriving DecidableEq, Repr

/-! ### The Memory Path (chapter 1) -/

/-- The installed memory size, 128K, 256K or 512K words (R1). -/
inductive MemSize where
  | k128
  | k256
  | k512
deriving DecidableEq, Repr

/-- The dynamic RAM. A word that is not listed holds 0000H with good parity when it lies among the words the
part has cleared since the contents were last lost (R19, R20), and a free value otherwise. -/
structure Ram where
  /-- the listed words, addresses strictly rising -/
  cells : List (Nat × RamWord)
  /-- how often the contents have been lost (a power-on reset, a supply-low reset) -/
  era : Nat
  /-- the first word of the part-owned region that the clearing writes -/
  clearedFrom : Nat
  /-- how many words of it the clearing has written, 0 to 1,888 -/
  clearedCount : Nat
deriving DecidableEq, Repr

/-- The refresh interval in progress: 15.6 µs, or 7.8 µs if it began while WARM was in force (R14). -/
inductive RefreshInterval where
  | normal
  | halved
deriving DecidableEq, Repr

/-- The refresh timer, the postponed count and the row to be refreshed next (R14, R15). -/
structure Refresh where
  running : Bool
  interval : RefreshInterval
  /-- the refresh requests raised and not yet served, 0 to 8 -/
  postponed : Nat
  nextRow : Nat
deriving DecidableEq, Repr

/-- A host cycle that has passed its checks (R2). -/
structure HostCycle where
  addr : Addr
  write : Bool
  upper : Bool
  lower : Bool
  data : Word
deriving DecidableEq, Repr

/-- Who placed a part cycle, and for what (R16). -/
inductive PartSource where
  /-- the Capture Unit, for a fetch attempt -/
  | fetch
  /-- the Capture Unit, for a phase-2 attempt -/
  | phase2
  /-- the Instrument Table, for the directory -/
  | directory
  /-- the Control Unit, for a write-back -/
  | writeBack
  /-- the Memory Path, for the clearing of the part-owned region -/
  | regionClear
deriving DecidableEq, Repr

/-- A part cycle: a read, or a write of a fixed word, with its passed-over count 0 to 16 (R16). -/
structure PartCycle where
  source : PartSource
  addr : Nat
  write : Option Word
  passed : Nat
deriving DecidableEq, Repr

/-- What the RAM port is doing. -/
inductive PortCycle where
  /-- a host cycle; `cut` when a reset began while it was on the port (R18) -/
  | host (c : HostCycle) (cut : Bool)
  /-- a refresh cycle -/
  | refresh
  /-- a part cycle; `discard` when a reset or a LOAD has made its result void (R18, R53) -/
  | part (p : PartCycle) (discard : Bool)
deriving DecidableEq, Repr

/-- The mode of a guard window (R9). -/
inductive GuardMode where
  | off
  | refuse
  | drop
deriving DecidableEq, Repr

/-- A guard window (R9). -/
structure GuardWindow where
  base : Addr
  limit : Addr
  mode : GuardMode
deriving DecidableEq, Repr

/-- The parity trap (R12). -/
structure Trap where
  compare : Addr
  mask : Addr
  armed : Bool
deriving DecidableEq, Repr

/-- How the part ends a host cycle (para 1.2). -/
inductive Ending where
  | ack
  | berr
deriving DecidableEq, Repr

/-- The part's answer to the last host cycle it ended, and what it drove on the data and data parity lines for
a read (R5). -/
structure BusReply where
  ending : Ending
  driven : Option RamWord
deriving DecidableEq, Repr

/-- The Memory Path's state (chapter 1). -/
structure MemoryPath where
  installed : MemSize
  ram : Ram
  refresh : Refresh
  /-- the one host cycle that waits for the port -/
  waiting : Option HostCycle
  /-- the part cycle queue, oldest first -/
  parts : List PartCycle
  /-- the cycle on the RAM port -/
  port : Option PortCycle
  guards : Vector GuardWindow 4
  guardLock : Bool
  trap : Trap
  /-- the host bus's ACK, BERR, data and data parity lines at the last ended cycle -/
  bus : Option BusReply
deriving DecidableEq, Repr

/-! ### Resets -/

/-- The resets in progress. -/
structure ResetState where
  /-- a reset has begun and RESET_END has not come -/
  inReset : Bool
  /-- the level of the RESET input -/
  inputHeld : Bool
  /-- the part's supply is below its working level -/
  supplyLow : Bool
  /-- a power-on or supply-low reset is among the resets in progress (R37) -/
  powerOrSupply : Bool
  /-- the part-owned region is still to be cleared before the reset can end (R19, R20) -/
  clearingDue : Bool
deriving DecidableEq, Repr

/-! ### The Control Unit (chapter 2) -/

/-- The part state (para 2.2). -/
inductive PartState where
  | unloaded
  | loading
  | running
deriving DecidableEq, Repr

/-- The command state (para 2.3). -/
inductive CommandState where
  | idle
  | running
  | done
  | refused
deriving DecidableEq, Repr

/-- The result codes of a refused command (para 10.2). -/
inductive ResultCode where
  | unknown
  | notLoaded
  | badParameter
  | locked
  | heldPrices
  | noHold
  | notIdle
  | homeNotReady
  | stillHot
  | driveOff
  | notMuted
  | badCount
  | badLinkBlock
  | badGovernorBlock
  | badTickerBlock
  | badLineBlock
  | watchRange
  | watchRepeated
  | badSymbol
  | duplicateSymbol
  | badFractionBase
  | recordMisaligned
  | recordInControlArea
  | recordOverlap
  | moduleRange
  | moduleSpare
  | moduleTwice
  | directoryBeyondMemory
  | directoryParity
deriving DecidableEq, Repr

/-- The command record (para 2.3). -/
structure CommandRecord where
  state : CommandState
  code : Nat
  seq : BitVec 10
  /-- the result code, present for REFUSED alone -/
  result : Option ResultCode
  detail : Nat
  /-- the copy of the parameter latches -/
  params : Vector Word 6
deriving DecidableEq, Repr

/-- The refusal word (R27). -/
structure RefusalWord where
  seq : BitVec 10
  busy : Bool
deriving DecidableEq, Repr

/-- The words, or pairs of words, that the part writes in place (R28). -/
inductive TableWord where
  | resetCause
  | partState
  | commandStatus
  | refusal
  | driveState
  | limitReasons
  | governorStage
  | tickerState
  | faultStatus
  | inboxStatus
  /-- module table word link × 16 + chain position -/
  | moduleWord (link : Fin 8) (pos : Fin 16)
  | lineWord (line : Fin 16)
deriving DecidableEq, Repr

/-- An entry of the write-back queue (R28). -/
inductive WbEntry where
  /-- a table entry: one word, or two written lower offset first -/
  | table (t : TableWord) (words : List Word)
  /-- a fault record of 16 words for a slot of the fault ring -/
  | faultRecord (slot : BitVec 5) (words : List Word)
  /-- an inbox slot of 18 words, with the line and the message sequence to report to (R34) -/
  | inboxSlot (slot : BitVec 6) (line : Fin 16) (seq : Byte) (words : List Word)
deriving DecidableEq, Repr

/-- The write-back queue: the entry being written, with the number of its words already written, and the
entries behind it (R28, R29). -/
structure WriteBack where
  active : Option (WbEntry × Nat)
  queue : List WbEntry
deriving DecidableEq, Repr

/-- The fault log's five items (para 2.5). -/
structure FaultLog where
  writeIndex : BitVec 5
  readIndex : BitVec 5
  nextSlot : BitVec 5
  overflowMark : Bool
  overflowCarry : Bool
deriving DecidableEq, Repr

/-- The inbox indices (para 2.6). -/
structure Inbox where
  writeIndex : BitVec 6
  readIndex : BitVec 6
  nextSlot : BitVec 6
deriving DecidableEq, Repr

/-- The accumulated COMMAND cause and the three ALERT enables (R36). -/
structure Alert where
  commandCause : Bool
  enableFault : Bool
  enableInbox : Bool
  enableCommand : Bool
deriving DecidableEq, Repr

/-- The reset cause record (R37). -/
structure ResetCauses where
  power : Bool
  external : Bool
  supply : Bool
deriving DecidableEq, Repr

/-- The Control Unit's state (chapter 2). -/
structure ControlUnit where
  partState : PartState
  command : CommandRecord
  refusal : RefusalWord
  latches : Vector Word 6
  writeBack : WriteBack
  log : FaultLog
  inbox : Inbox
  alert : Alert
  causes : ResetCauses
  timeBase : Time
deriving DecidableEq, Repr

/-- A write that the Memory Path has handed over and no unit has taken yet (R7, R21, R44). -/
inductive Handed where
  /-- a host-writable word of the Control Area, by its offset -/
  | control (offset : Nat) (word : Word)
  /-- a quote record word: instrument index, word number, the word as it stands in memory -/
  | capture (instr : Nat) (number : Nat) (word : Word)
deriving DecidableEq, Repr

/-! ### The Instrument Table (chapter 3) -/

/-- The fraction base, 4, 8 or 16 (R51). -/
inductive FractionBase where
  | quarters
  | eighths
  | sixteenths
deriving DecidableEq, Repr

/-- The tick (R90). -/
inductive Tick where
  | none
  | up
  | down
  | zeroUp
  | zeroDown
deriving DecidableEq, Repr

/-- A Hold record (R94). -/
structure Hold where
  /-- the held price in steps -/
  price : Nat
  size : Nat
  captured : Time
  /-- whether quantizing the price needed rounding -/
  rounding : Bool
  expiry : Time
deriving DecidableEq, Repr

/-- An Instrument Record (para 3.2). Prices are in steps. -/
structure Instrument where
  /-- 1 to 5 letters A to Z -/
  symbol : List Byte
  recordAddr : Nat
  base : FractionBase
  /-- the band in units, 0 for no band check -/
  band : Nat
  /-- the hold timeout in seconds, 5 to 255 -/
  holdTimeout : Nat
  close : Option Nat
  last : Option Nat
  high : Option Nat
  low : Option Nat
  lastSize : Nat
  volume : Nat
  tick : Tick
  bid : Option Nat
  ask : Option Nat
  halted : Bool
  fast : Bool
  offIncrement : Bool
  lastSeq : BitVec 12
  slot1 : Option Nat
  slot2 : Option Nat
  eligible : Bool
  /-- the lines that watch the instrument, none repeated -/
  watchers : List (Fin 16)
  hold : Option Hold
  lastPrintedWhole : Option Nat
  full : Bool
  fetchOnCommit : Bool
deriving DecidableEq, Repr

/-- The Instrument Table (para 3.1). The instrument count is the number of records. -/
structure InstrumentTable where
  instruments : List Instrument
  /-- the Symbol Index: instrument indices in ascending order of symbol (R42) -/
  symbolIndex : List Nat
  /-- the Record Index: each record address with its instrument; it stands for eight words (R43) -/
  recordIndex : List (Nat × Nat)
  /-- the quote window: its first and last address, absent when empty (R43) -/
  quoteWindow : Option (Nat × Nat)
  /-- the board map, entry link × 16 + home (R45) -/
  boardMap : Vector (Option Nat) 128
  dayNumber : BitVec 16
deriving DecidableEq, Repr

/-- The progress of phase 1: where the directory stands, the number of the word being read, the header as far
as read, the words of the entry being read, and the records built so far (R54). -/
structure DirectoryRead where
  base : Nat
  next : Nat
  header : List Word
  entry : List Word
  built : List Instrument
deriving DecidableEq, Repr

/-- The progress of phase 2: the header (whose blocks the end of LOAD hands out), the instrument being read,
its attempts so far, and the attempt in flight with the words returned, each with its parity mark (R57). -/
structure RecordRead where
  header : List Word
  instr : Nat
  attempt : Nat
  inFlight : Bool
  torn : Bool
  got : List (Word × Bool)
deriving DecidableEq, Repr

/-- Where LOAD stands. -/
inductive LoadProgress where
  | idle
  | phase1 (d : DirectoryRead)
  | phase2 (r : RecordRead)
deriving DecidableEq, Repr

/-! ### The Capture Unit (chapter 4) -/

/-- A commit's flag set (R184). -/
structure CommitFlags where
  trade : Bool
  quote : Bool
  halt : Bool
  resume : Bool
  fastOn : Bool
  fastOff : Bool
deriving DecidableEq, Repr

/-- A held staging slot (R65): the value of field word n, absent when the written mask does not name it. -/
structure StagingSlot where
  instr : Nat
  openTime : Time
  values : Vector (Option Word) 7
deriving DecidableEq, Repr

/-- An entry of the Fetch Queue (R72). -/
structure FetchEntry where
  instr : Nat
  flags : CommitFlags
  seq : BitVec 12
  time : Time
  attempt : Nat
  torn : Bool
deriving DecidableEq, Repr

/-- The attempt in progress at the head of the Fetch Queue: the field words it reads, and those returned, each
with its parity mark (R73). -/
structure FetchAttempt where
  plan : List (Fin 7)
  got : List (Word × Bool)
deriving DecidableEq, Repr

/-- The Capture Unit's state (chapter 4). -/
structure CaptureUnit where
  active : Bool
  /-- the staging slots that are held, at most 16; the others are free -/
  staging : List StagingSlot
  fetchQueue : List FetchEntry
  attempt : Option FetchAttempt
  /-- the last part read placed was a phase-2 read (R73, the turn of the two kinds) -/
  lastWasPhase2 : Bool
deriving DecidableEq, Repr

/-! ### The board links (chapter 6) -/

/-- A fraction in lowest terms, with denominator 2, 4, 8 or 16 (R86). -/
structure Fraction where
  num : Nat
  den : Nat
deriving DecidableEq, Repr

/-- The glyph set (para 6.2). -/
inductive Glyph where
  | blank
  | digit (d : Nat)
  | fraction (f : Fraction)
  | plus
  | minus
  | arrowUp
  | arrowDown
  | levelUp
  | levelDown
  | letterH
  | letterF
  | overRange
  | allSegments
deriving DecidableEq, Repr

/-- An image: the glyphs of the 12 cells (para 6.2). -/
abbrev Image := Vector Glyph 12

/-- The blank image. -/
def Image.blank : Image := Vector.replicate 12 Glyph.blank

/-- A lamp setting: brightness 0 to 4 and the flash mask over the 12 cells (R107). -/
structure Setting where
  brightness : Nat
  flash : BitVec 12
deriving DecidableEq, Repr

/-- The kind of a chain position (R102). -/
inductive PositionKind where
  | notFitted
  | home
  | spare
deriving DecidableEq, Repr

/-- The state of a chain position (para 6.5). -/
inductive ModuleState where
  | unknown
  | active
  | idle
  | tripped
  | absent
  | failed
deriving DecidableEq, Repr

/-- A chain position of a link: what its controller keeps for it, its trip count, and the Drive Protection
Unit's trip-disable flag (R102, R107, R110, R127, R128). -/
structure Position where
  kind : PositionKind
  state : ModuleState
  trips : Nat
  missed : Nat
  /-- the shown image, absent when unknown -/
  shownImage : Option Image
  /-- the shown setting, absent when unknown -/
  shownSetting : Option Setting
  lastFrame : Time
  tripDisabled : Bool
deriving DecidableEq, Repr

/-- A logical module of a link: the chain position it targets, absent for NONE (a target is always on the
module's own link, R103), its target image, and the start of its flash timer while that runs (R123). -/
structure LogicalModule where
  target : Option (Fin 16)
  image : Image
  flash : Option Time
deriving DecidableEq, Repr

/-- A frame of a board link (R108). A position code of 16 or more stands for 1FH, every module of the link. -/
inductive LinkFrame where
  | cells (code : BitVec 5) (first : Nat) (glyphs : List Glyph)
  | set (code : BitVec 5) (setting : Setting)
  | poll (code : BitVec 5)
deriving DecidableEq, Repr

/-- What a link is doing: nothing; sending a frame, with the frames to be sent straight after it and whether
its reply is waited for; or waiting for the reply of a frame since a time (R108, R109). -/
inductive Wire where
  | quiet
  | sending (f : LinkFrame) (next : List LinkFrame) (reply : Bool)
  | awaiting (f : LinkFrame) (since : Time)
deriving DecidableEq, Repr

/-- The trip policy of a link (R128). -/
inductive TripPolicy where
  | moduleOnly
  | link
  | board
deriving DecidableEq, Repr

/-- A board link controller (chapter 6). -/
structure Link where
  running : Bool
  chainLength : Nat
  spareCount : Nat
  policy : TripPolicy
  positions : Vector Position 16
  modules : Vector LogicalModule 16
  wire : Wire
  /-- the chain position last sent a SET -/
  lastSet : Fin 16
  /-- the chain position last sent a CELLS -/
  lastCells : Fin 16
deriving DecidableEq, Repr

/-! ### The Drive Protection Unit (chapter 7) -/

/-- A comparator input with its filter (R132). -/
structure Filter where
  /-- the raw level of the input -/
  raw : Bool
  /-- the taken level -/
  taken : Bool
  /-- when the watch on a differing raw level began -/
  watch : Option Time
deriving DecidableEq, Repr

/-- The six limit reasons (R141). -/
structure Reasons where
  stage : Bool
  warm : Bool
  lwarn : Bool
  llow : Bool
  hot : Bool
  tripDisabled : Bool
deriving DecidableEq, Repr

/-- The governor (para 7.5). -/
structure Governor where
  limitWord : Word
  x : Nat
  y : Nat
  /-- the samples of the window, oldest first -/
  window : List Nat
  /-- the samples since the last stage change, up to N -/
  count : Nat
  stage : Nat
  /-- when the last sample was due; the next is due 10 ms after it -/
  lastSample : Time
deriving DecidableEq, Repr

/-- A LAMP TEST in progress: the link under test, since when, and the links still to be tested (R142). -/
structure LampTest where
  link : Fin 8
  since : Time
  rest : List (Fin 8)
deriving DecidableEq, Repr

/-- A HOT check in progress: since when, and the links its REARM named (R131). -/
structure HotCheck where
  since : Time
  links : List (Fin 8)
deriving DecidableEq, Repr

/-- The Drive Protection Unit's state (chapter 7), less the trip-disable flags, which stand with the
positions. -/
structure DriveUnit where
  warm : Filter
  hot : Filter
  lwarn : Filter
  llow : Filter
  hotLatch : Bool
  governor : Governor
  /-- the limit reason log -/
  log : Reasons
  lampTest : Option LampTest
  hotCheck : Option HotCheck
deriving DecidableEq, Repr

/-! ### The Ticker Unit (chapter 8) -/

/-- A print (R145). -/
structure Print where
  instr : Nat
  price : Nat
  base : FractionBase
  size : Nat
  captured : Time
deriving DecidableEq, Repr

/-- A character of the text buffer, with its end mark (R153). -/
structure TapeChar where
  char : Byte
  endMark : Bool
deriving DecidableEq, Repr

/-- The lateness mode (R149). -/
inductive TapeMode where
  | punctual
  | late
  | deleted
deriving DecidableEq, Repr

/-- The speed of the ribbon, and of the step interval in progress (R155, R159). -/
inductive TapeSpeed where
  | slow
  | normal
  | fast
  /-- the 960 columns per second of a blank-out -/
  | blankOut
deriving DecidableEq, Repr

/-- The ribbon's condition (R159). -/
inductive RibbonCondition where
  | still
  /-- a blank-out, with the steps it has still to make, 480 at its start -/
  | blanking (left : Nat)
  | running
deriving DecidableEq, Repr

/-- The ticker block (R50). -/
structure TickerBlock where
  baseSpeed : TapeSpeed
  /-- T1 in seconds -/
  t1 : Nat
  /-- T2 in seconds -/
  t2 : Nat
  /-- the size threshold S in lots -/
  threshold : Nat
deriving DecidableEq, Repr

/-- The Ticker Unit's state (chapter 8). -/
structure TickerUnit where
  /-- the Print Queue, oldest first -/
  queue : List Print
  /-- the text buffer, head first -/
  buffer : List TapeChar
  /-- the held text, empty when none waits -/
  held : List TapeChar
  mode : TapeMode
  /-- the last lateness measured, in milliseconds -/
  lateness : Time
  hold : Bool
  condition : RibbonCondition
  /-- a LOAD has ended DONE since the blank-out in progress began, and none has been taken since -/
  loadedInBlankOut : Bool
  /-- the column phase, 0 to 5 -/
  phase : Nat
  /-- the step interval in progress -/
  interval : TapeSpeed
  /-- the character drawn at the last phase 0 carried an end mark -/
  gapDue : Bool
  /-- the visible window, oldest character first -/
  window : List Byte
  block : TickerBlock
  /-- the column last presented at the ribbon port -/
  portColumn : BitVec 7
  /-- the brightness presented at the ribbon port -/
  portBrightness : Nat
deriving DecidableEq, Repr

/-! ### The Line Unit (chapter 9) -/

/-- The state of a terminal line (para 9.1). -/
inductive LineState where
  | off
  | active
  | dozing
  | muted
deriving DecidableEq, Repr

/-- The rate of a terminal line (R48). -/
inductive Rate where
  | none
  | b1200
  | b2400
  | b4800
  | b9600
deriving DecidableEq, Repr

/-- The NOTICE codes (R176). -/
inductive Notice where
  | unknown
  | full
  | inboxBusy
deriving DecidableEq, Repr

/-- An entry of an outbound queue (R176). -/
inductive OutEntry where
  | quote (instr : Nat)
  | page (instr : Nat)
  | ack (seq : Byte)
  | notice (code : Notice)
deriving DecidableEq, Repr

/-- The inbound assembler: hunting, or assembling with the characters taken since the mark and the time of the
last character, the mark included (R166, R167). -/
inductive Assembler where
  | hunting
  | assembling (got : List Byte) (lastChar : Time)
deriving DecidableEq, Repr

/-- A Line Controller (chapter 9). -/
structure Line where
  state : LineState
  rate : Rate
  /-- the class, 0 to 3 -/
  cls : Nat
  /-- the doze time in seconds, 0 for never -/
  doze : Nat
  watch : List Nat
  out : List OutEntry
  awaited : List Byte
  nextSeq : Byte
  assembler : Assembler
  /-- the bad-frame run, 0 to 8 -/
  badRun : Nat
  /-- when the doze timer was last restarted, absent when it is stopped -/
  dozeTimer : Option Time
  /-- the characters of the frames in the transmitter, empty when the transmitter is -/
  transmitter : List Byte
deriving DecidableEq, Repr

/-- The line service arbiter's round-robin places, one for each class 1 to 3 (R178). -/
structure ServicePlaces where
  class1 : Fin 16
  class2 : Fin 16
  class3 : Fin 16
deriving DecidableEq, Repr

/-! ### The whole part -/

/-- The part's state, with the queue of the commands that wait. -/
structure State where
  mem : MemoryPath
  rst : ResetState
  ctl : ControlUnit
  /-- the handed writes that no unit has taken yet, oldest first -/
  handed : List Handed
  tbl : InstrumentTable
  load : LoadProgress
  cap : CaptureUnit
  links : Vector Link 8
  /-- the flash time in seconds, 0 to 7 (R123) -/
  flashTime : Nat
  drive : DriveUnit
  tape : TickerUnit
  lines : Vector Line 16
  service : ServicePlaces
  /-- the commands that wait, first in first out -/
  pending : List Instr
deriving DecidableEq, Repr

/-! ### The reset values of the blocks -/

/-- The guard windows after every reset: OFF, base and limit 0 (R9). -/
def GuardWindow.reset : GuardWindow := ⟨0, 0, .off⟩

/-- The parity trap after every reset: disarmed, compare value and mask 0 (R12). -/
def Trap.reset : Trap := ⟨0, 0, false⟩

/-- The command record at the end of every reset: IDLE, sequence 0, no result code, detail 0 (R26). Its command code 0
and its parameter copy of zeros are the model's (assumption 32, DESIGN CHOICE). -/
def CommandRecord.reset : CommandRecord := ⟨.idle, 0, 0, none, 0, Vector.replicate 6 0⟩

/-- The Instrument Table when it is empty (R40). -/
def InstrumentTable.empty : InstrumentTable := ⟨[], [], [], none, Vector.replicate 128 none, 0⟩

/-- The Capture Unit when it is inactive and empty (R64). -/
def CaptureUnit.empty : CaptureUnit := ⟨false, [], [], none, false⟩

/-- A position of a link whose controller has been cleared (R125). -/
def Position.cleared : Position := ⟨.notFitted, .unknown, 0, 0, none, none, 0, false⟩

/-- Logical module `m` of a cleared link: it targets its home, its image is blank, its timer stopped (R125). -/
def LogicalModule.cleared (m : Fin 16) : LogicalModule := ⟨some m, Image.blank, none⟩

/-- The CELLS frame of the broadcast blank (R125). -/
def LinkFrame.blankCells : LinkFrame := .cells 0x1F 0 (List.replicate 12 Glyph.blank)

/-- The SET frame of the broadcast blank (R125). -/
def LinkFrame.blankSet : LinkFrame := .set 0x1F ⟨0, 0⟩

/-- A cleared link that has begun the broadcast blank on a free wire (R125). -/
def Link.cleared : Link :=
  ⟨false, 0, 0, .moduleOnly, Vector.replicate 16 Position.cleared, Vector.ofFn LogicalModule.cleared,
    .sending .blankCells [.blankSet] false, 15, 15⟩

/-- A filter at the end of a reset, its raw level absent (R132). -/
def Filter.reset : Filter := ⟨false, false, none⟩

/-- No limit reason (R144). -/
def Reasons.clear : Reasons := ⟨false, false, false, false, false, false⟩

/-- The governor at the end of every reset (R138, R140); its samples are counted from the reading `now`. -/
def Governor.reset (now : Time) : Governor := ⟨0, 0, 0, [], 0, 0, now⟩

/-- The Drive Protection Unit at the end of a reset with every raw input absent (R144). -/
def DriveUnit.reset : DriveUnit :=
  ⟨Filter.reset, Filter.reset, Filter.reset, Filter.reset, false, Governor.reset 0, Reasons.clear, none, none⟩

/-- The Ticker Unit at the end of every reset: empty, with a blank-out begun (R160). -/
def TickerUnit.reset : TickerUnit :=
  ⟨[], [], [], .punctual, 0, false, .blanking 480, false, 0, .blankOut, false, List.replicate 80 0x20,
    ⟨.normal, 30, 90, 0⟩, 0, 0⟩

/-- A line that is OFF (R162). -/
def Line.off : Line := ⟨.off, .none, 0, 0, [], [], [], 0, .hunting, 0, none, []⟩

/-- The chain positions, and the lines, in order. -/
def all16 : List (Fin 16) := [0, 1, 2, 3, 4, 5, 6, 7, 8, 9, 10, 11, 12, 13, 14, 15]

/-- The links in order. -/
def all8 : List (Fin 8) := [0, 1, 2, 3, 4, 5, 6, 7]

/-- What the end of a power-on reset leaves waiting behind the reset cause word, which is being written: every
other named status word in offset order, every module table word, every line table word (R30). -/
def resetEntries : List WbEntry :=
  [.table .partState [0, 0], .table .commandStatus [0, 0], .table .refusal [0], .table .driveState [0xFF00],
    .table .limitReasons [0], .table .governorStage [0], .table .tickerState [0, 0], .table .faultStatus [0],
    .table .inboxStatus [0]] ++
  all8.flatMap (fun k => all16.map (fun p => .table (.moduleWord k p) [0xFF00])) ++
  all16.map (fun l => .table (.lineWord l) [0])

/-- The machine at the end of a power-on reset (R19, R22, R26, R30, R32, R34, R36, R37, R39, R40, R64, R125, R144,
R160, R162), with the straps at 0, 0 and every comparator input absent (assumptions 1 and 2). The part-owned
region has been cleared, the reset cause word is on the RAM port, and the other status and table words wait
behind it. -/
def State.reset : State where
  mem :=
    { installed := .k128
      ram := ⟨[], 0, 0x1F020, 1888⟩
      refresh := ⟨true, .normal, 0, 0⟩
      waiting := none
      parts := []
      port := some (.part ⟨.writeBack, 0x1F020, some 1, 0⟩ false)
      guards := Vector.replicate 4 GuardWindow.reset
      guardLock := false
      trap := Trap.reset
      bus := none }
  rst := ⟨false, false, false, false, false⟩
  ctl :=
    { partState := .unloaded
      command := CommandRecord.reset
      refusal := ⟨0, false⟩
      latches := Vector.replicate 6 0
      writeBack := ⟨some (.table .resetCause [1], 0), resetEntries⟩
      log := ⟨0, 0, 0, false, false⟩
      inbox := ⟨0, 0, 0⟩
      alert := ⟨false, false, false, false⟩
      causes := ⟨true, false, false⟩
      timeBase := 0 }
  handed := []
  tbl := InstrumentTable.empty
  load := .idle
  cap := CaptureUnit.empty
  links := Vector.replicate 8 Link.cleared
  flashTime := 0
  drive := DriveUnit.reset
  tape := TickerUnit.reset
  lines := Vector.replicate 16 Line.off
  service := ⟨15, 15, 15⟩
  pending := []

end Sys2Proof.Machine
end

