-- ==== Sys2Proof/Machine/Operands.lean ====
section
/-! DEFINITION. Reading words: the parts of a word, parameters, commit words and directory fields (chapter 10). -/

namespace Sys2Proof.Machine

open Sys2Proof

/-! ### Bits, bytes and parity -/

/-- The upper byte of a word. -/
def upperByte (w : Word) : Byte := w.extractLsb' 8 8

/-- The lower byte of a word. -/
def lowerByte (w : Word) : Byte := w.extractLsb' 0 8

/-- Whether the number of ones among the bits of `v` is odd. -/
def oddOnes {n : Nat} (v : BitVec n) : Bool := (List.range n).foldl (fun acc i => acc ^^ v.getLsbD i) false

/-- The parity bit that makes a byte odd (para 0.8, odd parity per byte lane). -/
def byteParity (b : Byte) : Bool := !oddOnes b

/-- Whether a byte and its parity bit are odd together. -/
def byteParityGood (b : Byte) (p : Bool) : Bool := oddOnes b ^^ p

/-- A pair of words as a 32-bit quantity, the high half first (chapter 10). -/
def pairValue (high low : Word) : Nat := high.toNat * 65536 + low.toNat

/-- The high and low halves of a 32-bit quantity, high first (chapter 10). -/
def highLow (v : Nat) : List Word := [BitVec.ofNat 16 (v / 65536), BitVec.ofNat 16 v]

/-- A 20-bit address in two words; none when a bit above the 20th is set (para 10.1). -/
def addr20 (high low : Word) : Option Nat :=
  if high.toNat < 16 then some (pairValue high low) else none

/-- A group of `width` bits of a word, from bit `low` up, as a number. -/
def bitField (w : Word) (low width : Nat) : Nat := (w.toNat / 2 ^ low) % 2 ^ width

/-! ### Installed memory (R1) -/

/-- The installed size in words (R1). -/
def MemSize.words : MemSize → Nat
  | .k128 => 131072
  | .k256 => 262144
  | .k512 => 524288

/-- The size the straps select; 1, 1 is read as 128K (R1). -/
def sizeOfStraps (p : Straps) : MemSize :=
  match p.sz1, p.sz0 with
  | false, false => .k128
  | false, true => .k256
  | true, false => .k512
  | true, true => .k128

/-- The first word of the Control Area: the top 4096 words of installed memory (R1). -/
def controlBase (m : MemSize) : Nat := m.words - 4096

/-- The offset in the Control Area of an existing address; none below it. -/
def controlOffset (m : MemSize) (a : Nat) : Option Nat :=
  if controlBase m ≤ a ∧ a < m.words then some (a - controlBase m) else none

/-- Offsets 020H to 77FH are the part-owned region (R8). -/
def ownedOffset (off : Nat) : Bool := decide (0x20 ≤ off ∧ off ≤ 0x77F)

/-- The number of words in the part-owned region (R19). -/
def regionWords : Nat := 1888

/-! ### Commands (para 10.1) -/

/-- The command code of a command word, bits 15 to 10. -/
def commandCode (w : Word) : Nat := bitField w 10 6

/-- The sequence of a command word, bits 9 to 0. -/
def commandSeq (w : Word) : BitVec 10 := w.extractLsb' 0 10

/-- Codes 0 and 17 to 63 are unknown (para 10.1). -/
def unknownCode (code : Nat) : Bool := decide (code = 0 ∨ 17 ≤ code)

/-- The commands that UNLOADED takes: LOAD, SET GUARD, LOCK GUARDS, ARM TRAP, CLEAR CAUSES (R25). -/
def takenUnloaded (code : Nat) : Bool := [1, 13, 14, 15, 16].contains code

/-- The links that REARM's and LAMP TEST's parameter names: one link, or all by 00FFH (R129, R142). -/
def linksNamed (w : Word) : Option (List (Fin 8)) :=
  if w = 0xFF then some all8
  else if h : w.toNat < 8 then some [⟨w.toNat, h⟩] else none

/-- The mode code of SET GUARD (para 10.1). -/
def guardMode (w : Word) : Option GuardMode :=
  if w = 0 then some .off else if w = 1 then some .refuse else if w = 2 then some .drop else none

/-- A rate code (para 10.1). -/
def rateOfCode (w : Word) : Option Rate :=
  if w = 0 then some .none else if w = 1 then some .b1200 else if w = 2 then some .b2400
  else if w = 3 then some .b4800 else if w = 4 then some .b9600 else none

/-- A doze time: 1 to 29 is raised to 30, above 3600 is lowered to 3600, 0 stands for never (R48, R163). -/
def clampDoze (n : Nat) : Nat := if n = 0 then 0 else max 30 (min n 3600)

/-! ### The commit word (R184) -/

/-- The sequence of a commit word, bits 11 to 0 (para 10.5). -/
def commitSeq (w : Word) : BitVec 12 := w.extractLsb' 0 12

/-- The flag set of a commit word's code, bits 15 to 12 (R184). -/
def commitFlags (w : Word) : CommitFlags :=
  match bitField w 12 4 with
  | 0 => ⟨false, false, false, false, false, false⟩
  | 1 => ⟨true, false, false, false, false, false⟩
  | 2 => ⟨false, true, false, false, false, false⟩
  | 3 => ⟨true, true, false, false, false, false⟩
  | 4 => ⟨false, false, true, false, false, false⟩
  | 5 => ⟨true, false, true, false, false, false⟩
  | 6 => ⟨false, true, true, false, false, false⟩
  | 7 => ⟨false, false, false, true, false, false⟩
  | 8 => ⟨true, false, false, true, false, false⟩
  | 9 => ⟨true, true, false, true, false, false⟩
  | 10 => ⟨false, false, false, false, true, false⟩
  | 11 => ⟨false, false, false, false, false, true⟩
  | 12 => ⟨true, true, false, false, true, false⟩
  | 13 => ⟨false, false, true, true, false, false⟩
  | 14 => ⟨false, false, false, false, true, true⟩
  | _ => ⟨false, false, true, true, true, true⟩

/-! ### The directory header (R47 to R50, para 10.4) -/

/-- Word `i` of the words read so far. -/
def wordAt (ws : List Word) (i : Nat) : Word := ws.getD i 0

/-- The instrument count. -/
def headerCount (ws : List Word) : Nat := (wordAt ws 0).toNat

/-- The chain length of link `k`. -/
def headerChain (ws : List Word) (k : Nat) : Nat := (wordAt ws (16 + 4 * k)).toNat

/-- The spare count of link `k`. -/
def headerSpares (ws : List Word) (k : Nat) : Nat := (wordAt ws (16 + 4 * k + 1)).toNat

/-- The trip policy of link `k`; none for a code above 2. -/
def headerPolicy (ws : List Word) (k : Nat) : Option TripPolicy :=
  let w := wordAt ws (16 + 4 * k + 2)
  if w = 0 then some .moduleOnly else if w = 1 then some .link else if w = 2 then some .board else none

/-- A link block is good when the chain length is 1 to 16, the spare count 0 to 2 and less than it, and the
policy one of three (R47). -/
def linkBlockGood (ws : List Word) (k : Nat) : Bool :=
  decide (1 ≤ headerChain ws k ∧ headerChain ws k ≤ 16 ∧ headerSpares ws k ≤ 2 ∧
    headerSpares ws k < headerChain ws k) && (headerPolicy ws k).isSome

/-- The governor block is good when X is at most 3 and Y at most 5 (R50). -/
def governorBlockGood (ws : List Word) : Bool :=
  decide ((wordAt ws 49).toNat ≤ 3 ∧ (wordAt ws 50).toNat ≤ 5)

/-- The ticker block is good when the base speed is SLOW or NORMAL and the flash time at most 7 (R50). -/
def tickerBlockGood (ws : List Word) : Bool :=
  decide ((wordAt ws 56).toNat ≤ 1 ∧ (wordAt ws 60).toNat ≤ 7)

/-- T1 and T2 are clamped to 5 to 600 seconds (R50). -/
def clampLate (n : Nat) : Nat := max 5 (min n 600)

/-- The ticker block that the end of LOAD hands out: T2 is raised to T1 after both have been clamped (R50). -/
def headerTicker (ws : List Word) : TickerBlock :=
  let t1 := clampLate (wordAt ws 57).toNat
  { baseSpeed := if wordAt ws 56 = 0 then .slow else .normal
    t1 := t1
    t2 := max t1 (clampLate (wordAt ws 58).toNat)
    threshold := (wordAt ws 59).toNat }

/-- The flash time in seconds (R50). -/
def headerFlash (ws : List Word) : Nat := (wordAt ws 60).toNat

/-- The first word of the line block of line `l`. -/
def lineBlockAt (l : Nat) : Nat := 64 + 28 * l

/-- The rate of line `l`; none for a code outside the five. -/
def headerRate (ws : List Word) (l : Nat) : Option Rate := rateOfCode (wordAt ws (lineBlockAt l))

/-- The class word of line `l`. -/
def headerClass (ws : List Word) (l : Nat) : Nat := (wordAt ws (lineBlockAt l + 1)).toNat

/-- The doze time of line `l`, clamped (R48). -/
def headerDoze (ws : List Word) (l : Nat) : Nat := clampDoze (wordAt ws (lineBlockAt l + 2)).toNat

/-- The watch count of line `l`. -/
def headerWatchCount (ws : List Word) (l : Nat) : Nat := (wordAt ws (lineBlockAt l + 3)).toNat

/-- The watch list of line `l`: its first watch-count indices (para 10.4). -/
def headerWatch (ws : List Word) (l : Nat) : List Nat :=
  (List.range (headerWatchCount ws l)).map (fun j => (wordAt ws (lineBlockAt l + 4 + j)).toNat)

/-- The watch indices are checked one at a time in list order, each against the count and then against those
before it (R48). -/
def watchCheck (count : Nat) (seen : List Nat) : List Nat → Option ResultCode
  | [] => none
  | i :: rest =>
    if count ≤ i then some .watchRange
    else if seen.contains i then some .watchRepeated
    else watchCheck count (i :: seen) rest

/-- The check of line `l`'s block: none when it passes (R48). -/
def lineBlockCheck (ws : List Word) (l : Nat) : Option ResultCode :=
  match headerRate ws l with
  | none => some .badLineBlock
  | some r =>
    if (r ≠ .none ∧ 3 < headerClass ws l) ∨ 24 < headerWatchCount ws l ∨
        (r = .none ∧ headerWatchCount ws l ≠ 0) then some .badLineBlock
    else watchCheck (headerCount ws) [] (headerWatch ws l)

/-! ### A directory entry (R51, para 10.4) -/

/-- The five symbol characters of an entry. -/
def entryChars (e : List Word) : List Byte :=
  [upperByte (wordAt e 0), lowerByte (wordAt e 0), upperByte (wordAt e 1), lowerByte (wordAt e 1),
    upperByte (wordAt e 2)]

/-- A letter A to Z. -/
def isLetter (c : Byte) : Bool := decide (0x41 ≤ c.toNat ∧ c.toNat ≤ 0x5A)

/-- Every character is a letter or a blank, and no letter follows a blank (R52, check 1). -/
def lettersThenBlanks : List Byte → Bool
  | [] => true
  | c :: rest => if c = 0x20 then rest.all (· == 0x20) else isLetter c && lettersThenBlanks rest

/-- Check 1 of R52: the first character is no blank, and the five are letters and then blanks. -/
def symbolGood (cs : List Byte) : Bool :=
  (match cs with | [] => false | c :: _ => c != 0x20) && lettersThenBlanks cs

/-- The symbol: the letters before the blanks. -/
def entrySymbol (e : List Word) : List Byte := (entryChars e).filter (· != 0x20)

/-- The record address, with the bits above the 20th as they stand. -/
def entryRecord (e : List Word) : Nat := pairValue (wordAt e 3) (wordAt e 4)

/-- The fraction base; none for any value but 4, 8 and 16. -/
def entryBase (e : List Word) : Option FractionBase :=
  let w := wordAt e 5
  if w = 4 then some .quarters else if w = 8 then some .eighths else if w = 16 then some .sixteenths else none

/-- The band in units. -/
def entryBand (e : List Word) : Nat := pairValue (wordAt e 6) (wordAt e 7)

/-- The hold timeout, clamped to 5 to 255 seconds (R41). -/
def entryTimeout (e : List Word) : Nat := max 5 (min (wordAt e 8).toNat 255)

/-- The close-present flag. -/
def entryClosePresent (e : List Word) : Bool := (wordAt e 9).getLsbD 0

/-- The ticker eligible flag. -/
def entryEligible (e : List Word) : Bool := (wordAt e 9).getLsbD 1

/-- The close in units. -/
def entryClose (e : List Word) : Nat := pairValue (wordAt e 10) (wordAt e 11)

/-- A board slot: FFFFH is NONE. -/
def slotOf (w : Word) : Option Nat := if w = 0xFFFF then none else some w.toNat

/-- The board slots of an entry, NONE left out. -/
def entrySlots (e : List Word) : List Nat := [slotOf (wordAt e 12), slotOf (wordAt e 13)].filterMap id

end Sys2Proof.Machine
end

