-- ==== Sys2Proof/Machine/Flags.lean ====
section
/-! DEFINITION. The part's flags and status words: the ALERT output, the limit reasons, and every word of the status
area, the module table and the line table, as chapter 10 lays them out. -/

namespace Sys2Proof.Machine

open Sys2Proof

/-- A flag as a bit of a word. -/
def bitOf (b : Bool) (n : Nat) : Nat := if b then 2 ^ n else 0

/-! ### ALERT (R36) -/

/-- FAULT holds while the fault log has an unread record. -/
def State.causeFault (s : State) : Bool := s.ctl.log.writeIndex != s.ctl.log.readIndex

/-- INBOX holds while the inbox has an unread slot. -/
def State.causeInbox (s : State) : Bool := s.ctl.inbox.writeIndex != s.ctl.inbox.readIndex

/-- The ALERT output: asserted while a cause holds whose enable is set, released during every reset (R36). -/
def State.alertOut (s : State) : Bool :=
  !s.rst.inReset &&
    ((s.causeFault && s.ctl.alert.enableFault) || (s.causeInbox && s.ctl.alert.enableInbox) ||
      (s.ctl.alert.commandCause && s.ctl.alert.enableCommand))

/-! ### Codes (para 10.2) -/

/-- The part state's code. -/
def PartState.code : PartState → Nat
  | .unloaded => 0
  | .loading => 1
  | .running => 2

/-- The command state's code. -/
def CommandState.code : CommandState → Nat
  | .idle => 0
  | .running => 1
  | .done => 2
  | .refused => 3

/-- The result code's number. -/
def ResultCode.code : ResultCode → Nat
  | .unknown => 1
  | .notLoaded => 2
  | .badParameter => 3
  | .locked => 4
  | .heldPrices => 5
  | .noHold => 6
  | .notIdle => 7
  | .homeNotReady => 8
  | .stillHot => 9
  | .driveOff => 10
  | .notMuted => 11
  | .badCount => 16
  | .badLinkBlock => 17
  | .badGovernorBlock => 18
  | .badTickerBlock => 19
  | .badLineBlock => 20
  | .watchRange => 21
  | .watchRepeated => 22
  | .badSymbol => 23
  | .duplicateSymbol => 24
  | .badFractionBase => 25
  | .recordMisaligned => 26
  | .recordInControlArea => 27
  | .recordOverlap => 28
  | .moduleRange => 29
  | .moduleSpare => 30
  | .moduleTwice => 31
  | .directoryBeyondMemory => 32
  | .directoryParity => 33

/-- The lateness mode's code. -/
def TapeMode.code : TapeMode → Nat
  | .punctual => 0
  | .late => 1
  | .deleted => 2

/-- The position kind's code in a module table word. -/
def PositionKind.code : PositionKind → Nat
  | .notFitted => 0
  | .home => 1
  | .spare => 2

/-- The module state's code. -/
def ModuleState.code : ModuleState → Nat
  | .unknown => 0
  | .active => 1
  | .idle => 2
  | .tripped => 3
  | .absent => 4
  | .failed => 5

/-- The line state's code. -/
def LineState.code : LineState → Nat
  | .off => 0
  | .active => 1
  | .dozing => 2
  | .muted => 3

/-- The rate code (para 10.1). -/
def Rate.code : Rate → Nat
  | .none => 0
  | .b1200 => 1
  | .b2400 => 2
  | .b4800 => 3
  | .b9600 => 4

/-- The trip policy's code. -/
def TripPolicy.code : TripPolicy → Nat
  | .moduleOnly => 0
  | .link => 1
  | .board => 2

/-- The size code (para 10.3). -/
def MemSize.code : MemSize → Nat
  | .k128 => 0
  | .k256 => 1
  | .k512 => 2

/-! ### Drive enables and limit reasons (R128, R141) -/

/-- A link's drive enable: none of its fitted positions is trip-disabled (R128). -/
def Link.driveEnable (k : Link) : Bool :=
  all16.all (fun p => k.positions[p].kind == .notFitted || !k.positions[p].tripDisabled)

/-- Whether any fitted position of any link is trip-disabled (R141). -/
def State.anyTripDisabled (s : State) : Bool := all8.any (fun k => !s.links[k].driveEnable)

/-- The limit reason status, each flag following its cause (R141). -/
def State.limitStatus (s : State) : Reasons :=
  { stage := decide (0 < s.drive.governor.stage)
    warm := s.drive.warm.taken
    lwarn := s.drive.lwarn.taken
    llow := s.drive.llow.taken
    hot := s.drive.hotLatch
    tripDisabled := s.anyTripDisabled }

/-- Six reasons as the six bits of a half of the limit reasons word, from the lowest (para 10.2). -/
def Reasons.bits (r : Reasons) : Nat :=
  bitOf r.stage 0 + bitOf r.warm 1 + bitOf r.lwarn 2 + bitOf r.llow 3 + bitOf r.hot 4 + bitOf r.tripDisabled 5

/-- The reasons of either set. -/
def Reasons.union (a b : Reasons) : Reasons :=
  ⟨a.stage || b.stage, a.warm || b.warm, a.lwarn || b.lwarn, a.llow || b.llow, a.hot || b.hot,
    a.tripDisabled || b.tripDisabled⟩

/-- The reasons of both sets. -/
def Reasons.inter (a b : Reasons) : Reasons :=
  ⟨a.stage && b.stage, a.warm && b.warm, a.lwarn && b.lwarn, a.llow && b.llow, a.hot && b.hot,
    a.tripDisabled && b.tripDisabled⟩

/-! ### The lateness that is shown (R148) -/

/-- The shown lateness in whole seconds, at most 65,535. -/
def TickerUnit.shownLateness (t : TickerUnit) : Nat := min (t.lateness.toNat / 1000) 65535

/-! ### The words (para 10.2) -/

/-- The drive state word. -/
def State.driveStateWord (s : State) : Word :=
  BitVec.ofNat 16 (bitOf s.drive.hotLatch 0 + bitOf s.drive.warm.taken 1 + bitOf s.drive.lwarn.taken 2 +
    bitOf s.drive.llow.taken 3 + (all8.map (fun k => bitOf s.links[k].driveEnable (8 + k.val))).sum)

/-- The module table word of chain position `p` of link `k`: kind, state, trip count, and the target of the
logical module whose home it is (R121). -/
def Link.moduleWord (l : Link) (k : Fin 8) (p : Fin 16) : Word :=
  let q := l.positions[p]
  let target :=
    match q.kind, l.modules[p].target with
    | .home, some t => 16 * k.val + t.val
    | _, _ => 0xFF
  let state := if q.kind = .notFitted then 0 else q.state.code
  BitVec.ofNat 16 (q.kind.code + 4 * state + 32 * q.trips + 256 * target)

/-- The line table word (R162). -/
def Line.tableWord (l : Line) : Word :=
  BitVec.ofNat 16 (l.state.code + 4 * l.rate.code + 32 * l.cls + 256 * l.watch.length)

/-- The value of each word, or pair of words, that the part writes in place, as the state has it now. -/
def State.tableWords (s : State) : TableWord → List Word
  | .resetCause =>
    [BitVec.ofNat 16 (bitOf s.ctl.causes.power 0 + bitOf s.ctl.causes.external 1 + bitOf s.ctl.causes.supply 2)]
  | .partState => [BitVec.ofNat 16 s.ctl.partState.code, s.tbl.dayNumber]
  | .commandStatus =>
    let c := s.ctl.command
    [BitVec.ofNat 16 (1024 * (match c.result with | none => 0 | some r => r.code) + c.detail),
      BitVec.ofNat 16 (16384 * c.state.code + c.seq.toNat)]
  | .refusal => [BitVec.ofNat 16 (bitOf s.ctl.refusal.busy 14 + s.ctl.refusal.seq.toNat)]
  | .driveState => [s.driveStateWord]
  | .limitReasons => [BitVec.ofNat 16 (s.limitStatus.bits + 256 * s.drive.log.bits)]
  | .governorStage => [BitVec.ofNat 16 s.drive.governor.stage]
  | .tickerState =>
    [BitVec.ofNat 16 (s.tape.mode.code + bitOf s.tape.hold 2 + 256 * s.tape.queue.length),
      BitVec.ofNat 16 s.tape.shownLateness]
  | .faultStatus =>
    let g := s.ctl.log
    [BitVec.ofNat 16 (g.writeIndex.toNat + 256 * g.readIndex.toNat + bitOf g.overflowMark 15)]
  | .inboxStatus => [BitVec.ofNat 16 (s.ctl.inbox.writeIndex.toNat + 256 * s.ctl.inbox.readIndex.toNat)]
  | .moduleWord k p => [s.links[k].moduleWord k p]
  | .lineWord l => [s.lines[l].tableWord]

/-- The Control Area offset of the word, or of the first word of the pair (para 10.2). -/
def TableWord.offset : TableWord → Nat
  | .resetCause => 0x20
  | .partState => 0x21
  | .commandStatus => 0x23
  | .refusal => 0x25
  | .driveState => 0x26
  | .limitReasons => 0x27
  | .governorStage => 0x28
  | .tickerState => 0x29
  | .faultStatus => 0x2B
  | .inboxStatus => 0x2C
  | .moduleWord k p => 0x40 + 16 * k.val + p.val
  | .lineWord l => 0xC0 + l.val

end Sys2Proof.Machine
end

