-- ==== Sys2Proof/Machine/Ops.lean ====
section
/-! DEFINITION. The shared operations: the RAM, the arbiter, the write-back queue, the fault log, commands and handed
writes, and how a command's meaning answers. -/

namespace Sys2Proof.Machine

open Sys2Proof

/-! ### The RAM -/

/-- A word with fresh, good parity for both bytes (R6, R17). -/
def freshWord (w : Word) : RamWord := ⟨w, byteParity (upperByte w), byteParity (lowerByte w)⟩

/-- The upper byte's stored parity is good. -/
def upperGood (r : RamWord) : Bool := byteParityGood (upperByte r.word) r.upperParity

/-- The lower byte's stored parity is good. -/
def lowerGood (r : RamWord) : Bool := byteParityGood (lowerByte r.word) r.lowerParity

/-- Both bytes' stored parity is good. -/
def wordGood (r : RamWord) : Bool := upperGood r && lowerGood r

/-- The lanes with bad stored parity: bit 0 the lower byte, bit 1 the upper (para 10.3). -/
def badLanes (r : RamWord) : Nat := bitOf (!lowerGood r) 0 + bitOf (!upperGood r) 1

/-- The listed word at an address. -/
def cellsGet : List (Nat × RamWord) → Nat → Option RamWord
  | [], _ => none
  | (b, w) :: rest, a => if b = a then some w else cellsGet rest a

/-- List a word at an address, keeping the addresses rising. -/
def cellsPut : List (Nat × RamWord) → Nat → RamWord → List (Nat × RamWord)
  | [], a, v => [(a, v)]
  | (b, w) :: rest, a, v =>
    if a < b then (a, v) :: (b, w) :: rest
    else if a = b then (a, v) :: rest
    else (b, w) :: cellsPut rest a v

/-- Take an address out of the list. -/
def cellsDrop : List (Nat × RamWord) → Nat → List (Nat × RamWord)
  | [], _ => []
  | (b, w) :: rest, a => if b = a then rest else (b, w) :: cellsDrop rest a

/-- Whether the address is among the words cleared since the contents were last lost. -/
def Ram.cleared (r : Ram) (a : Nat) : Bool := decide (r.clearedFrom ≤ a ∧ a < r.clearedFrom + r.clearedCount)

/-- What an address that is not listed reads as: 0000H with good parity where the part has cleared it (R19),
else a free value. -/
def Ram.unlisted (r : Ram) (a : Nat) : RamWord :=
  if r.cleared a then freshWord 0 else Config.ramContents r.era a

/-- The stored word at an address. -/
def Ram.read (r : Ram) (a : Nat) : RamWord := (cellsGet r.cells a).getD (r.unlisted a)

/-- Store a word at an address; a cleared word that is given 0000H again leaves the list. -/
def Ram.put (r : Ram) (a : Nat) (v : RamWord) : Ram :=
  if r.cleared a ∧ v = freshWord 0 then { r with cells := cellsDrop r.cells a }
  else { r with cells := cellsPut r.cells a v }

/-- Write a whole word with fresh parity (R6, R17). -/
def Ram.write (r : Ram) (a : Nat) (w : Word) : Ram := r.put a (freshWord w)

/-- The next clearing write: 0000H with good parity in the next word of the region (R19). -/
def Ram.clearNext (r : Ram) : Ram :=
  { r with cells := cellsDrop r.cells (r.clearedFrom + r.clearedCount), clearedCount := r.clearedCount + 1 }

/-- The contents are lost (R19, R20): nothing is listed, and nothing is cleared yet. -/
def Ram.lose (r : Ram) (from_ : Nat) : Ram := ⟨[], r.era + 1, from_, 0⟩

/-- The addresses of the list rise strictly. -/
def risingCells : List (Nat × RamWord) → Bool
  | [] => true
  | [_] => true
  | (a, _) :: (b, w) :: rest => decide (a < b) && risingCells ((b, w) :: rest)

/-- The canonical form of the RAM: addresses strictly rising, and no entry equal to what its address would
read as unlisted. (Outside the cleared words that is a free value, which no entry can be compared with, so a
listed word there stands whatever it is.) -/
def Ram.wf (r : Ram) : Bool :=
  risingCells r.cells && r.cells.all (fun c => !(r.cleared c.1 && decide (c.2 = freshWord 0)))

/-! ### The memory arbiter (R16) -/

/-- What the arbiter grants the port to. -/
inductive Grant where
  | refresh
  | host (c : HostCycle)
  | part (p : PartCycle) (rest : List PartCycle)
deriving DecidableEq, Repr

/-- The oldest part cycle, when part cycles are granted at all: none is while the RESET input is held (R18). -/
def State.oldestPart (s : State) : Option (PartCycle × List PartCycle) :=
  if s.rst.inputHeld then none
  else match s.mem.parts with
    | [] => none
    | p :: rest => some (p, rest)

/-- The arbiter's choice among the waiting requests, by the five steps of R16 in order; nothing is granted
while the supply is low (R20). -/
def State.arbiterChoice (s : State) : Option Grant :=
  if s.rst.supplyLow then none
  else if 8 ≤ s.mem.refresh.postponed then some .refresh
  else match s.oldestPart, s.mem.waiting with
    | some (p, rest), w =>
      if 16 ≤ p.passed then some (.part p rest)
      else match w with
        | some c => some (.host c)
        | none => if 0 < s.mem.refresh.postponed then some .refresh else some (.part p rest)
    | none, some c => some (.host c)
    | none, none => if 0 < s.mem.refresh.postponed then some .refresh else none

/-- A part cycle is passed over once more, its count stopping at 16 (R16). -/
def PartCycle.passOver (p : PartCycle) : PartCycle := { p with passed := min 16 (p.passed + 1) }

/-- Grant the free port. Counts rise when it goes to a host cycle or to refresh (R16). -/
def MemoryPath.give (m : MemoryPath) : Grant → MemoryPath
  | .refresh => { m with port := some .refresh, parts := m.parts.map PartCycle.passOver }
  | .host c => { m with port := some (.host c false), waiting := none, parts := m.parts.map PartCycle.passOver }
  | .part p rest => { m with port := some (.part p false), parts := rest }

/-- Whenever the port is free with a request waiting, the arbiter grants it (R16). -/
def grant (s : State) : State :=
  match s.mem.port with
  | some _ => s
  | none =>
    match s.arbiterChoice with
    | none => s
    | some g => { s with mem := s.mem.give g }

/-- How every meaning answers: the port, if it is left free, is granted, and the part goes on. -/
def answer (s : State) : Host.Outcome State Fault Refusal := .next (grant s)

/-- The port becomes free. -/
def freePort (s : State) : State := { s with mem := { s.mem with port := none } }

/-- A block places a part cycle at the tail of the queue, with passed-over count 0 (R16). -/
def placePart (src : PartSource) (addr : Nat) (write : Option Word) (s : State) : State :=
  { s with mem := { s.mem with parts := s.mem.parts ++ [⟨src, addr, write, 0⟩] } }

/-- A write made by the RAM port. -/
def writeRam (addr : Nat) (w : Word) (s : State) : State :=
  { s with mem := { s.mem with ram := s.mem.ram.write addr w } }

/-- The host cycle is ended (para 1.2). -/
def endHost (e : Ending) (driven : Option RamWord) (s : State) : State :=
  { s with mem := { s.mem with bus := some ⟨e, driven⟩ } }

/-! ### The write-back queue (R28, R29) -/

/-- The words of an entry. -/
def WbEntry.words : WbEntry → List Word
  | .table _ ws => ws
  | .faultRecord _ ws => ws
  | .inboxSlot _ _ _ ws => ws

/-- The Control Area offset of an entry's first word (para 2.1). -/
def WbEntry.offset : WbEntry → Nat
  | .table t _ => t.offset
  | .faultRecord slot _ => 0x100 + 16 * slot.toNat
  | .inboxSlot slot _ _ _ => 0x300 + 18 * slot.toNat

/-- A table value takes the place of the pending entry for its word, or joins the tail (R28). -/
def joinTable (t : TableWord) (ws : List Word) : List WbEntry → List WbEntry
  | [] => [.table t ws]
  | .table t' ws' :: rest => if t' = t then .table t ws :: rest else .table t' ws' :: joinTable t ws rest
  | .faultRecord n w :: rest => .faultRecord n w :: joinTable t ws rest
  | .inboxSlot n l q w :: rest => .inboxSlot n l q w :: joinTable t ws rest

/-- Place the part cycle for word `n` of the entry being written (R29). -/
def placeWriteBack (e : WbEntry) (n : Nat) (s : State) : State :=
  placePart .writeBack (controlBase s.mem.installed + e.offset + n) (some (wordAt e.words n)) s

/-- Whether a part cycle that one of some sources placed is in the queue or on the port: a block has at most one
there at a time (R16). -/
def State.outstanding (s : State) (which : PartSource → Bool) : Bool :=
  s.mem.parts.any (fun p => which p.source) ||
    (match s.mem.port with
     | some (.part p _) => which p.source
     | _ => false)

/-- When no entry is being written, the head of the queue is taken up and its first word placed (R29), unless a
write-back from before a reset is still on the port (R16). -/
def pumpWriteBack (s : State) : State :=
  match s.ctl.writeBack.active, s.ctl.writeBack.queue with
  | none, e :: rest =>
    if s.outstanding (· == .writeBack) then s
    else placeWriteBack e 0 { s with ctl := { s.ctl with writeBack := ⟨some (e, 0), rest⟩ } }
  | _, _ => s

/-- The write-back queue's waiting entries are changed. -/
def setWaiting (q : List WbEntry) (s : State) : State :=
  { s with ctl := { s.ctl with writeBack := { s.ctl.writeBack with queue := q } } }

/-- A block posts the present value of a table word (R28). -/
def post (t : TableWord) (s : State) : State :=
  pumpWriteBack (setWaiting (joinTable t (s.tableWords t) s.ctl.writeBack.queue) s)

/-- Post each of several table words, in order. -/
def postAll (ts : List TableWord) (s : State) : State := ts.foldl (fun s t => post t s) s

/-- Post each of several table words whose value differs from what it was in `old`. -/
def postChanged (old : State) (ts : List TableWord) (s : State) : State :=
  ts.foldl (fun s t => if s.tableWords t = old.tableWords t then s else post t s) s

/-- A record entry joins the tail (R28). -/
def postRecord (e : WbEntry) (s : State) : State :=
  pumpWriteBack (setWaiting (s.ctl.writeBack.queue ++ [e]) s)

/-- Every module table word, in order. -/
def moduleTable : List TableWord := all8.flatMap (fun k => all16.map (fun p => .moduleWord k p))

/-- The module table words of one link, in order. -/
def linkTable (k : Fin 8) : List TableWord := all16.map (fun p => .moduleWord k p)

/-- Every line table word, in order. -/
def lineTable : List TableWord := all16.map .lineWord

/-! ### Faults (R31) -/

/-- The fault kinds (para 10.3). -/
inductive FaultKind where
  | addressParity
  | dataParity
  | memoryParity
  | nonexistentMemory
  | ownedAreaWrite
  | guardRefused
  | guardDropped
  | sequenceGap
  | illegalFlags
  | tradeWhileHalted
  | staleStaging
  | tornRecord
  | holdExpired
  | holdSuperseded
  | holdCancelled
  | moduleTrip
  | moduleAbsent
  | moduleFailed
  | noSpare
  | hot
  | lampLow
  | lineNoise
  | printDropped
deriving DecidableEq, Repr

/-- The code of a fault kind (para 10.3). -/
def FaultKind.code : FaultKind → Nat
  | .addressParity => 1
  | .dataParity => 2
  | .memoryParity => 3
  | .nonexistentMemory => 4
  | .ownedAreaWrite => 5
  | .guardRefused => 6
  | .guardDropped => 7
  | .sequenceGap => 8
  | .illegalFlags => 9
  | .tradeWhileHalted => 10
  | .staleStaging => 11
  | .tornRecord => 12
  | .holdExpired => 13
  | .holdSuperseded => 14
  | .holdCancelled => 15
  | .moduleTrip => 16
  | .moduleAbsent => 17
  | .moduleFailed => 18
  | .noSpare => 19
  | .hot => 20
  | .lampLow => 21
  | .lineNoise => 22
  | .printDropped => 23

/-- A fault's subject (para 2.5). -/
inductive Subject where
  | none
  | address (a : Nat)
  | instrument (i : Nat)
  | logicalModule (m : Nat)
  | physicalPosition (p : Nat)
  | line (l : Nat)
deriving DecidableEq, Repr

/-- The subject type code and the subject number (para 10.3). -/
def Subject.parts : Subject → Nat × Nat
  | .none => (0, 0)
  | .address a => (1, a)
  | .instrument i => (2, i)
  | .logicalModule m => (3, m)
  | .physicalPosition p => (4, p)
  | .line l => (5, l)

/-- The 16 words of a fault record (para 10.3): kind, subject type and PRECEDED BY OVERFLOW; the time; the
subject number; four details, a pair of words each; three words of 0. -/
def faultWords (k : FaultKind) (overflow : Bool) (time : Time) (subj : Subject) (details : List Nat) : List Word :=
  BitVec.ofNat 16 (k.code + 256 * subj.parts.1 + bitOf overflow 15) ::
    (highLow time.toNat ++ highLow subj.parts.2 ++
      highLow (details.getD 0 0) ++ highLow (details.getD 1 0) ++ highLow (details.getD 2 0) ++
      highLow (details.getD 3 0) ++ [0, 0, 0])

/-- The fault log is changed. -/
def setLog (g : FaultLog) (s : State) : State := { s with ctl := { s.ctl with log := g } }

/-- A block posts a fault: it is given the next slot and queued, or it is lost, by the state of the ring (R31).
During a reset no fault is recorded (assumption 8, DESIGN CHOICE). -/
def postFault (k : FaultKind) (subj : Subject) (details : List Nat) (s : State) : State :=
  if s.rst.inReset then s
  else
    let g := s.ctl.log
    if g.nextSlot + 1 = g.readIndex then
      let t := setLog { g with overflowMark := true, overflowCarry := true } s
      if g.overflowMark then t else post .faultStatus t
    else
      postRecord (.faultRecord g.nextSlot (faultWords k g.overflowCarry s.ctl.timeBase subj details))
        (setLog { g with nextSlot := g.nextSlot + 1, overflowCarry := false } s)

/-! ### Time -/

/-- The time since an earlier reading, modulo 2^32 (R39). -/
def since (s : State) (t : Time) : Nat := (s.ctl.timeBase - t).toNat

/-! ### Handed writes and commands (R21, R24 to R26) -/

/-- The handed writes, less the head that a unit has taken. -/
def popHanded (s : State) : State := { s with handed := s.handed.drop 1 }

/-- The command record is changed. -/
def setCommand (c : CommandRecord) (s : State) : State := { s with ctl := { s.ctl with command := c } }

/-- The COMMAND cause is set or cleared (R36). -/
def setCommandCause (b : Bool) (s : State) : State :=
  { s with ctl := { s.ctl with alert := { s.ctl.alert with commandCause := b } } }

/-- The running command ends: DONE when `code` is absent, else REFUSED with it (R26). -/
def endCommand (code : Option ResultCode) (detail : Nat) (s : State) : State :=
  setCommandCause true
    (post .commandStatus
      (setCommand
        { s.ctl.command with
          state := if code.isSome then .refused else .done, result := code, detail := detail } s))

/-- The running command ends DONE with detail 0. -/
def endDone (s : State) : State := endCommand none 0 s

/-- The running command ends REFUSED. -/
def endRefused (c : ResultCode) (detail : Nat) (s : State) : State := endCommand (some c) detail s

/-- The part state is changed and posted (R23). -/
def setPartState (p : PartState) (s : State) : State :=
  post .partState { s with ctl := { s.ctl with partState := p } }

/-- Parameter word `n` of the running command's copy, `n` from 1. -/
def State.param (s : State) (n : Fin 6) : Word := s.ctl.command.params[n]

/-- A command word with an accepted arrival is taken (R24): the record takes its code and sequence and copies the
latches, and the new status is posted. -/
def takeCommand (w : Word) (s : State) : State :=
  post .commandStatus
    (setCommand ⟨.running, commandCode w, commandSeq w, none, 0, s.ctl.latches⟩ s)

/-- The first two conditions of R25, and then the owning rule. -/
def examine (w : Word) (owning : State → State) (s : State) : State :=
  if unknownCode (commandCode w) then endRefused .unknown 0 s
  else if s.ctl.partState = .unloaded ∧ !takenUnloaded (commandCode w) then endRefused .notLoaded 0 s
  else owning s

/-- A command word that finds a command RUNNING is refused BUSY, in the refusal word alone (R24). -/
def refuseBusy (w : Word) (s : State) : State :=
  post .refusal { s with ctl := { s.ctl with refusal := ⟨commandSeq w, true⟩ } }

/-- The arrival of a command word (R24): the COMMAND cause is cleared; the command is refused BUSY while one is
RUNNING, and is taken otherwise. -/
def arrive (w : Word) (owning : State → State) (s : State) : State :=
  let s1 := setCommandCause false s
  if s1.ctl.command.state = .running then refuseBusy w s1 else examine w owning (takeCommand w s1)

/-- The Control Unit takes the handed write at the head when it is a command word that `codes` admits, and
carries it out; at any other moment the event does not arise, and nothing changes (assumption 6, DESIGN CHOICE). -/
def onCommand (codes : Nat → Bool) (owning : State → State) (s : State) : State :=
  match s.handed with
  | .control 0 w :: _ =>
    if !s.rst.inReset && codes (commandCode w) then arrive w owning (popHanded s) else s
  | _ => s

/-- The Control Unit takes the handed write at the head when it is the word at one of the offsets that `offs`
admits. -/
def onControlWord (offs : Nat → Bool) (take : Nat → Word → State → State) (s : State) : State :=
  match s.handed with
  | .control off w :: _ => if !s.rst.inReset && offs off then take off w (popHanded s) else s
  | _ => s

/-- The Capture Unit takes the handed write at the head when it is a word that `nums` admits. -/
def onCaptureWord (nums : Nat → Bool) (take : Nat → Nat → Word → State → State) (s : State) : State :=
  match s.handed with
  | .capture i n w :: _ => if !s.rst.inReset && nums n then take i n w (popHanded s) else s
  | _ => s

/-! ### Changing one part of the state -/

/-- Instrument Record `i`. -/
def State.instrument? (s : State) (i : Nat) : Option Instrument := s.tbl.instruments[i]?

/-- Instrument Record `i` is changed. -/
def setInstrument (i : Nat) (r : Instrument) (s : State) : State :=
  { s with tbl := { s.tbl with instruments := s.tbl.instruments.set i r } }

/-- A link is changed. -/
def setLink (k : Fin 8) (l : Link) (s : State) : State := { s with links := s.links.set k l }

/-- A line is changed, and its line table word is posted if it has changed (R162). -/
def setLine (n : Fin 16) (l : Line) (s : State) : State :=
  postChanged s [.lineWord n] { s with lines := s.lines.set n l }

/-- The Ticker Unit's state is changed. -/
def setTape (t : TickerUnit) (s : State) : State := { s with tape := t }

/-- The Ticker Unit's state is changed, and the ticker state word posted if it has changed (R146). -/
def updateTape (t : TickerUnit) (s : State) : State := postChanged s [.tickerState] { s with tape := t }

end Sys2Proof.Machine
end

