-- ==== Sys2Proof/Machine/Prices.lean ====
section
/-! DEFINITION. The Price Unit (chapter 5): quantizing, display forms, the net change, taking a trade, the price band
and held prices. -/

namespace Sys2Proof.Machine

open Sys2Proof

/-! ### Quantizing (R85) -/

/-- The fraction base as a number. -/
def FractionBase.den : FractionBase → Nat
  | .quarters => 4
  | .eighths => 8
  | .sixteenths => 16

/-- The step in units, s = 256/F (para 5.1). -/
def FractionBase.step (b : FractionBase) : Nat := 256 / b.den

/-- Quantize `u` units: the count of steps, rounded to the nearest with halves going up (R85). -/
def quantize (b : FractionBase) (u : Nat) : Nat :=
  u / b.step + if b.step ≤ 2 * (u % b.step) then 1 else 0

/-- Whether quantizing needed rounding (R85). -/
def needsRounding (b : FractionBase) (u : Nat) : Bool := decide (u % b.step ≠ 0)

/-- A price of 0 units is no price; any other is quantized (R57, R81). -/
def quantizePresent (b : FractionBase) (u : Nat) : Option Nat := if u = 0 then none else some (quantize b u)

/-! ### Display forms (R86 to R88) -/

/-- A whole number of points and a fraction in lowest terms (R86). -/
structure DisplayForm where
  whole : Nat
  frac : Option Fraction
deriving DecidableEq, Repr

/-- Halve both while the numerator is even and not 0, at most `fuel` times (R86). -/
def lowestTerms : Nat → Nat → Nat → Fraction
  | 0, n, d => ⟨n, d⟩
  | fuel + 1, n, d => if n % 2 = 0 ∧ n ≠ 0 then lowestTerms fuel (n / 2) (d / 2) else ⟨n, d⟩

/-- The display form of a price of `q` steps (R86). Four halvings are enough for a denominator of 16. -/
def displayForm (b : FractionBase) (q : Nat) : DisplayForm :=
  { whole := q / b.den
    frac := if q % b.den = 0 then none else some (lowestTerms 4 (q % b.den) b.den) }

/-- The sign of a net change (R87). -/
inductive ChangeSign where
  | none
  | plus
  | minus
deriving DecidableEq, Repr

/-- The net change in steps, present when both close and last are (R87). -/
def netChange (r : Instrument) : Option Int :=
  match r.close, r.last with
  | some c, some l => some ((l : Int) - (c : Int))
  | _, _ => none

/-- The sign of a net change (R87). -/
def changeSign (c : Int) : ChangeSign := if 0 < c then .plus else if c < 0 then .minus else .none

/-- The fraction (F − 1)/F of a clamped form (R88). -/
def topFraction (b : FractionBase) : Fraction := ⟨b.den - 1, b.den⟩

/-- A form clamped to the whole parts a board can hold, with the over-range mark (R88). -/
def clampForm (limit : Nat) (b : FractionBase) (f : DisplayForm) : DisplayForm × Bool :=
  if limit < f.whole then (⟨limit, some (topFraction b)⟩, true) else (f, false)

/-- The board form of a price, clamped at 9999 (R88). -/
def boardPrice (b : FractionBase) (q : Nat) : DisplayForm × Bool := clampForm 9999 b (displayForm b q)

/-- The board form of the magnitude of a change, clamped at 999 (R88). -/
def boardChange (b : FractionBase) (c : Int) : DisplayForm × Bool := clampForm 999 b (displayForm b c.natAbs)

/-! ### Taking a trade (R90, R91) -/

/-- The tick after a trade of `q` steps, against last as it stands before it (R90). -/
def tickAfter (last : Option Nat) (tick : Tick) (q : Nat) : Tick :=
  match last with
  | none => .none
  | some l =>
    if l < q then .up
    else if q < l then .down
    else match tick with
      | .up => .zeroUp
      | .zeroUp => .zeroUp
      | .down => .zeroDown
      | .zeroDown => .zeroDown
      | .none => .none

/-- The largest volume, at which it saturates (R91). -/
def volumeTop : Nat := 4294967295

/-- The Instrument Record after a trade of `q` steps and `z` lots is taken (R90, R91). -/
def takeTrade (q z : Nat) (rounding : Bool) (r : Instrument) : Instrument :=
  { r with
    tick := tickAfter r.last r.tick q
    high := some (match r.high with | none => q | some h => max h q)
    low := some (match r.low with | none => q | some l => min l q)
    volume := min volumeTop (r.volume + z)
    lastSize := z
    last := some q
    offIncrement := rounding }

/-! ### The price band and held prices (R93 to R97) -/

/-- The trade part of a change notice (R84). -/
structure TradePart where
  price : Nat
  size : Nat
  captured : Time
deriving DecidableEq, Repr

/-- Whether the band lets a trade of `q` steps be taken: no band, no last, or a distance of at most the band,
in units (R93). -/
def bandTakes (r : Instrument) (q : Nat) : Bool :=
  match r.last with
  | none => true
  | some l => decide (r.band = 0) || decide (((q : Int) - (l : Int)).natAbs * r.base.step ≤ r.band)

/-- The hold timeout in milliseconds (R94). -/
def holdMillis (r : Instrument) : Nat := r.holdTimeout * 1000

/-- The Hold record for a trade held now (R94). -/
def makeHold (now : Time) (r : Instrument) (q z : Nat) (captured : Time) (rounding : Bool) : Hold :=
  ⟨q, z, captured, rounding, now + BitVec.ofNat 32 (holdMillis r)⟩

/-- The time base has reached a hold's expiry: the time since the hold was made, which is its expiry time less
the instrument's hold timeout, is the timeout or more (R39, R96). -/
def holdDue (s : State) (r : Instrument) (h : Hold) : Bool :=
  decide (holdMillis r ≤ since s (h.expiry - BitVec.ofNat 32 (holdMillis r)))

/-- A trade arrives at the Price Unit (R93, R95). The answer holds the trade part when the trade is taken. -/
def tradeArrives (i u z : Nat) (captured : Time) (s : State) : State × Option TradePart :=
  match s.instrument? i with
  | none => (s, none)
  | some r =>
    let q := quantize r.base u
    let rounding := needsRounding r.base u
    let s1 :=
      match r.hold with
      | none => s
      | some h =>
        postFault .holdSuperseded (.instrument i) [h.price, h.size, if bandTakes r q then 0 else 1] s
    if bandTakes r q then
      (setInstrument i { takeTrade q z rounding r with hold := none } s1, some ⟨q, z, captured⟩)
    else
      (setInstrument i { r with hold := some (makeHold s.ctl.timeBase r q z captured rounding) } s1, none)

/-- A halt set from clear cancels the instrument's hold (R97). -/
def cancelHold (i : Nat) (s : State) : State :=
  match s.instrument? i with
  | none => s
  | some r =>
    match r.hold with
    | none => s
    | some h =>
      setInstrument i { r with hold := none }
        (postFault .holdCancelled (.instrument i) [h.price, h.size, h.captured.toNat] s)

end Sys2Proof.Machine
end

