-- ==== Sys2Proof/Machine/Boards.lean ====
section
/-! DEFINITION. The board link controllers (chapter 6) and the commanded outputs they obey (R136): images, frames, the
link scheduler, remapping and flash. -/

namespace Sys2Proof.Machine

open Sys2Proof

/-! ### Images (R104, R105) -/

/-- The cells of an image, and the price cells 0 to 4. -/
def all12 : List (Fin 12) := [0, 1, 2, 3, 4, 5, 6, 7, 8, 9, 10, 11]

/-- The image whose cells are the glyphs of a list, in cell order. -/
def imageOf (gs : List Glyph) : Image := Vector.ofFn (fun i => gs.getD i.val .blank)

/-- The decimal digits of a number without leading zeros, most significant first, at most `fuel` of them. -/
def decDigits : Nat → Nat → List Nat
  | 0, _ => []
  | fuel + 1, n => if n < 10 then [n] else decDigits fuel (n / 10) ++ [n % 10]

/-- A whole part right-aligned in `width` cells: blank before a fraction when it is 0, else its digits (R104). -/
def wholeCells (width : Nat) (f : DisplayForm) : List Glyph :=
  let ds := if f.whole = 0 ∧ f.frac.isSome then [] else (decDigits 10 f.whole).map Glyph.digit
  List.replicate (width - ds.length) .blank ++ ds

/-- The fraction's cell. -/
def fractionCell (f : DisplayForm) : Glyph :=
  match f.frac with
  | none => .blank
  | some q => .fraction q

/-- The tick's cell (R105). -/
def tickCell : Tick → Glyph
  | .none => .blank
  | .up => .arrowUp
  | .down => .arrowDown
  | .zeroUp => .levelUp
  | .zeroDown => .levelDown

/-- The sign's cell (R105). -/
def signCell : ChangeSign → Glyph
  | .none => .blank
  | .plus => .plus
  | .minus => .minus

/-- The price cells, and whether the price is over range (R88, R104). -/
def priceCells (r : Instrument) : List Glyph × Bool :=
  match r.last with
  | none => (List.replicate 5 .blank, false)
  | some q =>
    let f := boardPrice r.base q
    (wholeCells 4 f.1 ++ [fractionCell f.1], f.2)

/-- The change cells 6 to 10, and whether the change is over range (R88, R105). -/
def changeCells (r : Instrument) : List Glyph × Bool :=
  match netChange r with
  | none => (List.replicate 5 .blank, false)
  | some c =>
    let f := boardChange r.base c
    (signCell (changeSign c) :: (wholeCells 3 f.1 ++ [fractionCell f.1]), f.2)

/-- The status glyph, by the order of R105. -/
def statusCell (r : Instrument) (overRange : Bool) : Glyph :=
  if r.halted then .letterH else if overRange then .overRange else if r.fast then .letterF else .blank

/-- The target image built from an Instrument Record (R104, R105). -/
def boardImage (r : Instrument) : Image :=
  let p := priceCells r
  let c := changeCells r
  imageOf (p.1 ++ [tickCell r.tick] ++ c.1 ++ [statusCell r (p.2 || c.2)])

/-- The all-segments image of a lamp test (R142). -/
def testImage : Image := Vector.replicate 12 .allSegments

/-- The code by which a fraction is sent (para 10.6). -/
def fractionCode (f : Fraction) : Nat :=
  if f.den = 2 then 0x20
  else if f.den = 4 then 0x21 + (f.num - 1) / 2
  else if f.den = 8 then 0x23 + (f.num - 1) / 2
  else 0x27 + (f.num - 1) / 2

/-- The code by which a glyph is sent on a link (para 10.6). -/
def Glyph.code : Glyph → Nat
  | .blank => 0x00
  | .digit d => 0x10 + d
  | .fraction f => fractionCode f
  | .plus => 0x30
  | .minus => 0x31
  | .arrowUp => 0x32
  | .arrowDown => 0x33
  | .levelUp => 0x34
  | .levelDown => 0x35
  | .letterH => 0x36
  | .letterF => 0x37
  | .overRange => 0x38
  | .allSegments => 0x3F

/-- The segment counts of the digits, and of the fractions in the order of their codes (para 10.6). -/
def digitSegments : List Nat := [8, 2, 8, 7, 5, 8, 9, 4, 10, 9]

/-- The segment counts of the fractions, from code 20H. -/
def fractionSegments : List Nat := [6, 6, 7, 6, 7, 7, 6, 7, 8, 8, 7, 8, 7, 8, 9]

/-- The segment count of a glyph (para 10.6). -/
def Glyph.segments : Glyph → Nat
  | .blank => 0
  | .digit d => digitSegments.getD d 0
  | .fraction f => fractionSegments.getD (fractionCode f - 0x20) 0
  | .plus => 4
  | .minus => 2
  | .arrowUp => 5
  | .arrowDown => 5
  | .levelUp => 4
  | .levelDown => 4
  | .letterH => 6
  | .letterF => 5
  | .overRange => 6
  | .allSegments => 16

/-- The segments an image lights. -/
def imageSegments (i : Image) : Nat := (i.toList.map Glyph.segments).sum

/-! ### The bytes of a frame (para 10.6, R185) -/

/-- The check byte: the two's complement of the sum of the other bytes, modulo 256 (R185). -/
def checkByte (bs : List Byte) : Byte := 0 - bs.foldl (· + ·) 0

/-- The bytes of a frame before its check byte. -/
def LinkFrame.body : LinkFrame → List Byte
  | .cells code first gs =>
    [BitVec.ofNat 8 (0x20 + code.toNat), BitVec.ofNat 8 (16 * first + gs.length)] ++
      gs.map (fun g => BitVec.ofNat 8 g.code)
  | .set code w =>
    [BitVec.ofNat 8 (0x40 + code.toNat), BitVec.ofNat 8 w.brightness, BitVec.ofNat 8 (w.flash.toNat / 256),
      BitVec.ofNat 8 w.flash.toNat]
  | .poll code => [BitVec.ofNat 8 (0x60 + code.toNat)]

/-- The bytes of a frame as they go out on the link. -/
def LinkFrame.bytes (f : LinkFrame) : List Byte := f.body ++ [checkByte f.body]

/-- The position code of a frame. -/
def LinkFrame.code : LinkFrame → BitVec 5
  | .cells c _ _ => c
  | .set c _ => c
  | .poll c => c

/-- The chain position that a frame to one module names. -/
def LinkFrame.pos (f : LinkFrame) : Fin 16 := ⟨f.code.toNat % 16, Nat.mod_lt _ (by decide)⟩

/-- The position code of a chain position. -/
def codeOf (p : Fin 16) : BitVec 5 := BitVec.ofNat 5 p.val

/-! ### Commanded outputs (R136) -/

/-- The drive-off condition: HOT latched, or LLOW taken present. -/
def State.floorDark (s : State) : Bool := s.drive.hotLatch || s.drive.llow.taken

/-- The board brightness of a stage. -/
def stageBrightness (stage : Nat) : Nat := if stage ≤ 1 then 4 else if stage = 2 then 3 else 2

/-- The commanded board brightness of a position (R136). -/
def State.boardBrightness (s : State) (q : Position) : Nat :=
  if s.floorDark then 0 else if q.tripDisabled then 0 else stageBrightness s.drive.governor.stage

/-- The commanded ribbon brightness (R136). -/
def State.ribbonBrightness (s : State) : Nat :=
  if s.floorDark then 0 else if s.drive.governor.stage ≤ 3 then 4 else 2

/-- Flash is permitted while the stage is 0 (R136). -/
def State.flashPermitted (s : State) : Bool := s.drive.governor.stage == 0

/-! ### Targets (R103) -/

/-- The logical module of a link that targets a position: only a home gives its number to a logical module. -/
def Link.targetedBy (l : Link) (p : Fin 16) : Option (Fin 16) :=
  all16.find? (fun m => l.positions[m].kind == .home && l.modules[m].target == some p)

/-- A position that some logical module targets. -/
def Link.targeted (l : Link) (p : Fin 16) : Bool := (l.targetedBy p).isSome

/-- A logical module number in detail words: NONE is 00FFH (para 10.3). -/
def moduleDetail (k : Fin 8) (m : Option (Fin 16)) : Nat :=
  match m with
  | none => 0xFF
  | some m => 16 * k.val + m.val

/-- A physical position number (para 6.1). -/
def physical (k : Fin 8) (p : Fin 16) : Nat := 16 * k.val + p.val

/-- The instrument that logical module `m` of link `k` shows, by the board map (R45). -/
def State.shows (s : State) (k : Fin 8) (m : Fin 16) : Option Nat := s.tbl.boardMap[16 * k.val + m.val]'(by omega)

/-- Whether the instrument a module shows is halted. -/
def State.showsHalted (s : State) (k : Fin 8) (m : Fin 16) : Bool :=
  match s.shows k m with
  | none => false
  | some i => match s.instrument? i with
    | none => false
    | some r => r.halted

/-! ### Due images and settings (R106, R122, R142) -/

/-- Whether a link is under test (R142). -/
def State.underTest (s : State) (k : Fin 8) : Bool :=
  match s.drive.lampTest with
  | none => false
  | some t => t.link == k

/-- A driven position: targeted, not trip-disabled, in UNKNOWN or ACTIVE (R142). -/
def Link.driven (l : Link) (p : Fin 16) : Bool :=
  l.targeted p && !l.positions[p].tripDisabled &&
    (l.positions[p].state == .unknown || l.positions[p].state == .active)

/-- The due image of a position (R106, R142). -/
def State.dueImage (s : State) (k : Fin 8) (p : Fin 16) : Image :=
  let l := s.links[k]
  if s.underTest k && l.driven p then testImage
  else match l.targetedBy p with
    | none => Image.blank
    | some m => l.modules[m].image

/-- The flash mask that names cells 0 to 4 (R122). -/
def flashCells : BitVec 12 := 0x01F

/-- The due setting of a position (R122). -/
def State.dueSetting (s : State) (k : Fin 8) (p : Fin 16) : Setting :=
  let l := s.links[k]
  match l.targetedBy p with
  | none => ⟨0, 0⟩
  | some m =>
    { brightness := s.boardBrightness l.positions[p]
      flash := if l.modules[m].flash.isSome && s.flashPermitted && !s.showsHalted k m then flashCells else 0 }

/-! ### The link scheduler (R111) -/

/-- A fitted position in UNKNOWN, ACTIVE, IDLE or TRIPPED. -/
def Position.served (q : Position) : Bool :=
  q.kind != .notFitted &&
    (q.state == .unknown || q.state == .active || q.state == .idle || q.state == .tripped)

/-- The chain positions in round-robin order from the one after `last`. -/
def afterPosition (last : Fin 16) : List (Fin 16) := all16.map (fun i => i + last + 1)

/-- Step 1 of R111: the setting that is due differs from the shown one; an unknown one differs from every. -/
def State.setDue (s : State) (k : Fin 8) (p : Fin 16) : Bool :=
  s.links[k].positions[p].served && s.links[k].positions[p].shownSetting != some (s.dueSetting k p)

/-- Step 2 of R111. -/
def State.cellsDue (s : State) (k : Fin 8) (p : Fin 16) : Bool :=
  s.links[k].positions[p].served && s.links[k].positions[p].shownImage != some (s.dueImage k p)

/-- Step 3 of R111: the age of a position's last frame, when its poll time has come round. -/
def State.pollAge (s : State) (k : Fin 8) (p : Fin 16) : Option Nat :=
  let q := s.links[k].positions[p]
  let age := since s q.lastFrame
  if (q.served && decide (500 ≤ age)) || (q.kind != .notFitted && q.state == .absent && decide (5000 ≤ age)) then
    some age
  else none

/-- The position to poll: the one whose last frame is furthest in the past, the lowest among equals. -/
def State.pollChoice (s : State) (k : Fin 8) : Option (Fin 16) :=
  (all16.foldl (fun best p =>
    match s.pollAge k p, best with
    | none, b => b
    | some a, none => some (p, a)
    | some a, some (q, b) => if b < a then some (p, a) else some (q, b)) none).map Prod.fst

/-- The CELLS frame for a position: all 12 cells when its shown image is unknown, else the span from the lowest
cell that differs to the highest (R108). -/
def cellsFrame (p : Fin 16) (shown : Option Image) (due : Image) : LinkFrame :=
  match shown with
  | none => .cells (codeOf p) 0 due.toList
  | some img =>
    let diff := all12.filter (fun c => img[c] != due[c])
    let first := (diff.head?.getD 0).val
    let last := (diff.getLast?.getD 0).val
    .cells (codeOf p) first ((due.toList.drop first).take (last + 1 - first))

/-- What the scheduler chose: the frame, its position, and the link's round-robin places after it. -/
structure Choice where
  frame : LinkFrame
  pos : Fin 16
  lastSet : Fin 16
  lastCells : Fin 16
deriving DecidableEq, Repr

/-- The first of the steps of R111 that finds a position. -/
def State.linkChoice (s : State) (k : Fin 8) : Option Choice :=
  let l := s.links[k]
  match (afterPosition l.lastSet).find? (fun p => s.setDue k p) with
  | some p => some ⟨.set (codeOf p) (s.dueSetting k p), p, p, l.lastCells⟩
  | none =>
    match (afterPosition l.lastCells).find? (fun p => s.cellsDue k p) with
    | some p => some ⟨cellsFrame p l.positions[p].shownImage (s.dueImage k p), p, l.lastSet, p⟩
    | none =>
      match s.pollChoice k with
      | some p => some ⟨.poll (codeOf p), p, l.lastSet, l.lastCells⟩
      | none => none

/-- A position of a link is changed. -/
def Link.setPosition (l : Link) (p : Fin 16) (q : Position) : Link := { l with positions := l.positions.set p q }

/-- A running link that is free chooses its next frame and begins to send it; the position's last frame time is
the present reading (R108, R111). -/
def chooseFrame (k : Fin 8) (s : State) : State :=
  let l := s.links[k]
  if l.running && l.wire == .quiet then
    match s.linkChoice k with
    | none => s
    | some c =>
      setLink k
        { l.setPosition c.pos { l.positions[c.pos] with lastFrame := s.ctl.timeBase } with
          wire := .sending c.frame [] true, lastSet := c.lastSet, lastCells := c.lastCells } s
  else s

/-- Every free link chooses. -/
def chooseAll (s : State) : State := all8.foldl (fun s k => chooseFrame k s) s

/-! ### Recomputing target images (R106, R123) -/

/-- Two images agree in cells 0 to 4. -/
def samePriceCells (a b : Image) : Bool := a.toList.take 5 == b.toList.take 5

/-- A logical module after its target image is recomputed from the record of its instrument. The flash timer
starts when a price cell changes, and is stopped while the instrument is halted (R106, R123). -/
def recomputeModule (now : Time) (flashTime : Nat) (r : Instrument) (m : LogicalModule) : LogicalModule :=
  let image := boardImage r
  { m with
    image := image
    flash :=
      if r.halted then none
      else if samePriceCells m.image image || flashTime == 0 then m.flash
      else some now }

/-- The modules of link `k` after a recomputation of those whose instrument `which` admits. -/
def State.recomputed (s : State) (k : Fin 8) (which : Nat → Bool) : Vector LogicalModule 16 :=
  Vector.ofFn (fun m =>
    let old := s.links[k].modules[m]
    match s.shows k m with
    | none => old
    | some i =>
      match s.instrument? i with
      | none => old
      | some r => if which i then recomputeModule s.ctl.timeBase s.flashTime r old else old)

/-- A running link recomputes (R106); a link that is not running acts on no notice (R60). -/
def recomputeLink (which : Nat → Bool) (s : State) (k : Fin 8) : State :=
  if s.links[k].running then setLink k { s.links[k] with modules := s.recomputed k which } s else s

/-- Every link recomputes. -/
def recomputeBoards (which : Nat → Bool) (s : State) : State := all8.foldl (recomputeLink which) s

/-! ### Remapping (R112, R116, R117) -/

/-- The shown image and setting become unknown. -/
def Position.forget (q : Position) : Position := { q with shownImage := none, shownSetting := none }

/-- A position becomes untargeted: from ACTIVE it goes IDLE (R117). -/
def Position.leave (q : Position) : Position := { q with state := if q.state = .active then .idle else q.state }

/-- A position becomes targeted: from IDLE it goes ACTIVE, and its shown values become unknown (R107, R112). -/
def Position.enter (q : Position) : Position :=
  { q.forget with state := if q.state = .idle then .active else q.state }

/-- Logical module `m` moves from its present target to another position or to NONE (R117). -/
def Link.move (l : Link) (m : Fin 16) (dest : Option (Fin 16)) : Link :=
  let l1 :=
    match l.modules[m].target with
    | none => l
    | some x => l.setPosition x l.positions[x].leave
  let l2 :=
    match dest with
    | none => l1
    | some y => l1.setPosition y l1.positions[y].enter
  { l2 with modules := l2.modules.set m { l2.modules[m] with target := dest } }

/-- The IDLE spare with the lowest chain position (R116). -/
def Link.idleSpare (l : Link) : Option (Fin 16) :=
  all16.find? (fun p => l.positions[p].kind == .spare && l.positions[p].state == .idle)

/-- The automatic remap of the logical module that targets position `x`, which has entered ABSENT or FAILED
(R116). -/
def autoRemap (k : Fin 8) (x : Fin 16) (s : State) : State :=
  let l := s.links[k]
  match l.targetedBy x with
  | none => s
  | some m =>
    match l.idleSpare with
    | some y => setLink k (l.move m (some y)) s
    | none =>
      postFault .noSpare (.logicalModule (physical k m)) [physical k x, l.positions[x].state.code]
        (setLink k (l.move m none) s)

/-- A position enters ABSENT: MODULE ABSENT is posted, its miss count becomes 0, and the module that targets it
is remapped (R110, R114). -/
def enterAbsent (k : Fin 8) (p : Fin 16) (s : State) : State :=
  let l := s.links[k]
  let q := l.positions[p]
  autoRemap k p
    (postFault .moduleAbsent (.physicalPosition (physical k p))
      [q.state.code, moduleDetail k (l.targetedBy p), q.trips]
      (setLink k (l.setPosition p { q with state := .absent, missed := 0 }) s))

/-- A missed reply is counted against the position (R107, R110). -/
def missedReply (k : Fin 8) (f : LinkFrame) (s : State) : State :=
  let p := f.pos
  let l := s.links[k]
  let q0 := l.positions[p]
  let q := match f with
    | .poll _ => q0
    | .cells _ _ _ => q0.forget
    | .set _ _ => q0.forget
  if q.served then
    if 3 ≤ q.missed + 1 then enterAbsent k p (setLink k (l.setPosition p { q with missed := q.missed + 1 }) s)
    else setLink k (l.setPosition p { q with missed := q.missed + 1 }) s
  else setLink k (l.setPosition p { q with missed := 0 }) s

/-- The shown values after a good reply to a frame (R107). -/
def Position.acknowledge (q : Position) (f : LinkFrame) : Position :=
  match f with
  | .poll _ => q
  | .set _ w => { q with shownSetting := some w }
  | .cells _ first gs =>
    match q.shownImage with
    | some img =>
      { q with
        shownImage := some (Vector.ofFn (fun c =>
          if first ≤ c.val then gs.getD (c.val - first) img[c] else img[c])) }
    | none => if first = 0 ∧ gs.length = 12 then { q with shownImage := some (imageOf gs) } else q

/-! ### Lamp load (R124) -/

/-- The lamp load of one position. -/
def State.positionLoad (s : State) (k : Fin 8) (p : Fin 16) : Nat :=
  let q := s.links[k].positions[p]
  if q.served then
    imageSegments (q.shownImage.getD (s.dueImage k p)) * (s.dueSetting k p).brightness
  else 0

/-- A link's lamp load report; a controller that is not running reports 0 (R124, R137). -/
def State.linkLoad (s : State) (k : Fin 8) : Nat :=
  if s.links[k].running then (all16.map (s.positionLoad k)).sum else 0

/-! ### LOAD and resets (R125, R126) -/

/-- A link when a LOAD is taken: a frame being sent is completed, its reply not waited for, and the broadcast blank
follows; everything else is cleared (R125). That the frames of an earlier broadcast blank which have not gone out yet are
dropped is assumption 38 (DESIGN CHOICE). -/
def Link.loadTaken (l : Link) : Link :=
  { Link.cleared with
    wire :=
      match l.wire with
      | .sending f _ _ => .sending f [.blankCells, .blankSet] false
      | _ => .sending .blankCells [.blankSet] false }

/-- A link when a reset begins: any frame is cut off and no reply is waited for (R125). -/
def Link.resetBegun (l : Link) : Link := { l with running := false, wire := .quiet }

/-- The kind of chain position `p` under a chain length and a spare count (R102). -/
def positionKind (chain spares p : Nat) : PositionKind :=
  if p < chain - spares then .home else if p < chain then .spare else .notFitted

/-- A link at the end of a LOAD that ends DONE (R102, R103, R107, R110, R126). -/
def State.linkUp (s : State) (header : List Word) (k : Fin 8) : Link :=
  let chain := headerChain header k.val
  let spares := headerSpares header k.val
  { s.links[k] with
    running := true
    chainLength := chain
    spareCount := spares
    policy := (headerPolicy header k.val).getD .moduleOnly
    positions := Vector.ofFn (fun p =>
      { s.links[k].positions[p] with
        kind := positionKind chain spares p.val
        state := .unknown
        missed := 0
        shownImage := none
        shownSetting := none
        lastFrame := s.ctl.timeBase })
    modules := Vector.ofFn (fun m =>
      { target := some m
        image :=
          match s.shows k m with
          | none => Image.blank
          | some i => match s.instrument? i with
            | none => Image.blank
            | some r => boardImage r
        flash := none }) }

end Sys2Proof.Machine
end

