-- ==== Sys2Proof/Machine/Drive.lean ====
section
/-! DEFINITION. The Drive Protection Unit (chapter 7) and the replies that report to it: trips, REARM, the comparator
inputs, the governor, limit reasons. -/

namespace Sys2Proof.Machine

open Sys2Proof

/-- The Drive Protection Unit's state is changed. -/
def setDrive (d : DriveUnit) (s : State) : State := { s with drive := d }

/-! ### What follows every change of a cause (R128, R132, R136, R141, R156) -/

/-- A still ribbon presents a new commanded brightness at once (R156). -/
def presentStill (s : State) : State :=
  if s.tape.condition = .still then setTape { s.tape with portBrightness := s.ribbonBrightness } s else s

/-- A limit reason's log flag is set with its status flag (R141). -/
def logReasons (s : State) : State := setDrive { s.drive with log := s.drive.log.union s.limitStatus } s

/-- The outputs and words that follow the Drive Protection Unit's state: the log, the still ribbon's brightness,
and the drive state, limit reasons and governor stage words where they differ from those of `old`, in that order
(assumption 18, DESIGN CHOICE). -/
def driveSettle (old s : State) : State :=
  postChanged old [.driveState, .limitReasons, .governorStage] (presentStill (logReasons s))

/-- The words of link `k`, and all that follows the Drive Protection Unit's state, after a change since `old`;
then every free link chooses. The module table words are posted first (assumption 18, DESIGN CHOICE). -/
def boardSettle (old : State) (k : Fin 8) (s : State) : State :=
  chooseAll (driveSettle old (postChanged old (linkTable k) s))

/-! ### Trips (R113, R127, R128) -/

/-- Every fitted position of a link is trip-disabled. -/
def Link.disableAll (l : Link) : Link :=
  { l with
    positions := Vector.ofFn (fun p =>
      if l.positions[p].kind = .notFitted then l.positions[p]
      else { l.positions[p] with tripDisabled := true }) }

/-- The trip-disable flags that a new trip at a position sets, by the link's policy (R128). -/
def disableByPolicy (k : Fin 8) (p : Fin 16) (s : State) : State :=
  match s.links[k].policy with
  | .moduleOnly => setLink k (s.links[k].setPosition p { s.links[k].positions[p] with tripDisabled := true }) s
  | .link => setLink k s.links[k].disableAll s
  | .board => { s with links := Vector.ofFn (fun j => s.links[j].disableAll) }

/-- A new trip (R113, R127): the count rises and the position's module table word is posted, MODULE TRIP or MODULE FAILED
is posted, drive is disabled by the policy, and the position goes TRIPPED, or FAILED with its automatic remap at the third
trip. -/
def takeTrip (k : Fin 8) (p : Fin 16) (left : ModuleState) (s : State) : State :=
  let l := s.links[k]
  let q := l.positions[p]
  let count := min 3 (q.trips + 1)
  let counted := postChanged s [.moduleWord k p] (setLink k (l.setPosition p { q with trips := count }) s)
  let s1 :=
    postFault (if count = 3 then .moduleFailed else .moduleTrip) (.physicalPosition (physical k p))
      [count, l.policy.code, left.code, moduleDetail k (l.targetedBy p)] counted
  let s2 := disableByPolicy k p s1
  let s3 :=
    setLink k
      (s2.links[k].setPosition p
        { s2.links[k].positions[p] with state := if count = 3 then .failed else .tripped }) s2
  if count = 3 then autoRemap k p s3 else s3

/-- A good reply from a position (R107, R109, R112, R115); `trip` when its status is TRIP. -/
def goodReply (k : Fin 8) (f : LinkFrame) (trip : Bool) (s : State) : State :=
  let p := f.pos
  let l := s.links[k]
  let q := { l.positions[p] with missed := 0 }.acknowledge f
  let put (q : Position) : State := setLink k (l.setPosition p q) s
  match q.state with
  | .unknown =>
    if trip then takeTrip k p .unknown (put q)
    else put { q with state := if l.targeted p then .active else .idle }
  | .active => if trip then takeTrip k p .active (put q) else put q
  | .idle => if trip then takeTrip k p .idle (put q) else put q
  | .tripped => put q
  | .absent =>
    let back := put { q.forget with state := .idle }
    if trip then takeTrip k p .absent back else back
  | .failed => put q

/-- Whether three bytes, arriving while a frame's reply is awaited since `t`, are a good reply (R109, R185): in
time, with a good check, from the position addressed, and with status OK or TRIP. -/
def replyGood (s : State) (f : LinkFrame) (t : Time) (b0 b1 b2 : Byte) : Bool :=
  decide (since s t ≤ 4) && b0 + b1 + b2 == 0 && b0 == BitVec.ofNat 8 f.pos.val && (b1 == 0 || b1 == 1)

/-- A link's frame is no longer outstanding. -/
def quietLink (k : Fin 8) (s : State) : State := setLink k { s.links[k] with wire := .quiet } s

/-! ### REARM (R129 to R131) -/

/-- A link is re-enabled (R130): its flags are cleared, and its TRIPPED positions go ACTIVE or IDLE. -/
def Link.rearm (l : Link) : Link :=
  { l with
    positions := Vector.ofFn (fun p =>
      let q := l.positions[p]
      { q with
        tripDisabled := if q.kind = .notFitted then q.tripDisabled else false
        state := if q.state = .tripped then (if l.targeted p then .active else .idle) else q.state }) }

/-- Each of the named links is re-enabled, and its module table words posted where they change. -/
def rearmLinks (ks : List (Fin 8)) (s : State) : State :=
  ks.foldl (fun s k => postChanged s (linkTable k) (setLink k s.links[k].rearm s)) s

/-! ### The comparator inputs (R132) -/

/-- The filter of an input. -/
def DriveUnit.filter (d : DriveUnit) : Comparator → Filter
  | .warm => d.warm
  | .hot => d.hot
  | .lwarn => d.lwarn
  | .llow => d.llow

/-- The filter of an input is changed. -/
def DriveUnit.setFilter (d : DriveUnit) (c : Comparator) (f : Filter) : DriveUnit :=
  match c with
  | .warm => { d with warm := f }
  | .hot => { d with hot := f }
  | .lwarn => { d with lwarn := f }
  | .llow => { d with llow := f }

/-- A raw input changes level: a watch begins when it departs from the taken level, and ends when it returns
(R132). -/
def Filter.change (f : Filter) (now : Time) (level : Bool) : Filter :=
  { f with raw := level, watch := if level = f.taken then none else some now }

/-- A filter at the end of a reset: the taken level is absent, and a raw level that is present is watched from
then on (R132). -/
def Filter.afterReset (f : Filter) (now : Time) : Filter :=
  ⟨f.raw, false, if f.raw then some now else none⟩

/-- A running LAMP TEST ends at a taken rise of HOT or LLOW: REFUSED with DRIVE OFF (R143). -/
def cutLampTest (s : State) : State :=
  match s.drive.lampTest with
  | none => s
  | some _ => endRefused .driveOff 0 (setDrive { s.drive with lampTest := none } s)

/-- What a taken rise of HOT does: the latch is set, HOT is posted with the drive state word as it then stands,
and a lamp test ends (R134, R143). -/
def hotRise (s : State) : State :=
  let s1 := setDrive { s.drive with hotLatch := true } s
  cutLampTest (postFault .hot .none [s1.driveStateWord.toNat] s1)

/-- What a taken rise of LLOW does (R135, R143). -/
def llowRise (s : State) : State := cutLampTest (postFault .lampLow .none [s.driveStateWord.toNat] s)

/-- The filter of an input takes its raw level (R132), with the effects of its taken rise. -/
def takeFilter (c : Comparator) (s : State) : State :=
  let f := s.drive.filter c
  let s1 := setDrive (s.drive.setFilter c ⟨f.raw, f.raw, none⟩) s
  if f.raw then
    match c with
    | .hot => hotRise s1
    | .llow => llowRise s1
    | .warm => s1
    | .lwarn => s1
  else s1

/-! ### The governor (R137 to R140) -/

/-- N, the length of the window (R138). -/
def Governor.n (g : Governor) : Nat := 2 ^ g.y * (4 + g.x)

/-- P_eff (R139). -/
def effectiveLimit (limitWord : Word) (warm lwarn : Bool) : Nat :=
  let p := limitWord.toNat * 16
  match warm, lwarn with
  | false, false => p
  | true, false => p * 3 / 4
  | false, true => p / 2
  | true, true => p * 3 / 8

/-- The retreat level (R139). -/
def retreatLevel (limit : Nat) : Nat := limit * 7 / 8

/-- The window after a sample joins it, at most N samples (R138). -/
def joinWindow (n : Nat) (window : List Nat) (load : Nat) : List Nat :=
  (window ++ [load]).drop (window.length + 1 - n)

/-- The governor after a sample: the sample joins the window, the count rises, and the stage is judged (R138 to
R140). -/
def Governor.sample (g : Governor) (warm lwarn : Bool) (load : Nat) : Governor :=
  let w := joinWindow g.n g.window load
  let c := min g.n (g.count + 1)
  let g1 := { g with window := w, count := c, lastSample := g.lastSample + 10 }
  if w.length = g.n ∧ c = g.n then
    let limit := effectiveLimit g.limitWord warm lwarn
    let average := w.sum / g.n
    if limit < average ∧ g.stage < 4 then { g1 with stage := g.stage + 1, count := 0 }
    else if average < retreatLevel limit ∧ 0 < g.stage then { g1 with stage := g.stage - 1, count := 0 }
    else g1
  else g1

/-- The ribbon's lamp load report (R137, R156). -/
def State.ribbonLoad (s : State) : Nat :=
  20 * (s.tape.window.filter (· != 0x20)).length * s.ribbonBrightness

/-- The sample's load L (R137). -/
def State.sampleLoad (s : State) : Nat := (all8.map s.linkLoad).sum + s.ribbonLoad

end Sys2Proof.Machine
end

