-- ==== Sys2Proof/Machine/Ticker.lean ====
section
/-! DEFINITION. The Ticker Unit (chapter 8): prints, lateness and its modes, print formatting, the text buffer and the
ribbon. -/

namespace Sys2Proof.Machine

open Sys2Proof

/-! ### Prints (R145, R146) -/

/-- A print meets the Print Queue: it joins the tail, or, at 128 prints, is dropped: FULL is set and PRINT DROPPED
posted (R146). -/
def joinPrint (p : Print) (r : Instrument) (s : State) : State :=
  if s.tape.queue.length < 128 then updateTape { s.tape with queue := s.tape.queue ++ [p] } s
  else
    postFault .printDropped (.instrument p.instr) [p.price, p.size, p.captured.toNat]
      (setInstrument p.instr { r with full := true } s)

/-- A change notice with a trade part makes a print of a ticker-eligible instrument (R145). -/
def printTrade (i : Nat) (t : TradePart) (s : State) : State :=
  match s.instrument? i with
  | none => s
  | some r => if r.eligible then joinPrint ⟨i, t.price, r.base, t.size, t.captured⟩ r s else s

/-! ### Text (R151, R152) -/

/-- A decimal number without leading zeros. -/
def decimalText (n : Nat) : List Byte := (decDigits 10 n).map (fun d => BitVec.ofNat 8 (0x30 + d))

/-- The denominator mark: h, q, e or s (R151). -/
def denominatorMark (den : Nat) : Byte :=
  if den = 2 then 0x68 else if den = 4 then 0x71 else if den = 8 then 0x65 else 0x73

/-- The fraction of a print: a space, the numerator and the mark (R151). -/
def fractionText (f : DisplayForm) : List Byte :=
  match f.frac with
  | none => []
  | some q => 0x20 :: (decimalText q.num ++ [denominatorMark q.den])

/-- Whether the size is shown: 2 or more, and out of PUNCTUAL at least the threshold (R151, R152). -/
def sizeShown (mode : TapeMode) (threshold z : Nat) : Bool :=
  decide (2 ≤ z) && (mode == .punctual || decide (threshold ≤ z))

/-- Whether the whole part is abbreviated (R152). -/
def abbreviated (mode : TapeMode) (lastWhole : Option Nat) (full : Bool) (w : Nat) : Bool :=
  mode == .deleted && !full &&
    (match lastWhole with
     | none => false
     | some v => w / 10 == v / 10)

/-- The text of a print in a mode, for an instrument with the given symbol, last printed whole price and FULL
flag (R151, R152). -/
def printText (mode : TapeMode) (threshold : Nat) (symbol : List Byte) (lastWhole : Option Nat) (full : Bool)
    (p : Print) : List Byte :=
  let f := displayForm p.base p.price
  symbol ++ [0x20] ++ (if sizeShown mode threshold p.size then decimalText p.size ++ [0x40] else []) ++
    decimalText (if abbreviated mode lastWhole full f.whole then f.whole % 10 else f.whole) ++ fractionText f

/-- A text as one item of the buffer: its last character carries the end mark (R153). -/
def itemOf : List Byte → List TapeChar
  | [] => []
  | [c] => [⟨c, true⟩]
  | c :: d :: rest => ⟨c, false⟩ :: itemOf (d :: rest)

/-- "TAPE LATE". -/
def tapeLateText : List Byte := [0x54, 0x41, 0x50, 0x45, 0x20, 0x4C, 0x41, 0x54, 0x45]

/-- "DIGITS DELETED". -/
def digitsDeletedText : List Byte :=
  [0x44, 0x49, 0x47, 0x49, 0x54, 0x53, 0x20, 0x44, 0x45, 0x4C, 0x45, 0x54, 0x45, 0x44]

/-! ### Lateness (R148 to R150) -/

/-- The mode decided at a take from a lateness of `d` ms (R149). -/
def modeAfter (block : TickerBlock) (mode : TapeMode) (d : Nat) : TapeMode :=
  match mode with
  | .punctual => if block.t1 * 1000 ≤ d then .late else .punctual
  | .late =>
    if d < block.t1 * 500 then .punctual
    else if block.t2 * 1000 ≤ d then .deleted
    else .late
  | .deleted => if d < block.t2 * 500 then .late else .deleted

/-- The banner of a decision: none unless the mode changes to LATE or to DELETED (R150). -/
def bannerText (before after : TapeMode) : List Byte :=
  if before = after then []
  else match after with
    | .punctual => []
    | .late => tapeLateText
    | .deleted => digitsDeletedText

/-- The speed in force (R149, R155). -/
def TickerUnit.speed (t : TickerUnit) : TapeSpeed :=
  match t.mode with
  | .punctual => t.block.baseSpeed
  | .late => .fast
  | .deleted => .fast

/-! ### The text buffer (R153) -/

/-- Held text enters the buffer, whole, when there is room for all of it (R153). -/
def TickerUnit.enterHeld (t : TickerUnit) : TickerUnit :=
  if t.held ≠ [] ∧ t.buffer.length + t.held.length ≤ 40 then { t with buffer := t.buffer ++ t.held, held := [] }
  else t

/-- A banner and then a print's text are written into the buffer; the print's text is held when it does not fit
(R147, R153). -/
def TickerUnit.writeText (t : TickerUnit) (banner text : List Byte) : TickerUnit :=
  let b := t.buffer ++ itemOf banner
  if b.length + text.length ≤ 40 then { t with buffer := b ++ itemOf text }
  else { t with buffer := b, held := itemOf text }

/-! ### A take (R147) -/

/-- The conditions of a take (R147). -/
def State.takeReady (s : State) : Bool :=
  s.tape.condition == .running && !s.tape.hold && s.tape.held == [] && s.tape.queue != [] &&
    decide (s.tape.buffer.length ≤ 16)

/-- The Ticker Unit after the take of a print: steps 1 to 4 of R147. -/
def TickerUnit.afterTake (t : TickerUnit) (now : Time) (r : Option Instrument) (p : Print) : TickerUnit :=
  let d := now - p.captured
  let mode := modeAfter t.block t.mode d.toNat
  let text :=
    match r with
    | none => printText mode t.block.threshold [] none false p
    | some r => printText mode t.block.threshold r.symbol r.lastPrintedWhole r.full p
  { t with queue := t.queue.drop 1, lateness := d, mode := mode }.writeText (bannerText t.mode mode) text

/-- A take, with its steps in order (R147). -/
def takePrint (s : State) : State :=
  match s.tape.queue with
  | [] => s
  | p :: _ =>
    let r := s.instrument? p.instr
    let s1 := setTape (s.tape.afterTake s.ctl.timeBase r p) s
    let s2 :=
      match r with
      | none => s1
      | some r =>
        setInstrument p.instr
          { r with lastPrintedWhole := some (displayForm p.base p.price).whole, full := false } s1
    post .tickerState s2

/-! ### The ribbon (R154 to R156, R159) -/

/-- Columns 1 to 5 of each character of the ribbon's set (para 10.8); a character outside it lights nothing. -/
def glyphColumns (c : Byte) : List (BitVec 7) :=
  match c.toNat with
  | 0x40 => [0x32, 0x49, 0x79, 0x41, 0x3E]
  | 0x68 => [0x20, 0x10, 0x68, 0x54, 0x48]
  | 0x71 => [0x20, 0x10, 0x38, 0x24, 0x70]
  | 0x65 => [0x20, 0x10, 0x68, 0x54, 0x68]
  | 0x73 => [0x20, 0x10, 0x78, 0x50, 0x50]
  | 0x30 => [0x3E, 0x51, 0x49, 0x45, 0x3E]
  | 0x31 => [0x00, 0x42, 0x7F, 0x40, 0x00]
  | 0x32 => [0x42, 0x61, 0x51, 0x49, 0x46]
  | 0x33 => [0x21, 0x41, 0x45, 0x4B, 0x31]
  | 0x34 => [0x18, 0x14, 0x12, 0x7F, 0x10]
  | 0x35 => [0x27, 0x45, 0x45, 0x45, 0x39]
  | 0x36 => [0x3C, 0x4A, 0x49, 0x49, 0x30]
  | 0x37 => [0x01, 0x71, 0x09, 0x05, 0x03]
  | 0x38 => [0x36, 0x49, 0x49, 0x49, 0x36]
  | 0x39 => [0x06, 0x49, 0x49, 0x29, 0x1E]
  | 0x41 => [0x7E, 0x11, 0x11, 0x11, 0x7E]
  | 0x42 => [0x7F, 0x49, 0x49, 0x49, 0x36]
  | 0x43 => [0x3E, 0x41, 0x41, 0x41, 0x22]
  | 0x44 => [0x7F, 0x41, 0x41, 0x22, 0x1C]
  | 0x45 => [0x7F, 0x49, 0x49, 0x49, 0x41]
  | 0x46 => [0x7F, 0x09, 0x09, 0x09, 0x01]
  | 0x47 => [0x3E, 0x41, 0x49, 0x49, 0x7A]
  | 0x48 => [0x7F, 0x08, 0x08, 0x08, 0x7F]
  | 0x49 => [0x00, 0x41, 0x7F, 0x41, 0x00]
  | 0x4A => [0x20, 0x40, 0x41, 0x3F, 0x01]
  | 0x4B => [0x7F, 0x08, 0x14, 0x22, 0x41]
  | 0x4C => [0x7F, 0x40, 0x40, 0x40, 0x40]
  | 0x4D => [0x7F, 0x02, 0x0C, 0x02, 0x7F]
  | 0x4E => [0x7F, 0x04, 0x08, 0x10, 0x7F]
  | 0x4F => [0x3E, 0x41, 0x41, 0x41, 0x3E]
  | 0x50 => [0x7F, 0x09, 0x09, 0x09, 0x06]
  | 0x51 => [0x3E, 0x41, 0x51, 0x21, 0x5E]
  | 0x52 => [0x7F, 0x09, 0x19, 0x29, 0x46]
  | 0x53 => [0x46, 0x49, 0x49, 0x49, 0x31]
  | 0x54 => [0x01, 0x01, 0x7F, 0x01, 0x01]
  | 0x55 => [0x3F, 0x40, 0x40, 0x40, 0x3F]
  | 0x56 => [0x1F, 0x20, 0x40, 0x20, 0x1F]
  | 0x57 => [0x3F, 0x40, 0x38, 0x40, 0x3F]
  | 0x58 => [0x63, 0x14, 0x08, 0x14, 0x63]
  | 0x59 => [0x07, 0x08, 0x70, 0x08, 0x07]
  | 0x5A => [0x61, 0x51, 0x49, 0x45, 0x43]
  | _ => [0x00, 0x00, 0x00, 0x00, 0x00]

/-- The column presented at a phase for a drawn character; the sixth is blank (para 10.8). -/
def columnAt (c : Byte) (phase : Nat) : BitVec 7 := (glyphColumns c).getD phase 0

/-- The character drawn at phase 0 while the ribbon is running, with the buffer and the gap mark it leaves
(R154). -/
def TickerUnit.draw (t : TickerUnit) : Byte × List TapeChar × Bool :=
  if t.gapDue then (0x20, t.buffer, false)
  else match t.buffer with
    | [] => (0x20, [], false)
    | c :: rest => (c.char, rest, c.endMark)

/-- The next column phase (R154). -/
def nextPhase (phase : Nat) : Nat := if phase = 5 then 0 else phase + 1

/-- A character joins the visible window at the right, and the oldest leaves it (R154). -/
def slideWindow (w : List Byte) (c : Byte) : List Byte := w.drop 1 ++ [c]

/-- The step of a running ribbon (R153 to R156). -/
def TickerUnit.runStep (t : TickerUnit) (brightness : Nat) : TickerUnit :=
  let t1 : TickerUnit :=
    if t.phase = 0 then
      let d := t.draw
      { t with window := slideWindow t.window d.1, buffer := d.2.1, gapDue := d.2.2 }.enterHeld
    else t
  { t1 with
    portColumn := columnAt (t1.window.getLast?.getD 0x20) t.phase
    portBrightness := brightness
    phase := nextPhase t.phase
    interval := t.speed }

/-- The step of a blank-out with `left` steps to make, `left` above 0 (R159). -/
def TickerUnit.blankStep (t : TickerUnit) (left brightness : Nat) : TickerUnit :=
  { t with
    window := if t.phase = 0 then slideWindow t.window 0x20 else t.window
    gapDue := if t.phase = 0 then false else t.gapDue
    portColumn := 0
    portBrightness := brightness
    phase := nextPhase t.phase
    condition := .blanking (left - 1) }

/-- A blank-out begins (R159). -/
def TickerUnit.beginBlankOut (t : TickerUnit) : TickerUnit :=
  { t with condition := .blanking 480, loadedInBlankOut := false, phase := 0, interval := .blankOut }

/-- The ribbon becomes RUNNING (R159). -/
def TickerUnit.run (t : TickerUnit) : TickerUnit :=
  { t with condition := .running, loadedInBlankOut := false, interval := t.speed }

/-- The Ticker Unit when a LOAD is taken (R161). -/
def TickerUnit.loadTaken (t : TickerUnit) : TickerUnit :=
  { t with queue := [], buffer := [], held := [], mode := .punctual, lateness := 0, hold := false }.beginBlankOut

/-- The Ticker Unit at the end of a LOAD that ends DONE (R159, R161). -/
def TickerUnit.loadDone (t : TickerUnit) (block : TickerBlock) : TickerUnit :=
  let t1 := { t with block := block }
  match t.condition with
  | .still => t1.run
  | .blanking _ => { t1 with loadedInBlankOut := true }
  | .running => t1

end Sys2Proof.Machine
end

