-- ==== Sys2Proof/WellFormed.lean ====
section
/-! DEFINITION. Which commands the environment can send: the checks that the operand types do not already make. -/

namespace Sys2Proof

/-- A received mark: 7EH with its stop bit in place. R166 takes a character with a framing fault as one outside
20H to 7DH, and does not say whether a 7EH so received is a mark: here it is none (assumption 40, DESIGN CHOICE). -/
def RxChar.isMark (c : RxChar) : Bool := c.bits == 0x7E#8 && !c.framingFault

/-- A command is well formed when a named instrument is one of the 512 that a directory can hold (R47), and a
CHARACTER_RECEIVED carries no mark, which is MARK_RECEIVED's (R166, assumption 40). The other operands' types hold their
ranges: eight links, sixteen chain positions, sixteen lines, 20 address lines. -/
def Instr.wellFormed : Instr → Bool
  | .staleStaging i => decide (i < 512)
  | .holdExpired i => decide (i < 512)
  | .characterReceived _ c => !c.isMark
  | _ => true

end Sys2Proof
end

