-- ==== Sys2Proof/Machine/Lines.lean ====
section
/-! DEFINITION. The Line Unit (chapter 9): the inbound assembler, watch lists, requests, messages, outbound queues,
the Frame Builder and the line service arbiter. -/

namespace Sys2Proof.Machine

open Sys2Proof

/-! ### The inbound assembler (R165 to R167, R186) -/

/-- The causes of a bad frame (R167, para 10.3). -/
inductive BadCause where
  | badLength
  | badCharacter
  | badCheck
  | cut
  | abandoned
deriving DecidableEq, Repr

/-- The LINE NOISE cause code (para 10.3). -/
def BadCause.code : BadCause → Nat
  | .badLength => 1
  | .badCharacter => 2
  | .badCheck => 3
  | .cut => 4
  | .abandoned => 5

/-- The value of a hexadecimal digit 0 to 9 or A to F, none for any other character (R186). -/
def hexValue (c : Byte) : Option Nat :=
  if 0x30 ≤ c.toNat ∧ c.toNat ≤ 0x39 then some (c.toNat - 0x30)
  else if 0x41 ≤ c.toNat ∧ c.toNat ≤ 0x46 then some (c.toNat - 0x41 + 10)
  else none

/-- A hexadecimal digit as the part writes it, in capitals (R186). -/
def hexDigit (n : Nat) : Byte := if n < 10 then BitVec.ofNat 8 (0x30 + n) else BitVec.ofNat 8 (0x41 + n - 10)

/-- A value as two hexadecimal digits, the high four bits first (R186). -/
def hexPair (n : Nat) : List Byte := [hexDigit (n / 16 % 16), hexDigit (n % 16)]

/-- The value of two hexadecimal digits. -/
def hexPairValue (a b : Byte) : Option Nat :=
  match hexValue a, hexValue b with
  | some x, some y => some (16 * x + y)
  | _, _ => none

/-- A printable character, 20H to 7DH (R165). -/
def printable (c : Byte) : Bool := decide (0x20 ≤ c.toNat ∧ c.toNat ≤ 0x7D)

/-- What the assembler makes of a character. -/
inductive Assembled where
  /-- the character joins the frame -/
  | more
  /-- the frame is bad -/
  | bad (cause : BadCause)
  /-- the frame is complete and good -/
  | good (kind : Byte) (body : List Byte)
deriving DecidableEq, Repr

/-- The body length of a frame in assembly, from its two length characters. -/
def assembledLength (got : List Byte) : Nat := (hexPairValue (got.getD 1 0) (got.getD 2 0)).getD 0

/-- What the assembler makes of a character other than a mark, after the characters `got` since the mark: the
kind, two length characters, the body, two check characters (R166, R167). A character with a framing fault is
taken as one outside 20H to 7DH, a 7EH too (assumption 40, DESIGN CHOICE). -/
def assemble (got : List Byte) (c : RxChar) : Assembled :=
  let n := got.length
  let len := assembledLength got
  let hexHere := if c.framingFault then none else hexValue c.bits
  if n = 0 then (if !c.framingFault && printable c.bits then .more else .bad .badCharacter)
  else if n = 1 then (if hexHere.isSome then .more else .bad .badLength)
  else if n = 2 then
    match hexHere, hexValue (got.getD 1 0) with
    | some y, some x => if 16 * x + y ≤ 60 then .more else .bad .badLength
    | _, _ => .bad .badLength
  else if n < 3 + len then (if !c.framingFault && printable c.bits then .more else .bad .badCharacter)
  else if n = 3 + len then (if hexHere.isSome then .more else .bad .badCheck)
  else
    match hexHere, hexValue (got.getD (3 + len) 0) with
    | some y, some x =>
      if BitVec.ofNat 8 (16 * x + y) = checkByte (got.take (3 + len)) then
        .good (got.getD 0 0) ((got.drop 3).take len)
      else .bad .badCheck
    | _, _ => .bad .badCheck

/-- The frame that the one second check character that fits would complete, if the next character is the
second check character (R166). -/
def readyFrame (got : List Byte) : Option (Byte × List Byte) :=
  let low := (checkByte (got.take (3 + assembledLength got))).toNat % 16
  match assemble got ⟨hexDigit low, false⟩ with
  | .good kind body => some (kind, body)
  | _ => none

/-! ### Doze and bad frames (R168, R182) -/

/-- The doze timer is restarted from the reading `now`; with a doze time of 0 it does not run (R182). -/
def Line.restartDoze (l : Line) (now : Time) : Line :=
  { l with dozeTimer := if l.doze = 0 then none else some now }

/-- A line in DOZING is woken: it goes ACTIVE and its timer restarts (R182). -/
def Line.wake (l : Line) (now : Time) : Line :=
  if l.state = .dozing then { l with state := .active }.restartDoze now else l

/-- A bad frame is counted; the eighth in a row mutes an ACTIVE line and posts LINE NOISE (R168). One that turns bad on a
line gone DOZING since its mark is counted there, and neither mutes nor wakes it (assumption 35, DESIGN CHOICE). -/
def countBad (n : Fin 16) (cause : BadCause) (s : State) : State :=
  let l := s.lines[n]
  let run := min 8 (l.badRun + 1)
  if run = 8 ∧ l.state = .active then
    postFault .lineNoise (.line n.val) [l.cls, cause.code, l.rate.code]
      (setLine n { l with badRun := run, cls := 0, state := .muted } s)
  else setLine n { l with badRun := run } s

/-! ### The outbound queue (R176) -/

/-- A PAGE entry that is queued takes a new instrument and keeps its place; the answer says whether there was
one. -/
def replacePage (i : Nat) : List OutEntry → Bool × List OutEntry
  | [] => (false, [])
  | .page _ :: rest => (true, .page i :: rest)
  | e :: rest => let r := replacePage i rest; (r.1, e :: r.2)

/-- An entry is queued, as the table of R176 gives for its kind. -/
def queueOut (e : OutEntry) (q : List OutEntry) : List OutEntry :=
  match e with
  | .quote i => if q.contains (.quote i) then q else q ++ [.quote i]
  | .page i => let r := replacePage i q; if r.1 then r.2 else q ++ [.page i]
  | .ack n => q ++ [.ack n]
  | .notice c => if q.contains (.notice c) then q else q ++ [.notice c]

/-- A line queues an entry. -/
def Line.queue (l : Line) (e : OutEntry) : Line := { l with out := queueOut e l.out }

/-- A line queues a QUOTE entry for each instrument of its watch list, in order (R61, R164). -/
def Line.queueWatch (l : Line) : Line := l.watch.foldl (fun l i => l.queue (.quote i)) l

/-! ### Watch lists and watcher sets (R170) -/

/-- A line joins a watcher set. -/
def addWatcher (n : Fin 16) (ws : List (Fin 16)) : List (Fin 16) := if ws.contains n then ws else ws ++ [n]

/-- A line leaves a watcher set. -/
def dropWatcher (n : Fin 16) (ws : List (Fin 16)) : List (Fin 16) := ws.filter (· != n)

/-- The watcher set of instrument `i` is changed. -/
def changeWatchers (i : Nat) (f : List (Fin 16) → List (Fin 16)) (s : State) : State :=
  match s.instrument? i with
  | none => s
  | some r => setInstrument i { r with watchers := f r.watchers } s

/-! ### The Symbol Index (R42) -/

/-- The instrument whose symbol is exactly a text of 1 to 5 letters, or none (R42). -/
def lookup (s : State) (text : List Byte) : Option Nat :=
  if decide (1 ≤ text.length ∧ text.length ≤ 5) && text.all isLetter then
    s.tbl.symbolIndex.find? (fun i => match s.instrument? i with
      | none => false
      | some r => r.symbol == text)
  else none

/-! ### Requests (R171 to R174) -/

/-- A watch request on an ACTIVE line (R171). -/
def requestWatch (n : Fin 16) (body : List Byte) (s : State) : State :=
  let l := s.lines[n]
  match lookup s body with
  | none => setLine n (l.queue (.notice .unknown)) s
  | some i =>
    if l.watch.contains i then s
    else if 24 ≤ l.watch.length then setLine n (l.queue (.notice .full)) s
    else changeWatchers i (addWatcher n) (setLine n ({ l with watch := l.watch ++ [i] }.queue (.quote i)) s)

/-- A watch drop on an ACTIVE line (R172). -/
def requestDrop (n : Fin 16) (body : List Byte) (s : State) : State :=
  let l := s.lines[n]
  match lookup s body with
  | none => setLine n (l.queue (.notice .unknown)) s
  | some i =>
    if l.watch.contains i then
      changeWatchers i (dropWatcher n)
        (setLine n { l with watch := l.watch.filter (· != i), out := l.out.filter (· != .quote i) } s)
    else s

/-- A page request on an ACTIVE line (R173). -/
def requestPage (n : Fin 16) (body : List Byte) (s : State) : State :=
  let l := s.lines[n]
  match lookup s body with
  | none => setLine n (l.queue (.notice .unknown)) s
  | some i => setLine n (l.queue (.page i)) s

/-- The Control Unit reports a free inbox slot (R34). -/
def State.inboxFree (s : State) : Bool := s.ctl.inbox.nextSlot + 1 != s.ctl.inbox.readIndex

/-- The ACK entries of an outbound queue. -/
def ackCount (q : List OutEntry) : Nat :=
  (q.filter (fun e => match e with
    | .ack _ => true
    | _ => false)).length

/-- The most significant bit first, seven bits of a character. -/
def sevenBits (c : Byte) : List Bool := [6, 5, 4, 3, 2, 1, 0].map (fun i => c.getLsbD i)

/-- A word from bits, the most significant first. -/
def wordOfBits (bs : List Bool) : Word := bs.foldl (fun w b => w * 2 + (if b then 1 else 0)) 0

/-- Words of 16 bits each, `n` of them, from a list of bits. -/
def packWords : Nat → List Bool → List Word
  | 0, _ => []
  | n + 1, bs => wordOfBits (bs.take 16) :: packWords n (bs.drop 16)

/-- The 32 characters of an inbox slot: blanks beyond the length (para 2.6). -/
def paddedText (text : List Byte) : List Byte := text.take 32 ++ List.replicate (32 - text.length) 0x20

/-- The 18 words of an inbox slot (para 10.3). -/
def inboxWords (time : Time) (seq : Byte) (n : Fin 16) (text : List Byte) : List Word :=
  highLow time.toNat ++ [BitVec.ofNat 16 (256 * seq.toNat + n.val), BitVec.ofNat 16 (min 32 text.length)] ++
    packWords 14 ((paddedText text).flatMap sevenBits)

/-- A message is given the next inbox slot and joins the write-back queue (R34). -/
def submitMessage (n : Fin 16) (seq : Byte) (text : List Byte) (s : State) : State :=
  postRecord (.inboxSlot s.ctl.inbox.nextSlot n seq (inboxWords s.ctl.timeBase seq n text))
    { s with ctl := { s.ctl with inbox := { s.ctl.inbox with nextSlot := s.ctl.inbox.nextSlot + 1 } } }

/-- A message request on an ACTIVE line (R174). -/
def requestMessage (n : Fin 16) (body : List Byte) (s : State) : State :=
  let l := s.lines[n]
  if s.inboxFree && decide (ackCount l.out + l.awaited.length < 4) then
    submitMessage n l.nextSeq body
      (setLine n { l with nextSeq := l.nextSeq + 1, awaited := l.awaited ++ [l.nextSeq] } s)
  else setLine n (l.queue (.notice .inboxBusy)) s

/-- A good frame of a kind, acted on by an ACTIVE line (R169). -/
def actOnFrame (n : Fin 16) (kind : Byte) (body : List Byte) (s : State) : State :=
  if kind = 0x57 then requestWatch n body s
  else if kind = 0x44 then requestDrop n body s
  else if kind = 0x50 then requestPage n body s
  else if kind = 0x4D then requestMessage n body s
  else s

/-- A good frame is complete (R168, R169, R182): the run becomes 0, the assembler hunts, a DOZING line is awake
again (assumption 16, DEDUCED), the timer restarts, and an ACTIVE line acts on the frame. -/
def goodFrame (n : Fin 16) (kind : Byte) (body : List Byte) (s : State) : State :=
  let l := { s.lines[n] with badRun := 0, assembler := .hunting }
  let l1 := (l.wake s.ctl.timeBase).restartDoze s.ctl.timeBase
  let s1 := setLine n l1 s
  if l1.state = .active then actOnFrame n kind body s1 else s1

/-- A frame in assembly has turned bad: the assembler hunts and the frame is counted (R167). -/
def badFrame (n : Fin 16) (cause : BadCause) (s : State) : State :=
  countBad n cause (setLine n { s.lines[n] with assembler := .hunting } s)

/-- A mark arrives on a line that is not OFF (R166, R167, R182): it wakes a DOZING line, cuts a frame in
assembly, and begins an assembly. -/
def markArrives (n : Fin 16) (s : State) : State :=
  let s1 := setLine n (s.lines[n].wake s.ctl.timeBase) s
  let s2 :=
    match s1.lines[n].assembler with
    | .hunting => s1
    | .assembling _ _ => badFrame n .cut s1
  setLine n { s2.lines[n] with assembler := .assembling [] s2.ctl.timeBase } s2

/-- A character arrives on a line (R162, R166): an OFF line discards it, a hunting assembler discards all but a
mark, and an assembling one takes it. A 7EH with a framing fault is no mark (assumption 40, DESIGN CHOICE). -/
def receiveChar (n : Fin 16) (c : RxChar) (s : State) : State :=
  let l := s.lines[n]
  if l.state = .off then s
  else if c.isMark then markArrives n s
  else match l.assembler with
    | .hunting => s
    | .assembling got _ =>
      match assemble got c with
      | .more => setLine n { l with assembler := .assembling (got ++ [c.bits]) s.ctl.timeBase } s
      | .bad cause => badFrame n cause s
      | .good kind body => goodFrame n kind body s

/-- The second check character arrives that completes a good frame of a kind that `kinds` admits; at any other
moment the event does not arise (assumption 6, DESIGN CHOICE), and during a reset neither (assumption 36, DESIGN CHOICE). -/
def onGoodFrame (n : Fin 16) (kinds : Byte → Bool) (s : State) : State :=
  if s.rst.inReset || s.lines[n].state == .off then s
  else match s.lines[n].assembler with
    | .hunting => s
    | .assembling got _ =>
      match readyFrame got with
      | none => s
      | some (kind, body) => if kinds kind then goodFrame n kind body s else s

/-! ### The Frame Builder (R165, R178 to R180) -/

/-- A whole frame: the mark, the kind, the length, the body and the check (R165). -/
def frameChars (kind : Byte) (body : List Byte) : List Byte :=
  let head := kind :: (hexPair body.length ++ body)
  0x7E :: (head ++ hexPair (checkByte head).toNat)

/-- The price text of a price in steps (R179). -/
def priceText (f : DisplayForm) : List Byte :=
  decimalText f.whole ++
    (match f.frac with
     | none => []
     | some q => denominatorMark q.den :: decimalText q.num)

/-- The price text of a field, empty when it is absent (R89, R179). -/
def fieldText (b : FractionBase) (v : Option Nat) : List Byte :=
  match v with
  | none => []
  | some q => priceText (displayForm b q)

/-- The change text: a sign, unless the change is 0, and the price text of the magnitude (R179). -/
def changeText (r : Instrument) : List Byte :=
  match netChange r with
  | none => []
  | some c =>
    (match changeSign c with
     | .none => []
     | .plus => [0x2B]
     | .minus => [0x2D]) ++ priceText (displayForm r.base c.natAbs)

/-- The symbol with blanks after it to make five. -/
def paddedSymbol (r : Instrument) : List Byte := r.symbol ++ List.replicate (5 - r.symbol.length) 0x20

/-- The tick character (R179). -/
def tickChar : Tick → Byte
  | .none => 0x20
  | .up => 0x55
  | .down => 0x44
  | .zeroUp => 0x75
  | .zeroDown => 0x64

/-- A flag's letter or a blank. -/
def flagChar (b : Bool) (c : Byte) : Byte := if b then c else 0x20

/-- Fields separated by commas. -/
def commaJoin : List (List Byte) → List Byte
  | [] => []
  | [f] => f
  | f :: g :: rest => f ++ 0x2C :: commaJoin (g :: rest)

/-- The body of a Q frame (R179). -/
def quoteBody (r : Instrument) : List Byte :=
  paddedSymbol r ++ [tickChar r.tick, flagChar r.halted 0x48, flagChar r.fast 0x46, flagChar r.offIncrement 0x4F] ++
    commaJoin [fieldText r.base r.last, changeText r, fieldText r.base r.bid, fieldText r.base r.ask]

/-- The volume as a G frame carries it (R180). -/
def volumeText (v : Nat) : List Byte :=
  if v ≤ 99999999 then decimalText v else decimalText 99999999 ++ [0x2B]

/-- The body of a G frame: the symbol of five characters, and then five fields separated by four commas (R180). -/
def pageBody (r : Instrument) : List Byte :=
  paddedSymbol r ++
    commaJoin [fieldText r.base r.high, fieldText r.base r.low, fieldText r.base r.close, volumeText r.volume,
      decimalText r.lastSize]

/-- The body of an N frame: "UNKNOWN", "FULL" or "INBOX BUSY" (R180). -/
def noticeBody : Notice → List Byte
  | .unknown => [0x55, 0x4E, 0x4B, 0x4E, 0x4F, 0x57, 0x4E]
  | .full => [0x46, 0x55, 0x4C, 0x4C]
  | .inboxBusy => [0x49, 0x4E, 0x42, 0x4F, 0x58, 0x20, 0x42, 0x55, 0x53, 0x59]

/-- The Q frame of an instrument. -/
def quoteFrame (r : Instrument) : List Byte := frameChars 0x51 (quoteBody r)

/-- The characters that the Frame Builder places in the transmitter for an entry (R179, R180). -/
def buildEntry (s : State) : OutEntry → List Byte
  | .quote i => match s.instrument? i with
    | none => []
    | some r => quoteFrame r
  | .page i => match s.instrument? i with
    | none => []
    | some r => quoteFrame r ++ frameChars 0x47 (pageBody r)
  | .notice c => frameChars 0x4E (noticeBody c)
  | .ack q => frameChars 0x4B (hexPair q.toNat)

/-- The entries that stay when the head is built: a PAGE takes the QUOTE entry of its instrument with it (R178,
R180). -/
def leftAfter (head : OutEntry) (rest : List OutEntry) : List OutEntry :=
  match head with
  | .page i => rest.filter (· != .quote i)
  | _ => rest

/-! ### The line service arbiter (R178) -/

/-- A line qualifies when it is ACTIVE, has an entry and an empty transmitter. -/
def Line.qualifies (l : Line) : Bool := l.state == .active && l.out != [] && l.transmitter == []

/-- The line last served in a class. -/
def ServicePlaces.place (v : ServicePlaces) (cls : Nat) : Fin 16 :=
  if cls = 3 then v.class3 else if cls = 2 then v.class2 else v.class1

/-- A line becomes the last served in its class. -/
def ServicePlaces.set (v : ServicePlaces) (cls : Nat) (n : Fin 16) : ServicePlaces :=
  if cls = 3 then { v with class3 := n } else if cls = 2 then { v with class2 := n } else { v with class1 := n }

/-- The first qualifying line of a class after the line last served in it. -/
def State.serviceOf (s : State) (cls : Nat) : Option (Fin 16) :=
  (afterPosition (s.service.place cls)).find? (fun n => s.lines[n].qualifies && s.lines[n].cls == cls)

/-- The arbiter's choice: the highest class with a qualifying line (R178). -/
def State.serviceChoice (s : State) : Option (Nat × Fin 16) :=
  match s.serviceOf 3 with
  | some n => some (3, n)
  | none => match s.serviceOf 2 with
    | some n => some (2, n)
    | none => (s.serviceOf 1).map (fun n => (1, n))

/-- The chosen line is served: the Frame Builder builds its head entry into the transmitter (R178). -/
def serveLine (cls : Nat) (n : Fin 16) (s : State) : State :=
  let l := s.lines[n]
  match l.out with
  | [] => s
  | e :: rest =>
    { setLine n { l with out := leftAfter e rest, transmitter := buildEntry s e } s with
      service := s.service.set cls n }

/-! ### Change notices and reports (R175, R177) -/

/-- A change notice for an instrument reaches the lines of its watcher set: each that is not OFF queues a QUOTE
entry (R177). -/
def noticeLines (i : Nat) (s : State) : State :=
  match s.instrument? i with
  | none => s
  | some r =>
    r.watchers.foldl (fun s n =>
      if s.lines[n].state = .off then s else setLine n (s.lines[n].queue (.quote i)) s) s

/-- A report that a message's slot has been written (R175). -/
def reportWritten (n : Fin 16) (seq : Byte) (s : State) : State :=
  let l := s.lines[n]
  if l.awaited.contains seq then
    setLine n ({ l with awaited := l.awaited.erase seq }.queue (.ack seq)) s
  else s

/-! ### SET LINE (R164) and LOAD (R61, R162) -/

/-- Step 1 of R164: an accepted rate. -/
def Line.takeRate (l : Line) (rate : Rate) : Line :=
  if rate = l.rate then l
  else { l with transmitter := [], out := [], assembler := .hunting, badRun := 0, rate := rate }

/-- Step 3 of R164: the class given, and the state that follows. -/
def Line.takeClass (l : Line) (cls : Nat) : Line :=
  if cls = 0 then { l with cls := 0, state := .muted }
  else if l.cls = 0 ∨ l.state = .off then { l with cls := cls, state := .active }.queueWatch
  else { l with cls := cls }

/-- Step 4 of R164: the doze time given. -/
def Line.takeDoze (l : Line) (doze : Nat) (now : Time) : Line :=
  let l1 := { l with doze := doze }
  if l.state = .active ∨ l.state = .muted then l1.restartDoze now else l1

/-- Step 2 of R164: rate NONE turns the line OFF; its message sequence counter is kept (R174). -/
def Line.turnOff (l : Line) : Line := { Line.off with nextSeq := l.nextSeq }

/-- The line leaves the watcher set of every instrument it watched. -/
def leaveWatchers (n : Fin 16) (watch : List Nat) (s : State) : State :=
  watch.foldl (fun s i => changeWatchers i (dropWatcher n) s) s

/-- An accepted SET LINE, in the steps of R164. -/
def carrySetLine (n : Fin 16) (rate : Rate) (cls doze : Nat) (s : State) : State :=
  let l := s.lines[n].takeRate rate
  if rate = .none then leaveWatchers n l.watch (setLine n l.turnOff s)
  else setLine n ((l.takeClass cls).takeDoze doze s.ctl.timeBase) s

/-- A line at the end of a LOAD that ends DONE, from its line block (R48, R61, R162). -/
def lineUp (header : List Word) (now : Time) (n : Fin 16) (l : Line) : Line :=
  match headerRate header n.val with
  | none => l
  | some .none => l
  | some rate =>
    let cls := headerClass header n.val
    let l1 := { l with rate := rate, cls := cls, doze := headerDoze header n.val }
    if cls = 0 then { l1 with state := .muted }.restartDoze now
    else ({ l1 with state := .active }.queueWatch).restartDoze now

end Sys2Proof.Machine
end

