-- ==== Sys2Proof/Machine/Notices.lean ====
section
/-! DEFINITION. Change notices and the commands of the Price Unit: CONFIRM, WITHDRAW and the expiry of a hold (R84,
R92, R96 to R99). -/

namespace Sys2Proof.Machine

open Sys2Proof

/-- A change notice for an instrument, with a trade part when a trade was taken (R84, R92): the Ticker Unit makes
its print, each watching line that is not OFF queues a QUOTE entry, each running link recomputes its target images,
and free links choose. During phase 2 of LOAD no link runs and every line is OFF, so only the print is made (R60). -/
def notify (i : Nat) (trade : Option TradePart) (s : State) : State :=
  let s1 :=
    match trade with
    | none => s
    | some t => printTrade i t s
  chooseAll (recomputeBoards (· == i) (noticeLines i s1))

/-! ### CONFIRM and WITHDRAW (R98, R99) -/

/-- The first two steps of R98, which WITHDRAW shares; then `settle` with the instrument, its record and its hold. -/
def settleHold (settle : Nat → Instrument → Hold → State → State) (s : State) : State :=
  let i := (s.param 0).toNat
  match s.instrument? i with
  | none => endRefused .badParameter 0 s
  | some r =>
    match r.hold with
    | none => endRefused .noHold i s
    | some h => settle i r h s

/-- CONFIRM's third step: the held trade is taken and the hold discarded, the notice sent, the command DONE. -/
def confirmHold (i : Nat) (r : Instrument) (h : Hold) (s : State) : State :=
  endDone
    (notify i (some ⟨h.price, h.size, h.captured⟩)
      (setInstrument i { takeTrade h.price h.size h.rounding r with hold := none } s))

/-- WITHDRAW's third step: the hold is discarded and the command ends DONE. -/
def withdrawHold (i : Nat) (r : Instrument) (_h : Hold) (s : State) : State :=
  endDone (setInstrument i { r with hold := none } s)

/-- CONFIRM (R98). -/
def execConfirm (s : State) : Host.Outcome State Fault Refusal :=
  answer (onCommand (· == 3) (settleHold confirmHold) s)

/-- WITHDRAW (R99). -/
def execWithdraw (s : State) : Host.Outcome State Fault Refusal :=
  answer (onCommand (· == 4) (settleHold withdrawHold) s)

/-- HOLD_EXPIRED (R96): a hold whose expiry time has been reached is discarded, and HOLD EXPIRED posted. Before
that time or without a hold the event does not arise (assumption 6, DESIGN CHOICE), and during a reset neither (assumption
36, DESIGN CHOICE). -/
def execHoldExpired (i : Nat) (s : State) : Host.Outcome State Fault Refusal :=
  answer
    (match s.instrument? i with
     | none => s
     | some r =>
       match r.hold with
       | none => s
       | some h =>
         if !s.rst.inReset && holdDue s r h then
           setInstrument i { r with hold := none }
             (postFault .holdExpired (.instrument i) [h.price, h.size, h.captured.toNat] s)
         else s)

end Sys2Proof.Machine
end

