-- ==== Sys2Proof/Machine/Capture.lean ====
section
/-! DEFINITION. The Capture Unit (chapter 4): staging, commits, the Fetch Queue and applying a commit. -/

namespace Sys2Proof.Machine

open Sys2Proof

/-- The field words of a record, in order. -/
def all7 : List (Fin 7) := [0, 1, 2, 3, 4, 5, 6]

/-- The values of a commit's field words; a word that is absent was not read (R71, R77, R79). -/
abbrev FieldValues := Vector (Option Word) 7

/-- No field word. -/
def noValues : FieldValues := Vector.replicate 7 none

/-- The Capture Unit's state is changed. -/
def setCap (c : CaptureUnit) (s : State) : State := { s with cap := c }

/-! ### Applying a commit (R80 to R84) -/

/-- The first step: the halt flags (R80, R97). -/
def applyHalt (i : Nat) (c : CommitFlags) (s : State) : State :=
  match s.instrument? i with
  | none => s
  | some r =>
    if c.halt then
      if r.halted then s else cancelHold i (setInstrument i { r with halted := true } s)
    else if c.resume then setInstrument i { r with halted := false } s
    else s

/-- A quoted price from its two words; the field is left as it was when either was not read (R79, R81). -/
def quoteField (b : FractionBase) (high low : Option Word) (old : Option Nat) : Option Nat :=
  match high, low with
  | some h, some l => quantizePresent b (pairValue h l)
  | _, _ => old

/-- The second step: the QUOTE group (R81). -/
def applyQuote (i : Nat) (c : CommitFlags) (v : FieldValues) (s : State) : State :=
  match s.instrument? i with
  | none => s
  | some r =>
    if c.quote then
      setInstrument i { r with bid := quoteField r.base v[3] v[4] r.bid, ask := quoteField r.base v[5] v[6] r.ask } s
    else s

/-- The third step: the TRADE group, discarded while the instrument is halted, and otherwise passed to the Price
Unit (R79, R82). The answer holds the trade part of a taken trade. -/
def applyTrade (i : Nat) (c : CommitFlags) (seq : BitVec 12) (time : Time) (v : FieldValues) (s : State) :
    State × Option TradePart :=
  match c.trade, v[0], v[1], v[2], s.instrument? i with
  | true, some h, some l, some z, some r =>
    if r.halted then
      (postFault .tradeWhileHalted (.instrument i) [pairValue h l, z.toNat, seq.toNat] s, none)
    else tradeArrives i (pairValue h l) z.toNat time s
  | _, _, _, _, _ => (s, none)

/-- The fourth step: the fast flags (R83). -/
def applyFast (i : Nat) (c : CommitFlags) (s : State) : State :=
  match s.instrument? i with
  | none => s
  | some r =>
    if c.fastOn then setInstrument i { r with fast := true } s
    else if c.fastOff then setInstrument i { r with fast := false } s
    else s

/-- Whether an application changed something visible (R84). -/
def visiblyChanged (old new : Instrument) (part : Option TradePart) : Bool :=
  old.halted != new.halted || old.fast != new.fast || old.bid != new.bid || old.ask != new.ask || part.isSome

/-- A commit is applied with the flags it has left and the field words that were read: the four steps, and then one
change notice if anything visible has changed (R80 to R84). -/
def applyCommit (i : Nat) (c : CommitFlags) (seq : BitVec 12) (time : Time) (v : FieldValues) (s : State) : State :=
  let t := applyTrade i c seq time v (applyQuote i c v (applyHalt i c s))
  let s4 := applyFast i c t.1
  match s.instrument? i, s4.instrument? i with
  | some old, some new => if visiblyChanged old new t.2 then notify i t.2 s4 else s4
  | _, _ => s4

/-! ### The Fetch Queue (R72, R73) -/

/-- The field words that an attempt reads, by the groups its entry names (R73). -/
def fetchPlan (c : CommitFlags) : List (Fin 7) :=
  (if c.trade then [0, 1, 2] else []) ++ (if c.quote then [3, 4, 5, 6] else [])

/-- The word address of word `n` of instrument `i`'s quote record. -/
def State.recordWord (s : State) (i n : Nat) : Nat :=
  match s.instrument? i with
  | none => n
  | some r => r.recordAddr + n

/-- An entry that names no group is applied as soon as it reaches the head (R73); at most `fuel` of them. -/
def drainGroupless : Nat → State → State
  | 0, s => s
  | fuel + 1, s =>
    match s.cap.fetchQueue, s.cap.attempt with
    | e :: rest, none =>
      if fetchPlan e.flags = [] then
        drainGroupless fuel (applyCommit e.instr e.flags e.seq e.time noValues (setCap { s.cap with fetchQueue := rest } s))
      else s
    | _, _ => s

/-- The fetch has a read to place: an attempt with words still to be read, or an entry at the head with none in
progress (R73). -/
def State.fetchWants (s : State) : Bool :=
  match s.cap.attempt with
  | some a => decide (a.got.length < a.plan.length)
  | none => s.cap.fetchQueue != []

/-- Phase 2 has a read to place (R57). -/
def State.phase2Wants (s : State) : Bool :=
  match s.load with
  | .phase2 r => decide (r.instr < s.tbl.instruments.length)
  | _ => false

/-- Place the next read of the fetch. With none in progress an attempt begins: its number rises and the torn mark is
cleared (R73). -/
def placeFetch (s : State) : State :=
  match s.cap.fetchQueue with
  | [] => s
  | e :: rest =>
    match s.cap.attempt with
    | some a =>
      placePart .fetch (s.recordWord e.instr (a.plan.getD a.got.length 0).val) none
        (setCap { s.cap with lastWasPhase2 := false } s)
    | none =>
      let plan := fetchPlan e.flags
      placePart .fetch (s.recordWord e.instr (plan.getD 0 0).val) none
        (setCap
          { s.cap with
            fetchQueue := { e with attempt := e.attempt + 1, torn := false } :: rest
            attempt := some ⟨plan, []⟩
            lastWasPhase2 := false } s)

/-- Place the next read of phase 2. With no attempt in flight one begins (R57, R59). -/
def placePhase2 (s : State) : State :=
  match s.load with
  | .phase2 r =>
    let r1 := if r.inFlight then r else { r with attempt := r.attempt + 1, inFlight := true, torn := false, got := [] }
    placePart .phase2 (s.recordWord r.instr r1.got.length) none
      { setCap { s.cap with lastWasPhase2 := true } s with load := .phase2 r1 }
  | _ => s

/-- The Capture Unit places its next part read when it has none in the queue or on the port, the two kinds
alternately when both have a read to place (R16, R73). -/
def pumpCapture (s : State) : State :=
  let s1 := drainGroupless s.cap.fetchQueue.length s
  if s1.outstanding (fun p => p == .fetch || p == .phase2) then s1
  else match s1.fetchWants, s1.phase2Wants with
    | true, true => if s1.cap.lastWasPhase2 then placeFetch s1 else placePhase2 s1
    | true, false => placeFetch s1
    | false, true => placePhase2 s1
    | false, false => s1

/-! ### Handed words during phase 2 (R58) -/

/-- How a handed word of an instrument is dealt with. -/
inductive RecordStanding where
  /-- the instrument has been read, or LOAD is not in phase 2 -/
  | read
  /-- unread, with no attempt in flight -/
  | unread
  /-- its phase-2 attempt is in flight -/
  | inFlight
deriving DecidableEq, Repr

/-- The standing of an instrument (R58). -/
def State.standing (s : State) (i : Nat) : RecordStanding :=
  match s.load with
  | .phase2 r => if i < r.instr then .read else if i = r.instr ∧ r.inFlight then .inFlight else .unread
  | _ => .read

/-- The attempt in flight becomes torn (R58). -/
def tearPhase2 (s : State) : State :=
  match s.load with
  | .phase2 r => { s with load := .phase2 { r with torn := true } }
  | _ => s

/-- A handed word of an instrument, by its standing (R58). -/
def byStanding (i : Nat) (take : State → State) (s : State) : State :=
  match s.standing i with
  | .read => take s
  | .unread => s
  | .inFlight => tearPhase2 s

/-! ### Field writes (R65 to R67, R75) -/

/-- The staging slot that an instrument holds. -/
def CaptureUnit.slot (c : CaptureUnit) (i : Nat) : Option StagingSlot := c.staging.find? (fun t => t.instr == i)

/-- A word goes into a slot. -/
def StagingSlot.write (t : StagingSlot) (n : Fin 7) (w : Word) : StagingSlot := { t with values := t.values.set n (some w) }

/-- The written mask as bits, bit n for field word n (para 10.3). -/
def StagingSlot.mask (t : StagingSlot) : Nat := (all7.map (fun n => bitOf t.values[n].isSome n.val)).sum

/-- A field word is staged, by the table of R67. -/
def stageWord (i : Nat) (n : Fin 7) (w : Word) (s : State) : State :=
  match s.cap.slot i, s.instrument? i with
  | some _, _ =>
    setCap { s.cap with staging := s.cap.staging.map (fun t => if t.instr = i then t.write n w else t) } s
  | none, some r =>
    if r.fetchOnCommit then s
    else if s.cap.staging.length < 16 then
      setCap { s.cap with staging := s.cap.staging ++ [⟨i, s.ctl.timeBase, noValues.set n (some w)⟩] } s
    else setInstrument i { r with fetchOnCommit := true } s
  | none, none => s

/-- The attempt in progress at the head is torn when it is instrument `i`'s (R75). -/
def tearFetch (i : Nat) (s : State) : State :=
  match s.cap.attempt, s.cap.fetchQueue with
  | some _, e :: rest => if e.instr = i then setCap { s.cap with fetchQueue := { e with torn := true } :: rest } s else s
  | _, _ => s

/-- A field write of a read instrument (R67, R75). -/
def takeField (i : Nat) (n : Fin 7) (w : Word) (s : State) : State := stageWord i n w (tearFetch i s)

/-- FIELD_WRITE (R67). -/
def execFieldWrite (s : State) : Host.Outcome State Fault Refusal :=
  answer
    (onCaptureWord (fun n => decide (n < 7))
      (fun i n w s => if h : n < 7 then byStanding i (takeField i ⟨n, h⟩ w) s else s) s)

/-! ### Commits (R69 to R71, R78) -/

/-- Both flags of a pair are carried (R70). -/
def CommitFlags.illegal (c : CommitFlags) : Bool := (c.halt && c.resume) || (c.fastOn && c.fastOff)

/-- The flags left after the check of R70: a pair that is carried whole is dropped. -/
def CommitFlags.legal (c : CommitFlags) : CommitFlags :=
  { c with
    halt := c.halt && !c.resume
    resume := c.resume && !c.halt
    fastOn := c.fastOn && !c.fastOff
    fastOff := c.fastOff && !c.fastOn }

/-- The flags of an entry joined with a new commit's, the new commit's flag being kept of a pair (R78). -/
def CommitFlags.merge (old new : CommitFlags) : CommitFlags :=
  { trade := old.trade || new.trade
    quote := old.quote || new.quote
    halt := new.halt || (old.halt && !new.resume)
    resume := new.resume || (old.resume && !new.halt)
    fastOn := new.fastOn || (old.fastOn && !new.fastOff)
    fastOff := new.fastOff || (old.fastOff && !new.fastOn) }

/-- Every group that the commit names is complete in the values (R71). -/
def groupsComplete (c : CommitFlags) (v : FieldValues) : Bool := (fetchPlan c).all (fun n => v[n].isSome)

/-- A commit is merged into its instrument's entry (R78); `head` when that entry is at the head with an attempt in
progress. -/
def FetchEntry.mergeCommit (e : FetchEntry) (c : CommitFlags) (seq : BitVec 12) (inProgress : Bool) : FetchEntry :=
  { e with flags := e.flags.merge c, seq := seq, attempt := 0, torn := e.torn || inProgress }

/-- The queue with a commit merged into the entry of its instrument; `inProgress` speaks of the head alone. -/
def mergeInto (i : Nat) (c : CommitFlags) (seq : BitVec 12) (inProgress : Bool) : List FetchEntry → List FetchEntry
  | [] => []
  | e :: rest =>
    if e.instr = i then e.mergeCommit c seq inProgress :: rest else e :: mergeInto i c seq false rest

/-- An accepted commit, its flags checked, is settled (R71, R78): merged into its instrument's entry where there is
one (assumption 9, DEDUCED), applied at once when it needs no values or staging holds them all, and sent to the Fetch
Queue otherwise. Its slot is freed and fetch-on-commit cleared in every case. -/
def settleCommit (i : Nat) (c : CommitFlags) (seq : BitVec 12) (s : State) : State :=
  match s.instrument? i with
  | none => s
  | some r =>
    let v := match s.cap.slot i with
      | none => noValues
      | some t => t.values
    let s1 :=
      setInstrument i { r with fetchOnCommit := false }
        (setCap { s.cap with staging := s.cap.staging.filter (fun t => t.instr != i) } s)
    if s.cap.fetchQueue.any (fun e => e.instr == i) then
      setCap { s1.cap with fetchQueue := mergeInto i c seq s1.cap.attempt.isSome s1.cap.fetchQueue } s1
    else if fetchPlan c = [] ∨ (r.fetchOnCommit = false ∧ groupsComplete c v = true) then
      applyCommit i c seq s.ctl.timeBase v s1
    else
      setCap { s1.cap with fetchQueue := s1.cap.fetchQueue ++ [⟨i, c, seq, s.ctl.timeBase, 0, false⟩] } s1

/-- An accepted commit takes its sequence, has its flags checked, and is settled (R69, R70). -/
def acceptCommit (i : Nat) (w : Word) (r : Instrument) (s : State) : State :=
  let c := commitFlags w
  let s1 := setInstrument i { r with lastSeq := commitSeq w } s
  let s2 :=
    if c.illegal then postFault .illegalFlags (.instrument i) [w.toNat, (commitSeq w).toNat] s1 else s1
  settleCommit i c.legal (commitSeq w) s2

/-- A commit write of a read instrument: a duplicate is discarded, a gap is posted, and any but a duplicate is
accepted (R69). -/
def takeCommit (i : Nat) (w : Word) (s : State) : State :=
  match s.instrument? i with
  | none => s
  | some r =>
    if commitSeq w = r.lastSeq then s
    else if commitSeq w = r.lastSeq + 1 then acceptCommit i w r s
    else
      acceptCommit i w r
        (postFault .sequenceGap (.instrument i) [(r.lastSeq + 1).toNat, (commitSeq w).toNat] s)

/-- COMMIT_WRITE (R69). -/
def execCommitWrite (s : State) : Host.Outcome State Fault Refusal :=
  answer (onCaptureWord (· == 7) (fun i _ w s => pumpCapture (byStanding i (takeCommit i w) s)) s)

/-- STALE_STAGING (R68): a slot held for 2 s is freed, and STALE STAGING posted. During a reset it does nothing (assumption
36, DESIGN CHOICE). -/
def execStaleStaging (i : Nat) (s : State) : Host.Outcome State Fault Refusal :=
  answer
    (match s.cap.slot i with
     | none => s
     | some t =>
       if !s.rst.inReset && decide (2000 ≤ since s t.openTime) then
         postFault .staleStaging (.instrument i) [t.mask, t.openTime.toNat]
           (setCap { s.cap with staging := s.cap.staging.filter (fun t => t.instr != i) } s)
       else s)

/-! ### Part reads (R17) -/

/-- The word that a part read returns: MEMORY PARITY is posted when its stored parity is bad, with the source's
code, and the port becomes free. -/
def partReturn (p : PartCycle) (source : Nat) (s : State) : State :=
  let r := s.mem.ram.read p.addr
  freePort
    (if wordGood r then s
     else postFault .memoryParity (.address p.addr) [r.word.toNat, badLanes r, source] s)

/-- A part read on the port that one of some sources placed is served. Its word is discarded when a reset or a LOAD
has made it void (R18, R53); otherwise `take` is given the cycle and the word with its mark, after MEMORY PARITY has
been posted where it is due. -/
def onPartRead (which : PartSource → Bool) (source : Nat) (discarded : State → State)
    (take : Word → Bool → State → State) (s : State) : State :=
  match s.mem.port with
  | some (.part p discard) =>
    if which p.source then
      let r := s.mem.ram.read p.addr
      if discard then discarded (partReturn p source s)
      else take r.word (wordGood r) (partReturn p source s)
    else s
  | _ => s

/-! ### The return of a fetch read (R74 to R79) -/

/-- The values that an attempt has read: a word marked as a parity failure counts as unread (R79). -/
def attemptValues (plan : List (Fin 7)) (got : List (Word × Bool)) : FieldValues :=
  (plan.zip got).foldl (fun v x => if x.2.2 then v.set x.1 (some x.2.1) else v) noValues

/-- The groups that an entry names, as a code (para 10.3). -/
def groupsCode (c : CommitFlags) : Nat := bitOf c.trade 0 + bitOf c.quote 1

/-- The last word of an attempt has returned: a sound one applies its commit, a torn one is repeated, and a third
torn one abandons the groups (R74, R76, R77). -/
def endAttempt (e : FetchEntry) (rest : List FetchEntry) (plan : List (Fin 7)) (got : List (Word × Bool))
    (s : State) : State :=
  let s1 := setCap { s.cap with attempt := none } s
  if !e.torn then
    applyCommit e.instr e.flags e.seq e.time (attemptValues plan got) (setCap { s1.cap with fetchQueue := rest } s1)
  else if 3 ≤ e.attempt then
    applyCommit e.instr e.flags e.seq e.time noValues
      (postFault .tornRecord (.instrument e.instr) [3, 1, groupsCode e.flags, e.seq.toNat]
        (setCap { s1.cap with fetchQueue := rest } s1))
  else s1

/-- A word of the attempt in progress has returned. -/
def takeFetched (w : Word) (good : Bool) (s : State) : State :=
  match s.cap.attempt, s.cap.fetchQueue with
  | some a, e :: rest =>
    let got := a.got ++ [(w, good)]
    if got.length < a.plan.length then setCap { s.cap with attempt := some { a with got := got } } s
    else endAttempt e rest a.plan got s
  | _, _ => s

/-- FETCH_READ_RETURN (R74): source CAPTURE is code 2. -/
def execFetchReadReturn (s : State) : Host.Outcome State Fault Refusal :=
  answer (onPartRead (· == .fetch) 2 pumpCapture (fun w good s => pumpCapture (takeFetched w good s)) s)

end Sys2Proof.Machine
end

