-- ==== Sys2Proof/Machine/Load.lean ====
section
/-! DEFINITION. LOAD and CLOSE (chapter 3): the clearing, the directory and its checks, the indexes, phase 2 and the
end of LOAD. -/

namespace Sys2Proof.Machine

open Sys2Proof

/-! ### The clearing (R53) -/

/-- Whether a part cycle is one of the Capture Unit's. -/
def captureSource (p : PartSource) : Bool := p == .fetch || p == .phase2

/-- The Capture Unit's cycles are withdrawn from the queue, and one on the port has its word discarded (R53). -/
def MemoryPath.withdrawCapture (m : MemoryPath) : MemoryPath :=
  { m with
    parts := m.parts.filter (fun p => !captureSource p.source)
    port :=
      match m.port with
      | some (.part p discard) => some (.part p (discard || captureSource p.source))
      | other => other }

/-- Words handed to the Capture Unit and not yet taken are lost with it; the Control Unit's stay. -/
def keepControl (hs : List Handed) : List Handed :=
  hs.filter (fun h => match h with
    | .control _ _ => true
    | .capture _ _ _ => false)

/-- The clearing that opens phase 1, with the words it posts (R23, R53, R121, R125, R144, R161, R162). No rule gives their
order: part state, module table, line table, ticker state, drive state (assumption 18, DESIGN CHOICE). -/
def clearForLoad (s : State) : State :=
  let s1 : State :=
    { s with
      mem := s.mem.withdrawCapture
      handed := keepControl s.handed
      tbl := InstrumentTable.empty
      cap := CaptureUnit.empty
      links := Vector.ofFn (fun k => s.links[k].loadTaken)
      tape := s.tape.loadTaken
      lines := Vector.replicate 16 Line.off }
  driveSettle s (post .driveState (postAll (moduleTable ++ lineTable ++ [.tickerState]) (setPartState .loading s1)))

/-- Every ending of LOAD by a refusal: the table is left empty, the part state becomes UNLOADED, and the command
ends (R23, R55). -/
def loadRefused (code : ResultCode) (detail : Nat) (s : State) : State :=
  endRefused code detail
    (setPartState .unloaded { s with tbl := InstrumentTable.empty, load := .idle })

/-- Place the next directory read, when its word exists; a read of nonexistent memory is not made, and comes back
marked so (R1, R54). None is placed while a directory read from before a reset is still on the port (R16, R18;
assumption 19, DEDUCED). -/
def placeDirectory (d : DirectoryRead) (s : State) : State :=
  if d.base + d.next < s.mem.installed.words ∧ s.outstanding (· == .directory) = false then
    placePart .directory (d.base + d.next) none s
  else s

/-- A directory read that a reset cut has left the port: phase 1 of a LOAD taken since then places the read that it
held back (R16, R18; assumption 19, DEDUCED). -/
def pumpDirectory (s : State) : State :=
  match s.load with
  | .phase1 d => placeDirectory d s
  | _ => s

/-- Phase 1 goes on with the next directory word. -/
def readOn (d : DirectoryRead) (s : State) : State := placeDirectory d { s with load := .phase1 d }

/-- LOAD: the clearing, then the check of the directory address, then the first read (R53). -/
def loadTaken (s : State) : State :=
  let s1 := clearForLoad s
  match addr20 (s.param 0) (s.param 1) with
  | none => loadRefused .badParameter 0 s1
  | some base => readOn ⟨base, 0, [], [], []⟩ s1

/-- LOAD (R53). -/
def execLoad (s : State) : Host.Outcome State Fault Refusal := answer (onCommand (· == 1) loadTaken s)

/-! ### The checks of phase 1 (R47, R48, R50, R52, R54) -/

/-- The check that is due when header word `n` has been read, `ws` being the words up to it (R54). -/
def headerCheck (ws : List Word) (n : Nat) : Option (ResultCode × Nat) :=
  if n = 0 then
    if 1 ≤ headerCount ws ∧ headerCount ws ≤ 512 then none else some (.badCount, 0)
  else if 16 ≤ n ∧ n < 48 ∧ n % 4 = 2 then
    if linkBlockGood ws ((n - 16) / 4) then none else some (.badLinkBlock, (n - 16) / 4)
  else if n = 50 then
    if governorBlockGood ws then none else some (.badGovernorBlock, 0)
  else if n = 60 then
    if tickerBlockGood ws then none else some (.badTickerBlock, 0)
  else if 64 ≤ n ∧ (n - 64) % 28 = 27 then
    (lineBlockCheck ws ((n - 64) / 28)).map (fun c => (c, (n - 64) / 28))
  else none

/-- Board slots that name no home position or no logical module at all (R52, check 7). -/
def slotOutOfRange (header : List Word) (m : Nat) : Bool :=
  decide (127 < m) || decide (headerChain header (m / 16) ≤ m % 16)

/-- Board slots that name a spare position (R52, check 8). -/
def slotSpare (header : List Word) (m : Nat) : Bool :=
  decide (headerChain header (m / 16) - headerSpares header (m / 16) ≤ m % 16)

/-- The board slots of a record. -/
def Instrument.slots (r : Instrument) : List Nat := [r.slot1, r.slot2].filterMap id

/-- A logical module that both slots name, or that an earlier entry names (R52, check 9). -/
def slotTwice (built : List Instrument) (slots : List Nat) : Bool :=
  (match slots with
   | [a, b] => a == b
   | _ => false) ||
    slots.any (fun m => built.any (fun r => r.slots.contains m))

/-- The checks of one entry, in the order of R52. -/
def entryCheck (size : MemSize) (header : List Word) (built : List Instrument) (e : List Word) : Option ResultCode :=
  if !symbolGood (entryChars e) then some .badSymbol
  else if built.any (fun r => r.symbol == entrySymbol e) then some .duplicateSymbol
  else if (entryBase e).isNone then some .badFractionBase
  else if entryRecord e % 8 ≠ 0 then some .recordMisaligned
  else if controlBase size ≤ entryRecord e then some .recordInControlArea
  else if built.any (fun r => r.recordAddr == entryRecord e) then some .recordOverlap
  else if (entrySlots e).any (slotOutOfRange header) then some .moduleRange
  else if (entrySlots e).any (slotSpare header) then some .moduleSpare
  else if slotTwice built (entrySlots e) then some .moduleTwice
  else none

/-- The Instrument Record built from entry `i`, which has passed its checks (R41, R49). -/
def buildInstrument (header : List Word) (i : Nat) (e : List Word) : Instrument :=
  let b := (entryBase e).getD .quarters
  { symbol := entrySymbol e
    recordAddr := entryRecord e
    base := b
    band := entryBand e
    holdTimeout := entryTimeout e
    close := if entryClosePresent e then some (quantize b (entryClose e)) else none
    last := none
    high := none
    low := none
    lastSize := 0
    volume := 0
    tick := .none
    bid := none
    ask := none
    halted := false
    fast := false
    offIncrement := false
    lastSeq := 0
    slot1 := slotOf (wordAt e 12)
    slot2 := slotOf (wordAt e 13)
    eligible := entryEligible e
    watchers := all16.filter (fun l => (headerWatch header l.val).contains i)
    hold := none
    lastPrintedWhole := none
    full := false
    fetchOnCommit := false }

/-! ### The end of phase 1 (R42, R43, R45, R49, R56) -/

/-- A symbol comes before another (R42): letter by letter from the left, and the shorter first. -/
def symbolBefore : List Byte → List Byte → Bool
  | [], [] => false
  | [], _ :: _ => true
  | _ :: _, [] => false
  | a :: as, b :: bs => if a = b then symbolBefore as bs else decide (a.toNat < b.toNat)

/-- The symbol of an instrument of a list. -/
def symbolAt (rs : List Instrument) (i : Nat) : List Byte :=
  match rs[i]? with
  | none => []
  | some r => r.symbol

/-- An index enters an ascending list. -/
def symbolInsert (rs : List Instrument) (i : Nat) : List Nat → List Nat
  | [] => [i]
  | j :: rest =>
    if symbolBefore (symbolAt rs i) (symbolAt rs j) then i :: j :: rest else j :: symbolInsert rs i rest

/-- The Symbol Index (R42). -/
def buildSymbolIndex (rs : List Instrument) : List Nat :=
  (List.range rs.length).foldl (fun acc i => symbolInsert rs i acc) []

/-- The Record Index (R43). -/
def buildRecordIndex (rs : List Instrument) : List (Nat × Nat) :=
  (List.range rs.length).zip rs |>.map (fun x => (x.2.recordAddr, x.1))

/-- The quote window (R43). -/
def buildQuoteWindow (rs : List Instrument) : Option (Nat × Nat) :=
  rs.foldl (fun w r =>
    match w with
    | none => some (r.recordAddr, r.recordAddr + 7)
    | some (lo, hi) => some (min lo r.recordAddr, max hi (r.recordAddr + 7))) none

/-- The board map (R45). -/
def buildBoardMap (rs : List Instrument) : Vector (Option Nat) 128 :=
  Vector.ofFn (fun m => (List.range rs.length).find? (fun i =>
    match rs[i]? with
    | none => false
    | some r => r.slots.contains m.val))

/-- The Instrument Table that phase 1 leaves (R56). -/
def buildTable (rs : List Instrument) : InstrumentTable :=
  { instruments := rs
    symbolIndex := buildSymbolIndex rs
    recordIndex := buildRecordIndex rs
    quoteWindow := buildQuoteWindow rs
    boardMap := buildBoardMap rs
    dayNumber := 0 }

/-- Each line's watch list is filled from its block (R49, R170). -/
def fillWatchLists (header : List Word) (s : State) : State :=
  all16.foldl (fun s l => setLine l { s.lines[l] with watch := headerWatch header l.val } s) s

/-- The end of phase 1 (R56). The day number stands as the taking of LOAD left it (R46, R53). -/
def endPhase1 (header : List Word) (rs : List Instrument) (s : State) : State :=
  pumpCapture
    (fillWatchLists header
      { s with
        tbl := { buildTable rs with dayNumber := s.tbl.dayNumber }
        cap := { s.cap with active := true }
        load := .phase2 ⟨header, 0, 0, false, false, []⟩ })

/-! ### The return of a directory read (R54, R55) -/

/-- The instrument index of the entry being read, or 0 in the header (R55). -/
def DirectoryRead.detail (d : DirectoryRead) : Nat := d.built.length

/-- A header word has been read. -/
def takeHeaderWord (d : DirectoryRead) (w : Word) (s : State) : State :=
  let header := d.header ++ [w]
  match headerCheck header d.next with
  | some (code, detail) => loadRefused code detail s
  | none => readOn { d with header := header, next := d.next + 1 } s

/-- A word of an entry has been read; at the sixteenth the entry is checked and its record built. -/
def takeEntryWord (d : DirectoryRead) (w : Word) (s : State) : State :=
  let e := d.entry ++ [w]
  if e.length < 16 then readOn { d with entry := e, next := d.next + 1 } s
  else
    match entryCheck s.mem.installed d.header d.built e with
    | some code => loadRefused code d.detail s
    | none =>
      let built := d.built ++ [buildInstrument d.header d.built.length e]
      if built.length < headerCount d.header then
        readOn { d with entry := [], built := built, next := d.next + 1 } s
      else endPhase1 d.header built s

/-- A directory word has come back with its parity mark (R54, R55). -/
def takeDirectoryWord (w : Word) (good : Bool) (s : State) : State :=
  match s.load with
  | .phase1 d =>
    if !good then loadRefused .directoryParity d.detail s
    else if d.next < 512 then takeHeaderWord d w s
    else takeEntryWord d w s
  | _ => s

/-- The directory word that phase 1 wants next does not exist (R55). -/
def State.directoryBeyond (s : State) : Option DirectoryRead :=
  match s.load with
  | .phase1 d => if s.mem.installed.words ≤ d.base + d.next then some d else none
  | _ => none

/-- DIRECTORY_READ_RETURN (R54): source INSTRUMENT TABLE is code 3. A read of nonexistent memory comes back without
the RAM port (R1). -/
def execDirectoryReadReturn (s : State) : Host.Outcome State Fault Refusal :=
  answer
    (match s.directoryBeyond with
     | some d => if s.rst.inReset then s else loadRefused .directoryBeyondMemory d.detail s
     | none => onPartRead (· == .directory) 3 pumpDirectory takeDirectoryWord s)

/-! ### Phase 2 (R57, R59) -/

/-- The word numbered `n` of an attempt, when it came back unmarked. -/
def readWord (got : List (Word × Bool)) (n : Nat) : Option Word :=
  match got[n]? with
  | some (w, true) => some w
  | _ => none

/-- A price of two words, when both came back unmarked; 0 units is no price (R57, R59). -/
def readPrice (got : List (Word × Bool)) (n : Nat) : Option Nat :=
  match readWord got n, readWord got (n + 1) with
  | some h, some l => if pairValue h l = 0 then none else some (pairValue h l)
  | _, _ => none

/-- The flags of word 7, none where it came back marked (R59, R184). -/
def readFlags (got : List (Word × Bool)) : CommitFlags :=
  match readWord got 7 with
  | none => ⟨false, false, false, false, false, false⟩
  | some w => commitFlags w

/-- The Instrument Record after its phase-2 read (R57, R59). -/
def setFields (got : List (Word × Bool)) (r : Instrument) : Instrument :=
  let c := readFlags got
  { r with
    last := (readPrice got 0).map (quantize r.base)
    offIncrement :=
      match readPrice got 0 with
      | none => false
      | some u => needsRounding r.base u
    bid := (readPrice got 3).map (quantize r.base)
    ask := (readPrice got 5).map (quantize r.base)
    lastSeq := match readWord got 7 with
      | none => 0
      | some w => commitSeq w
    halted := c.halt && !c.resume
    fast := c.fastOn && !c.fastOff }

/-- The links at the end of LOAD begin running (R126). -/
def linksUp (header : List Word) (s : State) : State :=
  { s with links := Vector.ofFn (fun k => s.linkUp header k), flashTime := headerFlash header }

/-- The lines at the end of LOAD (R61, R162). -/
def linesUp (header : List Word) (s : State) : State :=
  { s with lines := Vector.ofFn (fun l => lineUp header s.ctl.timeBase l s.lines[l]) }

/-- The governor takes its block; the stage is kept (R138). -/
def Governor.takeBlock (g : Governor) (header : List Word) : Governor :=
  { g with
    limitWord := wordAt header 48
    x := (wordAt header 49).toNat
    y := (wordAt header 50).toNat
    window := []
    count := 0 }

/-- The end of LOAD (R23, R61, R126, R138, R161): the units take up the floor, the part state becomes RUNNING, and the
command ends DONE. R23 posts the part state before the command status; that the ticker state, the module table and the
line table are posted before these two, and the words of the Drive Protection Unit after, is assumption 18 (DESIGN
CHOICE). -/
def loadEnd (header : List Word) (s : State) : State :=
  let s1 := linesUp header (linksUp header { s with load := .idle, tbl := { s.tbl with dayNumber := 0 } })
  let s2 := updateTape (s1.tape.loadDone (headerTicker header)) s1
  let s3 := setDrive { s2.drive with governor := s2.drive.governor.takeBlock header } s2
  chooseAll (driveSettle s (endDone (setPartState .running (postAll (moduleTable ++ lineTable) s3))))

/-- An instrument is marked read, and the next is begun, or LOAD ends (R57, R61). -/
def nextInstrument (r : RecordRead) (s : State) : State :=
  if r.instr + 1 < s.tbl.instruments.length then
    { s with load := .phase2 { r with instr := r.instr + 1, attempt := 0, inFlight := false, torn := false, got := [] } }
  else loadEnd r.header s

/-- The eighth word of an attempt has returned (R57, R59): a torn one is repeated, but for the third, which sets the
fields and posts TORN RECORD with phase LOAD. -/
def endRecordRead (r : RecordRead) (got : List (Word × Bool)) (s : State) : State :=
  if r.torn && decide (r.attempt < 3) then
    { s with load := .phase2 { r with inFlight := false, torn := false, got := [] } }
  else
    let s1 :=
      match s.instrument? r.instr with
      | none => s
      | some i => setInstrument r.instr (setFields got i) s
    let s2 :=
      if r.torn then
        postFault .tornRecord (.instrument r.instr)
          [3, 0, 3, (commitSeq ((got.map Prod.fst).getD 7 0)).toNat] s1
      else s1
    nextInstrument r s2

/-- A word of the attempt in flight has returned. -/
def takeRecordWord (w : Word) (good : Bool) (s : State) : State :=
  match s.load with
  | .phase2 r =>
    let got := r.got ++ [(w, good)]
    if got.length < 8 then { s with load := .phase2 { r with got := got } } else endRecordRead r got s
  | _ => s

/-- PHASE_2_READ_RETURN (R57): source CAPTURE is code 2. -/
def execPhase2ReadReturn (s : State) : Host.Outcome State Fault Refusal :=
  answer (onPartRead (· == .phase2) 2 pumpCapture (fun w good s => pumpCapture (takeRecordWord w good s)) s)

/-! ### CLOSE (R63) -/

/-- The lowest instrument index that holds a hold. -/
def firstHold (rs : List Instrument) : Option Nat :=
  (List.range rs.length).find? (fun i =>
    match rs[i]? with
    | none => false
    | some r => r.hold.isSome)

/-- A record after CLOSE. -/
def Instrument.closeDay (r : Instrument) : Instrument :=
  { r with
    close := match r.last with
      | none => r.close
      | some l => some l
    high := none
    low := none
    volume := 0 }

/-- A change notice for every instrument (R63): every board is recomputed, and then each free link chooses once
(assumption 33, DESIGN CHOICE). -/
def noticeAll (s : State) : State :=
  chooseAll (recomputeBoards (fun _ => true)
    ((List.range s.tbl.instruments.length).foldl (fun s i => noticeLines i s) s))

/-- CLOSE is decided at once (R46, R63). -/
def closeDay (s : State) : State :=
  match firstHold s.tbl.instruments with
  | some i => endRefused .heldPrices i s
  | none =>
    endDone
      (noticeAll
        (post .partState
          { s with
            tbl :=
              { s.tbl with
                instruments := s.tbl.instruments.map Instrument.closeDay
                dayNumber := s.tbl.dayNumber + 1 } }))

/-- CLOSE (R63). -/
def execClose (s : State) : Host.Outcome State Fault Refusal := answer (onCommand (· == 2) closeDay s)

end Sys2Proof.Machine
end

