-- ==== Sys2Proof/Machine/MemoryPath.lean ====
section
/-! DEFINITION. The Memory Path (chapter 1): host cycles, refresh, guard windows, the parity trap, and the part writes
on the RAM port. -/

namespace Sys2Proof.Machine

open Sys2Proof

/-! ### Host cycles on arrival (R2, R3, R4, R8, R9, R12) -/

/-- Host cycles are ended with BERR while the RESET input is held (R18), and from the beginning of a power-on or
supply-low reset until it ends (R19, R20). -/
def State.hostShut (s : State) : Bool := s.rst.inReset && (s.rst.inputHeld || s.rst.powerOrSupply)

/-- Address parity is odd over the 20 address lines and the read/write line (R3). -/
def addressGood (c : BusCycle) : Bool := oddOnes c.addr ^^ c.write ^^ c.addrParity

/-- Two lanes, or strobes, as a code (para 10.3). -/
def lanesCode (upper lower : Bool) : Nat := bitOf lower 0 + bitOf upper 1

/-- The strobed lanes whose data parity is wrong (R4). -/
def failedLanes (c : BusCycle) : Nat :=
  lanesCode (c.upper && !byteParityGood (upperByte c.data) c.upperParity)
    (c.lower && !byteParityGood (lowerByte c.data) c.lowerParity)

/-- The strobes of a cycle as a code. -/
def strobesCode (c : BusCycle) : Nat := lanesCode c.upper c.lower

/-- The trap matches an address in every bit where the mask holds a 1 (R12). -/
def Trap.fires (t : Trap) (a : Addr) : Bool := t.armed && (a ^^^ t.compare) &&& t.mask == 0

/-- A guard window is active and covers an address (R9). -/
def GuardWindow.covers (g : GuardWindow) (a : Addr) : Bool :=
  g.mode != .off && decide (g.base.toNat ≤ a.toNat ∧ a.toNat ≤ g.limit.toNat)

/-- The lowest-numbered active window that covers an address (R9). -/
def MemoryPath.guardFor (m : MemoryPath) (a : Addr) : Option (Fin 4) :=
  ([0, 1, 2, 3] : List (Fin 4)).find? (fun n => m.guards[n].covers a)

/-- The address lies in the part-owned region (R8). -/
def State.ownedAddress (s : State) (a : Addr) : Bool :=
  match controlOffset s.mem.installed a.toNat with
  | none => false
  | some off => ownedOffset off

/-- A cycle that has passed its checks waits for the RAM port; a write with neither strobe is ended with ACK and
makes no RAM access (R4). -/
def admitHost (c : BusCycle) (s : State) : State :=
  if c.write && !c.upper && !c.lower then endHost .ack none s
  else { s with mem := { s.mem with waiting := some ⟨c.addr, c.write, c.upper, c.lower, c.data⟩ } }

/-- A cycle is ended with BERR and its fault posted. -/
def refuseHost (k : FaultKind) (c : BusCycle) (details : List Nat) (s : State) : State :=
  postFault k (.address c.addr.toNat) details (endHost .berr none s)

/-- The trap is disarmed. -/
def disarm (s : State) : State := { s with mem := { s.mem with trap := { s.mem.trap with armed := false } } }

/-- The guard windows decide a write that has passed every earlier check (R9). -/
def guardCheck (c : BusCycle) (s : State) : State :=
  match s.mem.guardFor c.addr with
  | none => admitHost c s
  | some n =>
    if s.mem.guards[n].mode = .refuse then refuseHost .guardRefused c [c.data.toNat, strobesCode c, n.val] s
    else
      postFault .guardDropped (.address c.addr.toNat) [c.data.toNat, strobesCode c, n.val] (endHost .ack none s)

/-- The checks of a write whose address has passed, in order (R2). -/
def writeCheck (c : BusCycle) (s : State) : State :=
  if failedLanes c ≠ 0 then refuseHost .dataParity c [c.data.toNat, failedLanes c, 0] s
  else if s.mem.trap.fires c.addr then refuseHost .dataParity c [c.data.toNat, 0, 1] (disarm s)
  else if s.ownedAddress c.addr then refuseHost .ownedAreaWrite c [c.data.toNat, strobesCode c] s
  else guardCheck c s

/-- A host cycle arrives, and the first check that fails decides its ending (R2, R3). -/
def arriveHost (c : BusCycle) (s : State) : State :=
  if s.hostShut then endHost .berr none s
  else if !addressGood c then refuseHost .addressParity c [bitOf c.write 0, strobesCode c] s
  else if s.mem.installed.words ≤ c.addr.toNat then
    refuseHost .nonexistentMemory c [bitOf c.write 0, s.mem.installed.code] s
  else if c.write then writeCheck c s
  else admitHost c s

/-- HOST_CYCLE (R2). The bus carries one cycle at a time, so none arrives while one waits (R16, assumption 6, DESIGN
CHOICE). -/
def execHostCycle (c : BusCycle) (s : State) : Host.Outcome State Fault Refusal :=
  answer (if s.mem.waiting.isSome then s else arriveHost c s)

/-! ### Host cycles on the port (R5, R6, R7) -/

/-- The instrument and word number of an address, by the quote window and the Record Index (R43, R44). -/
def InstrumentTable.recordOf (t : InstrumentTable) (a : Nat) : Option (Nat × Nat) :=
  match t.quoteWindow with
  | none => none
  | some (lo, hi) =>
    if lo ≤ a ∧ a ≤ hi then
      (t.recordIndex.find? (fun e => decide (e.1 ≤ a ∧ a < e.1 + 8))).map (fun e => (e.2, a - e.1))
    else none

/-- The Record Index is in force from the start of phase 2 (R44, R56). -/
def State.indexInForce (s : State) : Bool :=
  match s.load with
  | .phase2 _ => true
  | .phase1 _ => false
  | .idle => s.ctl.partState == .running

/-- The offsets whose writes the Control Unit takes (R21). -/
def takenOffset (off : Nat) : Bool := decide (off ≤ 6) || off == 0x10 || off == 0x11 || off == 0x12

/-- The Write Monitor sorts a handed write (R7, R21, R44). A write made during a reset is not handed over. -/
def handOver (a : Nat) (w : Word) (s : State) : State :=
  if s.rst.inReset then s
  else match controlOffset s.mem.installed a with
    | some off => if takenOffset off then { s with handed := s.handed ++ [.control off w] } else s
    | none =>
      if s.indexInForce then
        match s.tbl.recordOf a with
        | some (i, n) => { s with handed := s.handed ++ [.capture i n w] }
        | none => s
      else s

/-- A host read is served (R5). One that a reset cut is ended with BERR (R18); that it posts nothing where the stored
parity is bad, even after the reset has ended, is assumption 30 (DESIGN CHOICE). -/
def serveRead (c : HostCycle) (cut : Bool) (s : State) : State :=
  let r := s.mem.ram.read c.addr.toNat
  let s1 := freePort s
  if cut then endHost .berr (some r) s1
  else if wordGood r then endHost .ack (some r) s1
  else
    postFault .memoryParity (.address c.addr.toNat) [r.word.toNat, badLanes r, 0] (endHost .berr (some r) s1)

/-- HOST_READ_SERVED (R5). -/
def execHostReadServed (s : State) : Host.Outcome State Fault Refusal :=
  answer
    (match s.mem.port with
     | some (.host c cut) => if c.write then s else serveRead c cut s
     | _ => s)

/-- The word that a write leaves: the strobed lanes replaced (R6). -/
def mergeLanes (c : HostCycle) (old : Word) : Word :=
  let hi := if c.upper then upperByte c.data else upperByte old
  let lo := if c.lower then lowerByte c.data else lowerByte old
  hi ++ lo

/-- The unstrobed lanes whose stored parity is bad (R6). -/
def HostCycle.keptBadLanes (c : HostCycle) (r : RamWord) : Nat :=
  lanesCode (!c.upper && !upperGood r) (!c.lower && !lowerGood r)

/-- A host write is served (R6): a one-strobe write is a read-modify-write, refused when the unstrobed byte's stored
parity is bad. One that a reset cut is made, ended with BERR, and not handed over (R18). One that a reset cut and that
finds bad stored parity is not made and ends with BERR; that it posts no MEMORY PARITY, even after the reset has ended, is
assumption 30 (DESIGN CHOICE). -/
def serveWrite (c : HostCycle) (cut : Bool) (s : State) : State :=
  let a := c.addr.toNat
  let r := s.mem.ram.read a
  let bad := c.keptBadLanes r
  let s1 := freePort s
  if bad ≠ 0 then
    if cut then endHost .berr none s1
    else postFault .memoryParity (.address a) [r.word.toNat, bad, 1] (endHost .berr none s1)
  else
    let w := mergeLanes c r.word
    let s2 := writeRam a w s1
    if cut then endHost .berr none s2 else handOver a w (endHost .ack none s2)

/-- HOST_WRITE_SERVED (R6). -/
def execHostWriteServed (s : State) : Host.Outcome State Fault Refusal :=
  answer
    (match s.mem.port with
     | some (.host c cut) => if c.write then serveWrite c cut s else s
     | _ => s)

/-! ### Refresh (R14, R15) -/

/-- Refresh's state is changed. -/
def setRefresh (r : Refresh) (s : State) : State := { s with mem := { s.mem with refresh := r } }

/-- REFRESH_REQUEST (R14): the request is counted up to 8, and the next interval begins at the length in force. -/
def execRefreshRequest (s : State) : Host.Outcome State Fault Refusal :=
  let r := s.mem.refresh
  answer
    (if r.running then
      setRefresh
        { r with postponed := min 8 (r.postponed + 1), interval := if s.drive.warm.taken then .halved else .normal } s
     else s)

/-- The row after a row, in the fixed round (R15, assumption 4, DESIGN CHOICE). -/
def nextRow (n : Nat) : Nat := if Config.refreshRowsLessOne ≤ n then 0 else n + 1

/-- REFRESH_CYCLE (R15): the next row has been refreshed, and the postponed count is lowered. -/
def execRefreshCycle (s : State) : Host.Outcome State Fault Refusal :=
  let r := s.mem.refresh
  answer
    (match s.mem.port with
     | some .refresh =>
       freePort (setRefresh { r with nextRow := nextRow r.nextRow, postponed := r.postponed - 1 } s)
     | _ => s)

/-! ### Write-backs (R29, R32, R34) -/

/-- The write-back's state is changed. -/
def setActive (a : Option (WbEntry × Nat)) (s : State) : State :=
  { s with ctl := { s.ctl with writeBack := { s.ctl.writeBack with active := a } } }

/-- A record entry whose last word has been written is completed (R32, R34, R175). -/
def completeEntry (e : WbEntry) (s : State) : State :=
  match e with
  | .table _ _ => s
  | .faultRecord _ _ =>
    post .faultStatus (setLog { s.ctl.log with writeIndex := s.ctl.log.writeIndex + 1 } s)
  | .inboxSlot _ line seq _ =>
    reportWritten line seq
      (post .inboxStatus
        { s with ctl := { s.ctl with inbox := { s.ctl.inbox with writeIndex := s.ctl.inbox.writeIndex + 1 } } })

/-- The word of the entry being written has been written: the next word is placed, or the entry is completed and
leaves the queue (R29). -/
def writeBackNext (s : State) : State :=
  match s.ctl.writeBack.active with
  | none => pumpWriteBack s
  | some (e, n) =>
    if n + 1 < e.words.length then placeWriteBack e (n + 1) (setActive (some (e, n + 1)) s)
    else pumpWriteBack (completeEntry e (setActive none s))

/-- WRITE_BACK_WRITTEN (R29). A write-back that was on the port when a reset began stands in memory and belongs to
no entry (R18, R29). -/
def execWriteBackWritten (s : State) : Host.Outcome State Fault Refusal :=
  answer
    (match s.mem.port with
     | some (.part p discard) =>
       match p.source, p.write with
       | .writeBack, some w =>
         let s1 := freePort (writeRam p.addr w s)
         if discard then pumpWriteBack s1 else writeBackNext s1
       | _, _ => s
     | _ => s)

/-! ### The clearing of the part-owned region (R19, R20) -/

/-- Place the next clearing write, when the region is still to be cleared and none is waiting or on the port. -/
def placeClear (s : State) : State :=
  if s.rst.clearingDue && !s.outstanding (· == .regionClear) then
    placePart .regionClear (s.mem.ram.clearedFrom + s.mem.ram.clearedCount) (some 0) s
  else s

/-- The clearing write has been made: the region is done at its last word, and otherwise the next is placed. -/
def clearNext (s : State) : State :=
  let s1 := freePort { s with mem := { s.mem with ram := s.mem.ram.clearNext } }
  if regionWords ≤ s1.mem.ram.clearedCount then { s1 with rst := { s1.rst with clearingDue := false } }
  else placeClear s1

/-- REGION_CLEAR_WRITTEN (R19). -/
def execRegionClearWritten (s : State) : Host.Outcome State Fault Refusal :=
  answer
    (match s.mem.port with
     | some (.part p _) => if p.source = .regionClear ∧ s.rst.clearingDue = true then clearNext s else s
     | _ => s)

/-! ### SET GUARD, LOCK GUARDS, ARM TRAP (R10, R11, R13) -/

/-- A guard window is replaced. -/
def setWindow (n : Fin 4) (g : GuardWindow) (s : State) : State :=
  { s with mem := { s.mem with guards := s.mem.guards.set n g } }

/-- The parameters of SET GUARD, when they are in range (R10). -/
def State.guardParams (s : State) : Option (Fin 4 × GuardWindow) :=
  if h : (s.param 0).toNat < 4 then
    match addr20 (s.param 1) (s.param 2), addr20 (s.param 3) (s.param 4), guardMode (s.param 5) with
    | some b, some l, some m => some (⟨(s.param 0).toNat, h⟩, ⟨BitVec.ofNat 20 b, BitVec.ofNat 20 l, m⟩)
    | _, _, _ => none
  else none

/-- SET GUARD is decided (R10): the lock before the parameters. -/
def setGuardTaken (s : State) : State :=
  if s.mem.guardLock then endRefused .locked 0 s
  else match s.guardParams with
    | none => endRefused .badParameter 0 s
    | some (n, g) => endDone (setWindow n g s)

/-- SET_GUARD (R10). -/
def execSetGuard (s : State) : Host.Outcome State Fault Refusal := answer (onCommand (· == 13) setGuardTaken s)

/-- LOCK GUARDS is carried out (R11). -/
def lockGuardsTaken (s : State) : State := endDone { s with mem := { s.mem with guardLock := true } }

/-- LOCK_GUARDS (R11). -/
def execLockGuards (s : State) : Host.Outcome State Fault Refusal := answer (onCommand (· == 14) lockGuardsTaken s)

/-- ARM TRAP is decided (R13). -/
def armTrapTaken (s : State) : State :=
  match addr20 (s.param 0) (s.param 1), addr20 (s.param 2) (s.param 3) with
  | some c, some m =>
    endDone { s with mem := { s.mem with trap := ⟨BitVec.ofNat 20 c, BitVec.ofNat 20 m, true⟩ } }
  | _, _ => endRefused .badParameter 0 s

/-- ARM_TRAP (R13). -/
def execArmTrap (s : State) : Host.Outcome State Fault Refusal := answer (onCommand (· == 15) armTrapTaken s)

end Sys2Proof.Machine
end

