-- ==== Sys2Proof/Machine/Resets.lean ====
section
/-! DEFINITION. The resets: their beginnings, the supply's return, the release of the RESET input, and their end. -/

namespace Sys2Proof.Machine

open Sys2Proof

/-! ### The beginning of a reset -/

/-- The Memory Path when a reset begins: part cycles are dropped, a waiting host cycle is ended with BERR (R18, R20; in a
power-on reset assumption 37, DESIGN CHOICE), the guards and the trap are cleared (R9, R11, R12). `port` is what becomes
of the cycle on the port. -/
def MemoryPath.beginReset (m : MemoryPath) (port : Option PortCycle) : MemoryPath :=
  { m with
    waiting := none
    parts := []
    port := port
    guards := Vector.replicate 4 GuardWindow.reset
    guardLock := false
    trap := Trap.reset
    bus := if m.waiting.isSome then some ⟨.berr, none⟩ else m.bus }

/-- What the beginning of every reset does to the blocks: the write-back queue is emptied (R29), handed writes not
yet taken are lost, LOAD, LAMP TEST and the HOT check are abandoned (R26, R62), capture becomes inactive (R64),
frames on the links and the lines are cut off (R125, R162, R181), and the ribbon port presents brightness 0 (R156). -/
def beginReset (port : Option PortCycle) (s : State) : State :=
  { s with
    mem := s.mem.beginReset port
    rst := { s.rst with inReset := true }
    ctl := { s.ctl with writeBack := ⟨none, []⟩ }
    handed := []
    load := .idle
    cap := CaptureUnit.empty
    links := Vector.ofFn (fun k => s.links[k].resetBegun)
    drive := { s.drive with lampTest := none, hotCheck := none }
    tape := { s.tape with portBrightness := 0 }
    lines := Vector.ofFn (fun n => { s.lines[n] with transmitter := [] }) }

/-- The cycle on the port when an external reset begins: its access is completed, but a host cycle is then ended
with BERR, and a part cycle's result is void (R18). -/
def cutPort : Option PortCycle → Option PortCycle
  | some (.host c _) => some (.host c true)
  | some (.part p _) => some (.part p true)
  | other => other

/-- The reset causes are changed. -/
def setCauses (c : ResetCauses) (s : State) : State := { s with ctl := { s.ctl with causes := c } }

/-- The RESET input is asserted (R18, R37). -/
def beginExternal (s : State) : State :=
  let s1 := beginReset (cutPort s.mem.port) s
  setCauses { s1.ctl.causes with external := true } { s1 with rst := { s1.rst with inputHeld := true } }

/-- EXTERNAL_RESET (R18): with the input already held, none begins (assumption 6, DESIGN CHOICE). -/
def execExternalReset (s : State) : Host.Outcome State Fault Refusal :=
  answer (if s.rst.inputHeld then s else beginExternal s)

/-- A host cycle on the port is abandoned as the supply falls, and ended with BERR (R20); that a power-on reset does the
same is assumption 37 (DESIGN CHOICE). -/
def abandonHost (s : State) : State :=
  match s.mem.port with
  | some (.host _ _) => endHost .berr none s
  | _ => s

/-- The first word of the part-owned region for a strap setting. -/
def regionBase (p : Straps) : Nat := controlBase (sizeOfStraps p) + 0x20

/-- The refresh timer begins a fresh interval of 15.6 µs with nothing postponed (R14, R20). The rules do not speak of the
next row: it stands as it was (assumption 17, DESIGN CHOICE). -/
def Refresh.restart (r : Refresh) : Refresh := { r with running := true, interval := .normal, postponed := 0 }

/-- The RAM's contents are lost, refresh restarts, and the clearing of the part-owned region begins; its place
follows from the straps (R1, R19, R20; assumption 11, DESIGN CHOICE). -/
def startClearing (p : Straps) (s : State) : State :=
  placeClear
    { s with
      mem := { s.mem with ram := s.mem.ram.lose (regionBase p), refresh := s.mem.refresh.restart }
      rst := { s.rst with clearingDue := true } }

/-- Power is applied (R14, R19, R37). R19 speaks only of host cycles that arrive during the reset: that the cycle on the
port is abandoned, and a host cycle on it or waiting for it is ended with BERR, is assumption 37 (DESIGN CHOICE). -/
def beginPowerOn (p : Straps) (s : State) : State :=
  let s1 := beginReset none (abandonHost s)
  startClearing p
    (setCauses ⟨true, false, false⟩
      { s1 with rst := { s1.rst with supplyLow := false, powerOrSupply := true } })

/-- POWER_ON_RESET (R19). -/
def execPowerOnReset (p : Straps) (s : State) : Host.Outcome State Fault Refusal := answer (beginPowerOn p s)

/-- The supply falls below its working level: refresh stops, the access under way is abandoned, and the RAM's
contents are no longer guaranteed (R20, R37). -/
def beginSupplyLow (s : State) : State :=
  let s1 := beginReset none (abandonHost s)
  setCauses { s1.ctl.causes with supply := true }
    { s1 with
      mem :=
        { s1.mem with
          ram := s1.mem.ram.lose s1.mem.ram.clearedFrom
          refresh := { s1.mem.refresh with running := false } }
      rst := { s1.rst with supplyLow := true, powerOrSupply := true, clearingDue := false } }

/-- SUPPLY_LOW_RESET (R20): with the supply already low, none begins (assumption 6, DESIGN CHOICE). -/
def execSupplyLowReset (s : State) : Host.Outcome State Fault Refusal :=
  answer (if s.rst.supplyLow then s else beginSupplyLow s)

/-- SUPPLY_RETURN (R20). -/
def execSupplyReturn (p : Straps) (s : State) : Host.Outcome State Fault Refusal :=
  answer
    (if s.rst.supplyLow then startClearing p { s with rst := { s.rst with supplyLow := false } } else s)

/-- The installed size is read from the straps (R1). -/
def readStraps (p : Straps) (s : State) : State := { s with mem := { s.mem with installed := sizeOfStraps p } }

/-- EXTERNAL_RESET_RELEASE (R18): the straps are read, and part cycles are granted again; a clearing that the held
input kept from the port goes on. -/
def execExternalResetRelease (p : Straps) (s : State) : Host.Outcome State Fault Refusal :=
  answer
    (if s.rst.inputHeld then placeClear (readStraps p { s with rst := { s.rst with inputHeld := false } })
     else s)

/-! ### The end of a reset (R30) -/

/-- Every reset in progress has ended: the input is released, the supply is up, and the region is clear. -/
def State.resetOver (s : State) : Bool :=
  s.rst.inReset && !s.rst.inputHeld && !s.rst.supplyLow && !s.rst.clearingDue

/-- The time base after a reset: 0 when a power-on or supply-low reset is among those that end, else undisturbed
(R37, R39). -/
def State.timeAfterReset (s : State) : Time := if s.rst.powerOrSupply then 0 else s.ctl.timeBase

/-- The Control Unit at the end of every reset (R22, R23, R26, R27, R32, R34, R36); the reset causes stand. -/
def ControlUnit.afterReset (c : ControlUnit) (now : Time) : ControlUnit :=
  { partState := .unloaded
    command := CommandRecord.reset
    refusal := ⟨0, false⟩
    latches := Vector.replicate 6 0
    writeBack := ⟨none, []⟩
    log := ⟨0, 0, 0, false, false⟩
    inbox := ⟨0, 0, 0⟩
    alert := ⟨false, false, false, false⟩
    causes := c.causes
    timeBase := now }

/-- The Drive Protection Unit at the end of every reset (R132, R144). -/
def DriveUnit.afterReset (d : DriveUnit) (now : Time) : DriveUnit :=
  { warm := d.warm.afterReset now
    hot := d.hot.afterReset now
    lwarn := d.lwarn.afterReset now
    llow := d.llow.afterReset now
    hotLatch := false
    governor := Governor.reset now
    log := Reasons.clear
    lampTest := none
    hotCheck := none }

/-- What every reset ends by posting: the reset cause word, every other named status word in offset order, every
module table word, every line table word (R30). -/
def resetPosts : List TableWord :=
  [.resetCause, .partState, .commandStatus, .refusal, .driveState, .limitReasons, .governorStage, .tickerState,
    .faultStatus, .inboxStatus] ++ moduleTable ++ lineTable

/-- Every block takes its end-of-reset state (R1, R40, R64, R125, R144, R160, R162). The ribbon port keeps the column it
last presented (assumption 34, DESIGN CHOICE). A host cycle taken since the release of RESET that still waits or is on the
port stays there, and is served as any other (assumption 41, DESIGN CHOICE). -/
def resetBlocks (p : Straps) (s : State) : State :=
  let now := s.timeAfterReset
  { s with
    mem := { s.mem with installed := sizeOfStraps p }
    rst := { s.rst with inReset := false, powerOrSupply := false }
    ctl := s.ctl.afterReset now
    handed := []
    tbl := InstrumentTable.empty
    load := .idle
    cap := CaptureUnit.empty
    links := Vector.replicate 8 Link.cleared
    flashTime := 0
    drive := s.drive.afterReset now
    tape := { TickerUnit.reset with portColumn := s.tape.portColumn }
    lines := Vector.replicate 16 Line.off
    service := ⟨15, 15, 15⟩ }

/-- RESET_END (R30). -/
def execResetEnd (p : Straps) (s : State) : Host.Outcome State Fault Refusal :=
  answer (if s.resetOver then postAll resetPosts (resetBlocks p s) else s)

end Sys2Proof.Machine
end

