-- ==== Sys2Proof/Machine/Control.lean ====
section
/-! DEFINITION. The Control Unit's own events (chapter 2): the host-writable words, unknown commands, CLEAR CAUSES and
the time base. -/

namespace Sys2Proof.Machine

open Sys2Proof

/-- A parameter latch takes a value, word `off` being parameter word 1 to 6 (R22). -/
def latchWord (off : Nat) (w : Word) (s : State) : State :=
  if h : off - 1 < 6 then { s with ctl := { s.ctl with latches := s.ctl.latches.set (off - 1) w } } else s

/-- PARAMETER_WORD_WRITE (R22). -/
def execParameterWordWrite (s : State) : Host.Outcome State Fault Refusal :=
  answer (onControlWord (fun off => decide (1 ≤ off ∧ off ≤ 6)) latchWord s)

/-- A proposed read index is accepted when it is in range and frees no more records than are unread (R33, R35). -/
def indexAccepted {n : Nat} (w : Word) (writeIndex readIndex : BitVec n) : Bool :=
  decide (w.toNat < 2 ^ n) && decide ((BitVec.ofNat n w.toNat - readIndex).toNat ≤ (writeIndex - readIndex).toNat)

/-- A new fault read index (R33). An accepted value that frees a record clears the overflow mark. -/
def takeFaultIndex (_off : Nat) (w : Word) (s : State) : State :=
  let g := s.ctl.log
  if indexAccepted w g.writeIndex g.readIndex then
    let p := BitVec.ofNat 5 w.toNat
    postChanged s [.faultStatus]
      (setLog { g with readIndex := p, overflowMark := g.overflowMark && p == g.readIndex } s)
  else s

/-- FAULT_READ_INDEX_WRITE (R33). -/
def execFaultReadIndexWrite (s : State) : Host.Outcome State Fault Refusal :=
  answer (onControlWord (· == 0x10) takeFaultIndex s)

/-- A new inbox read index (R35). -/
def takeInboxIndex (_off : Nat) (w : Word) (s : State) : State :=
  let b := s.ctl.inbox
  if indexAccepted w b.writeIndex b.readIndex then
    postChanged s [.inboxStatus] { s with ctl := { s.ctl with inbox := { b with readIndex := BitVec.ofNat 6 w.toNat } } }
  else s

/-- INBOX_READ_INDEX_WRITE (R35). -/
def execInboxReadIndexWrite (s : State) : Host.Outcome State Fault Refusal :=
  answer (onControlWord (· == 0x11) takeInboxIndex s)

/-- New ALERT enables: bits 0, 1 and 2 (R36, para 10.1). -/
def takeEnables (_off : Nat) (w : Word) (s : State) : State :=
  { s with
    ctl :=
      { s.ctl with
        alert :=
          { s.ctl.alert with
            enableFault := w.getLsbD 0
            enableInbox := w.getLsbD 1
            enableCommand := w.getLsbD 2 } } }

/-- ALERT_ENABLES_WRITE (R36). -/
def execAlertEnablesWrite (s : State) : Host.Outcome State Fault Refusal :=
  answer (onControlWord (· == 0x12) takeEnables s)

/-- UNKNOWN_COMMAND (R25): the code is refused before any owning rule is reached. -/
def execUnknownCommand (s : State) : Host.Outcome State Fault Refusal := answer (onCommand unknownCode id s)

/-- The causes after the flags that a word names are cleared (R38). -/
def ResetCauses.clear (c : ResetCauses) (w : Word) : ResetCauses :=
  ⟨c.power && !w.getLsbD 0, c.external && !w.getLsbD 1, c.supply && !w.getLsbD 2⟩

/-- CLEAR CAUSES is decided (R38). -/
def clearCausesTaken (s : State) : State :=
  if 8 ≤ (s.param 0).toNat then endRefused .badParameter 0 s
  else endDone (post .resetCause (setCauses (s.ctl.causes.clear (s.param 0)) s))

/-- CLEAR_CAUSES (R38). -/
def execClearCauses (s : State) : Host.Outcome State Fault Refusal := answer (onCommand (· == 16) clearCausesTaken s)

/-- TIME_BASE_ADVANCE (R39): one more millisecond, wrapping. -/
def execTimeBaseAdvance (s : State) : Host.Outcome State Fault Refusal :=
  answer { s with ctl := { s.ctl with timeBase := s.ctl.timeBase + 1 } }

end Sys2Proof.Machine
end

