-- ==== Sys2Proof/Machine/Floor.lean ====
section
/-! DEFINITION. The events and commands of the board links and the Drive Protection Unit (chapters 6 and 7). -/

namespace Sys2Proof.Machine

open Sys2Proof

/-! ### Frames and replies (R108, R109) -/

/-- The wire of a link is changed. -/
def setWire (k : Fin 8) (w : Wire) (s : State) : State := setLink k { s.links[k] with wire := w } s

/-- The last byte of the frame being sent has gone (R108, R109): a frame that follows it begins, or the reply wait,
or the link is free. -/
def frameGone (k : Fin 8) (s : State) : State :=
  match s.links[k].wire with
  | .sending f next wait =>
    match next with
    | g :: rest => setWire k (.sending g rest wait) s
    | [] => if wait then setWire k (.awaiting f s.ctl.timeBase) s else chooseFrame k (setWire k .quiet s)
  | _ => s

/-- FRAME_SENT (R108). -/
def execFrameSent (k : Fin 8) (s : State) : Host.Outcome State Fault Refusal := answer (frameGone k s)

/-- REPLY (R109): with no frame outstanding the bytes are discarded. -/
def execReply (k : Fin 8) (b0 b1 b2 : Byte) (s : State) : Host.Outcome State Fault Refusal :=
  answer
    (match s.links[k].wire with
     | .awaiting f t =>
       let s1 := quietLink k s
       boardSettle s k (if replyGood s f t b0 b1 b2 then goodReply k f (b1 == 1) s1 else missedReply k f s1)
     | _ => s)

/-- REPLY_TIMEOUT (R109). -/
def execReplyTimeout (k : Fin 8) (s : State) : Host.Outcome State Fault Refusal :=
  answer
    (match s.links[k].wire with
     | .awaiting f t =>
       if 4 ≤ since s t then boardSettle s k (missedReply k f (quietLink k s)) else s
     | _ => s)

/-- POLL_DUE (R111): a quiet link chooses. -/
def execPollDue (k : Fin 8) (s : State) : Host.Outcome State Fault Refusal := answer (chooseFrame k s)

/-- The flash timer of a module is stopped. -/
def stopFlash (k : Fin 8) (m : Fin 16) (s : State) : State :=
  let l := s.links[k]
  setLink k { l with modules := l.modules.set m { l.modules[m] with flash := none } } s

/-- FLASH_TIMER_EXPIRY (R123). -/
def execFlashTimerExpiry (k : Fin 8) (m : Fin 16) (s : State) : Host.Outcome State Fault Refusal :=
  answer
    (match s.links[k].modules[m].flash with
     | none => s
     | some t => if s.flashTime * 1000 ≤ since s t then chooseFrame k (stopFlash k m s) else s)

/-! ### REMAP and RESTORE (R118, R119) -/

/-- The link and home of a logical module of the loaded floor. -/
def State.logicalModule (s : State) (m : Nat) : Option (Fin 8 × Fin 16) :=
  if h : m < 128 then
    let k : Fin 8 := ⟨m / 16, by omega⟩
    let p : Fin 16 := ⟨m % 16, by omega⟩
    if s.links[k].positions[p].kind = .home then some (k, p) else none
  else none

/-- The link and chain position of a physical position number. -/
def positionOf (n : Nat) : Option (Fin 8 × Fin 16) :=
  if h : n < 128 then some (⟨n / 16, by omega⟩, ⟨n % 16, by omega⟩) else none

/-- A fitted position in IDLE. -/
def Position.idleFitted (q : Position) : Bool := q.kind != .notFitted && q.state == .idle

/-- A module is moved by a command, which ends DONE; the words that change are posted, and the link chooses. -/
def moveByCommand (k : Fin 8) (m p : Fin 16) (s : State) : State :=
  boardSettle s k (endDone (setLink k (s.links[k].move m (some p)) s))

/-- REMAP is decided, in the order of R118. -/
def remapTaken (s : State) : State :=
  match s.logicalModule (s.param 0).toNat, positionOf (s.param 1).toNat with
  | some (k, m), some (j, p) =>
    if j = k ∧ s.links[k].positions[p].idleFitted = true then moveByCommand k m p s
    else endRefused .notIdle (s.param 1).toNat s
  | _, _ => endRefused .badParameter 0 s

/-- REMAP (R118). -/
def execRemap (s : State) : Host.Outcome State Fault Refusal := answer (onCommand (· == 5) remapTaken s)

/-- RESTORE is decided, in the order of R119. -/
def restoreTaken (s : State) : State :=
  match s.logicalModule (s.param 0).toNat with
  | none => endRefused .badParameter 0 s
  | some (k, m) =>
    if s.links[k].modules[m].target = some m then endDone s
    else if s.links[k].positions[m].idleFitted then moveByCommand k m m s
    else endRefused .homeNotReady (s.param 0).toNat s

/-- RESTORE (R119). -/
def execRestore (s : State) : Host.Outcome State Fault Refusal := answer (onCommand (· == 6) restoreTaken s)

/-! ### REARM and the HOT check (R129 to R131) -/

/-- All that follows the Drive Protection Unit's state after a change since `old`, on every link. -/
def floorSettle (old s : State) : State := chooseAll (driveSettle old s)

/-- The named links are re-enabled and the command ends DONE. -/
def rearmDone (ks : List (Fin 8)) (s : State) : State := floorSettle s (endDone (rearmLinks ks s))

/-- REARM is decided, in the order of R129; a check that begins with the raw input present fails at once (R131). -/
def rearmTaken (s : State) : State :=
  match linksNamed (s.param 0) with
  | none => endRefused .badParameter 0 s
  | some ks =>
    if !s.drive.hotLatch then rearmDone ks s
    else if s.drive.hot.taken || s.drive.hot.raw then endRefused .stillHot 0 s
    else setDrive { s.drive with hotCheck := some ⟨s.ctl.timeBase, ks⟩ } s

/-- REARM (R129). -/
def execRearm (s : State) : Host.Outcome State Fault Refusal := answer (onCommand (· == 7) rearmTaken s)

/-- The HOT check has passed: the latch is cleared, the links re-enabled, REARM ends DONE (R131). -/
def hotCheckPassed (h : HotCheck) (s : State) : State :=
  floorSettle s
    (endDone (rearmLinks h.links (setDrive { s.drive with hotCheck := none, hotLatch := false } s)))

/-- HOT_CHECK_END (R131). A reset has abandoned the check as it began (R26). -/
def execHotCheckEnd (s : State) : Host.Outcome State Fault Refusal :=
  answer
    (match s.drive.hotCheck with
     | none => s
     | some h => if !s.rst.inReset && decide (20 ≤ since s h.since) then hotCheckPassed h s else s)

/-! ### The comparator inputs (R131, R132) -/

/-- A running HOT check ends as soon as the raw HOT input is present (R131). -/
def failHotCheck (c : Comparator) (level : Bool) (s : State) : State :=
  match s.drive.hotCheck with
  | none => s
  | some _ =>
    if c = .hot ∧ level = true then endRefused .stillHot 0 (setDrive { s.drive with hotCheck := none } s) else s

/-- A raw input takes a new level (R132). -/
def changeInput (c : Comparator) (level : Bool) (s : State) : State :=
  failHotCheck c level
    (setDrive (s.drive.setFilter c ((s.drive.filter c).change s.ctl.timeBase level)) s)

/-- COMPARATOR_INPUT_CHANGE (R132): an input that already has the level does not change. -/
def execComparatorInputChange (c : Comparator) (level : Bool) (s : State) : Host.Outcome State Fault Refusal :=
  answer (if (s.drive.filter c).raw = level then s else changeInput c level s)

/-- FILTER_TAKEN (R132): a raw level that has held for 20 ms is taken. During a reset no level is taken, so the taken
level of WARM goes on ruling the refresh interval until the reset ends (R14; assumption 31, DESIGN CHOICE). -/
def execFilterTaken (c : Comparator) (s : State) : Host.Outcome State Fault Refusal :=
  answer
    (match (s.drive.filter c).watch with
     | none => s
     | some t =>
       if !s.rst.inReset && decide (20 ≤ since s t) then floorSettle s (takeFilter c s) else s)

/-! ### The governor (R137 to R140) -/

/-- A sample is taken, and the stage judged. -/
def takeSample (s : State) : State :=
  floorSettle s
    (setDrive
      { s.drive with
        governor := s.drive.governor.sample s.drive.warm.taken s.drive.lwarn.taken s.sampleLoad } s)

/-- GOVERNOR_SAMPLE (R137): due 10 ms after the last. The rule does not speak of the time of a reset: no sample is taken in
it (assumption 36, DESIGN CHOICE). -/
def execGovernorSample (s : State) : Host.Outcome State Fault Refusal :=
  answer (if !s.rst.inReset && decide (10 ≤ since s s.drive.governor.lastSample) then takeSample s else s)

/-! ### LAMP TEST and CLEAR LIMIT LOG (R141, R142) -/

/-- The test of the next of some links begins, or LAMP TEST ends DONE (R142). -/
def testNext (ks : List (Fin 8)) (s : State) : State :=
  match ks with
  | k :: rest => chooseAll (setDrive { s.drive with lampTest := some ⟨k, s.ctl.timeBase, rest⟩ } s)
  | [] => chooseAll (endDone (setDrive { s.drive with lampTest := none } s))

/-- LAMP TEST is decided, in the order of R142. -/
def lampTestTaken (s : State) : State :=
  match linksNamed (s.param 0) with
  | none => endRefused .badParameter 0 s
  | some ks => if s.floorDark then endRefused .driveOff 0 s else testNext ks s

/-- LAMP_TEST (R142). -/
def execLampTest (s : State) : Host.Outcome State Fault Refusal := answer (onCommand (· == 8) lampTestTaken s)

/-- LAMP_TEST_LINK_END (R142): the 5 s of the link under test have run. A reset has abandoned the
test as it began (R26). -/
def execLampTestLinkEnd (s : State) : Host.Outcome State Fault Refusal :=
  answer
    (match s.drive.lampTest with
     | none => s
     | some t => if !s.rst.inReset && decide (5000 ≤ since s t.since) then testNext t.rest s else s)

/-- CLEAR LIMIT LOG is carried out (R141). -/
def clearLogTaken (s : State) : State :=
  endDone (post .limitReasons (setDrive { s.drive with log := s.drive.log.inter s.limitStatus } s))

/-- CLEAR_LIMIT_LOG (R141). -/
def execClearLimitLog (s : State) : Host.Outcome State Fault Refusal := answer (onCommand (· == 9) clearLogTaken s)

end Sys2Proof.Machine
end

