-- ==== Sys2Proof/Machine/Tape.lean ====
section
/-! DEFINITION. The events and commands of the Ticker Unit (chapter 8). -/

namespace Sys2Proof.Machine

open Sys2Proof

/-- TAPE HOLD is carried out: the ticker state word is posted if the flag was clear (R157). -/
def tapeHoldTaken (s : State) : State := endDone (updateTape { s.tape with hold := true } s)

/-- TAPE_HOLD (R157). -/
def execTapeHold (s : State) : Host.Outcome State Fault Refusal := answer (onCommand (· == 10) tapeHoldTaken s)

/-- TAPE RESUME is carried out: the ticker state word is posted if the flag was set (R158). -/
def tapeResumeTaken (s : State) : State := endDone (updateTape { s.tape with hold := false } s)

/-- TAPE_RESUME (R158). -/
def execTapeResume (s : State) : Host.Outcome State Fault Refusal := answer (onCommand (· == 11) tapeResumeTaken s)

/-- TAKE (R147). During a reset it does nothing (assumption 36, DESIGN CHOICE). -/
def execTake (s : State) : Host.Outcome State Fault Refusal :=
  answer (if !s.rst.inReset && s.takeReady then takePrint s else s)

/-- The step of the ribbon in its condition (R154, R159): a still ribbon makes none, and neither does a blank-out
whose 480 steps have been made. -/
def ribbonStep (s : State) : State :=
  match s.tape.condition with
  | .running => setTape (s.tape.runStep s.ribbonBrightness) s
  | .blanking left => if 0 < left then setTape (s.tape.blankStep left s.ribbonBrightness) s else s
  | .still => s

/-- RIBBON_STEP (R154): during a reset no step is strobed (R156). -/
def execRibbonStep (s : State) : Host.Outcome State Fault Refusal := answer (if s.rst.inReset then s else ribbonStep s)

/-- A blank-out that has made its steps ends: the ribbon becomes RUNNING or STILL (R159). -/
def blankOutOver (s : State) : State :=
  if s.tape.loadedInBlankOut then setTape { s.tape with phase := 0 }.run s
  else presentStill (setTape { s.tape with phase := 0, condition := .still } s)

/-- BLANK_OUT_END (R159). During a reset it does nothing (assumption 36, DESIGN CHOICE). -/
def execBlankOutEnd (s : State) : Host.Outcome State Fault Refusal :=
  answer (if !s.rst.inReset && s.tape.condition == .blanking 0 then blankOutOver s else s)

end Sys2Proof.Machine
end

