-- ==== Sys2Proof/Machine/Terminals.lean ====
section
/-! DEFINITION. The events and commands of the Line Unit (chapter 9). -/

namespace Sys2Proof.Machine

open Sys2Proof

/-! ### SET LINE (R163) -/

/-- The line and the rate that SET LINE names, with its class in range (R163, step 1). -/
def State.lineParams (s : State) : Option (Fin 16 × Rate) :=
  if h : (s.param 0).toNat < 16 then
    match rateOfCode (s.param 1) with
    | some r => if (s.param 2).toNat ≤ 3 then some (⟨(s.param 0).toNat, h⟩, r) else none
    | none => none
  else none

/-- The third refusal of R163: the rates differ, and neither the present class nor the class given is 0. -/
def needsMute (l : Line) (rate : Rate) (cls : Nat) : Bool := l.rate != rate && l.cls != 0 && cls != 0

/-- SET LINE is decided, in the order of R163. -/
def setLineTaken (s : State) : State :=
  let cls := (s.param 2).toNat
  match s.lineParams with
  | none => endRefused .badParameter 0 s
  | some (n, rate) =>
    if rate = .none ∧ cls ≠ 0 then endRefused .badParameter 0 s
    else if needsMute s.lines[n] rate cls then endRefused .notMuted n.val s
    else endDone (carrySetLine n rate cls (clampDoze (s.param 3).toNat) s)

/-- SET_LINE (R163). -/
def execSetLine (s : State) : Host.Outcome State Fault Refusal := answer (onCommand (· == 12) setLineTaken s)

/-! ### Characters and frames (R166 to R174) -/

/-- MARK_RECEIVED (R166). During a reset it does nothing (assumption 36, DESIGN CHOICE). -/
def execMarkReceived (n : Fin 16) (s : State) : Host.Outcome State Fault Refusal :=
  answer (if s.rst.inReset then s else receiveChar n ⟨0x7E, false⟩ s)

/-- CHARACTER_RECEIVED (R166). During a reset it does nothing (assumption 36, DESIGN CHOICE). -/
def execCharacterReceived (n : Fin 16) (c : RxChar) (s : State) : Host.Outcome State Fault Refusal :=
  answer (if s.rst.inReset then s else receiveChar n c s)

/-- The character would make the frame in assembly bad: a mark cuts it, and any other by the tests of R166. -/
def breaksFrame (l : Line) (c : RxChar) : Bool :=
  match l.assembler with
  | .hunting => false
  | .assembling got _ =>
    c.isMark ||
      (match assemble got c with
       | .bad _ => true
       | _ => false)

/-- BAD_FRAME (R167). During a reset it does nothing (assumption 36, DESIGN CHOICE). -/
def execBadFrame (n : Fin 16) (c : RxChar) (s : State) : Host.Outcome State Fault Refusal :=
  answer (if !s.rst.inReset && breaksFrame s.lines[n] c then receiveChar n c s else s)

/-- FRAME_ABANDONED (R167): 500 ms have passed since the last character of the assembly. During a reset it does nothing
(assumption 36, DESIGN CHOICE). -/
def execFrameAbandoned (n : Fin 16) (s : State) : Host.Outcome State Fault Refusal :=
  answer
    (match s.lines[n].assembler with
     | .hunting => s
     | .assembling _ t =>
       if !s.rst.inReset && s.lines[n].state != .off && decide (500 ≤ since s t) then badFrame n .abandoned s
       else s)

/-- WATCH_REQUEST (R171). -/
def execWatchRequest (n : Fin 16) (s : State) : Host.Outcome State Fault Refusal :=
  answer (onGoodFrame n (· == 0x57) s)

/-- WATCH_DROP (R172). -/
def execWatchDrop (n : Fin 16) (s : State) : Host.Outcome State Fault Refusal :=
  answer (onGoodFrame n (· == 0x44) s)

/-- PAGE_REQUEST (R173). -/
def execPageRequest (n : Fin 16) (s : State) : Host.Outcome State Fault Refusal :=
  answer (onGoodFrame n (· == 0x50) s)

/-- MESSAGE_REQUEST (R174). -/
def execMessageRequest (n : Fin 16) (s : State) : Host.Outcome State Fault Refusal :=
  answer (onGoodFrame n (· == 0x4D) s)

/-- PING (R169). -/
def execPing (n : Fin 16) (s : State) : Host.Outcome State Fault Refusal := answer (onGoodFrame n (· == 0x5A) s)

/-- The kinds that have a rule of their own: W, D, P, M and Z (R169). -/
def ownKind (c : Byte) : Bool := c == 0x57 || c == 0x44 || c == 0x50 || c == 0x4D || c == 0x5A

/-- GOOD_FRAME_OTHER_KIND (R169). -/
def execGoodFrameOtherKind (n : Fin 16) (s : State) : Host.Outcome State Fault Refusal :=
  answer (onGoodFrame n (fun c => !ownKind c) s)

/-! ### Doze, service, the transmitter (R178, R181, R182) -/

/-- The doze timer has reached the doze time (R182). -/
def dozeOver (n : Fin 16) (s : State) : State :=
  let l := s.lines[n]
  setLine n { l with dozeTimer := none, state := if l.state = .active then .dozing else l.state } s

/-- DOZE_EXPIRY (R182). During a reset it does nothing (assumption 36, DESIGN CHOICE). -/
def execDozeExpiry (n : Fin 16) (s : State) : Host.Outcome State Fault Refusal :=
  answer
    (match s.lines[n].dozeTimer with
     | none => s
     | some t => if !s.rst.inReset && decide (s.lines[n].doze * 1000 ≤ since s t) then dozeOver n s else s)

/-- LINE_SERVICE (R178). During a reset it does nothing (assumption 36, DESIGN CHOICE). -/
def execLineService (s : State) : Host.Outcome State Fault Refusal :=
  answer
    (if s.rst.inReset then s
     else match s.serviceChoice with
       | none => s
       | some (cls, n) => serveLine cls n s)

/-- TRANSMITTER_EMPTY (R181). -/
def execTransmitterEmpty (n : Fin 16) (s : State) : Host.Outcome State Fault Refusal :=
  answer (setLine n { s.lines[n] with transmitter := [] } s)

end Sys2Proof.Machine
end

