-- ==== Sys2Proof/Machine/Dispatch.lean ====
section
/-! DEFINITION. The dispatch: one arm for each command, one direct call of its meaning. -/

namespace Sys2Proof.Machine

open Sys2Proof

/-- What a command does to everything but the queue of waiting commands. -/
def exec (i : Instr) (s : State) : Host.Outcome State Fault Refusal :=
  match i with
  | .hostCycle c => Sys2Proof.Machine.execHostCycle c s
  | .hostReadServed => Sys2Proof.Machine.execHostReadServed s
  | .hostWriteServed => Sys2Proof.Machine.execHostWriteServed s
  | .refreshRequest => Sys2Proof.Machine.execRefreshRequest s
  | .refreshCycle => Sys2Proof.Machine.execRefreshCycle s
  | .externalReset => Sys2Proof.Machine.execExternalReset s
  | .externalResetRelease straps => Sys2Proof.Machine.execExternalResetRelease straps s
  | .powerOnReset straps => Sys2Proof.Machine.execPowerOnReset straps s
  | .supplyLowReset => Sys2Proof.Machine.execSupplyLowReset s
  | .supplyReturn straps => Sys2Proof.Machine.execSupplyReturn straps s
  | .regionClearWritten => Sys2Proof.Machine.execRegionClearWritten s
  | .resetEnd straps => Sys2Proof.Machine.execResetEnd straps s
  | .parameterWordWrite => Sys2Proof.Machine.execParameterWordWrite s
  | .faultReadIndexWrite => Sys2Proof.Machine.execFaultReadIndexWrite s
  | .inboxReadIndexWrite => Sys2Proof.Machine.execInboxReadIndexWrite s
  | .alertEnablesWrite => Sys2Proof.Machine.execAlertEnablesWrite s
  | .unknownCommand => Sys2Proof.Machine.execUnknownCommand s
  | .load => Sys2Proof.Machine.execLoad s
  | .close => Sys2Proof.Machine.execClose s
  | .confirm => Sys2Proof.Machine.execConfirm s
  | .withdraw => Sys2Proof.Machine.execWithdraw s
  | .remap => Sys2Proof.Machine.execRemap s
  | .restore => Sys2Proof.Machine.execRestore s
  | .rearm => Sys2Proof.Machine.execRearm s
  | .lampTest => Sys2Proof.Machine.execLampTest s
  | .clearLimitLog => Sys2Proof.Machine.execClearLimitLog s
  | .tapeHold => Sys2Proof.Machine.execTapeHold s
  | .tapeResume => Sys2Proof.Machine.execTapeResume s
  | .setLine => Sys2Proof.Machine.execSetLine s
  | .setGuard => Sys2Proof.Machine.execSetGuard s
  | .lockGuards => Sys2Proof.Machine.execLockGuards s
  | .armTrap => Sys2Proof.Machine.execArmTrap s
  | .clearCauses => Sys2Proof.Machine.execClearCauses s
  | .directoryReadReturn => Sys2Proof.Machine.execDirectoryReadReturn s
  | .phase2ReadReturn => Sys2Proof.Machine.execPhase2ReadReturn s
  | .fieldWrite => Sys2Proof.Machine.execFieldWrite s
  | .commitWrite => Sys2Proof.Machine.execCommitWrite s
  | .fetchReadReturn => Sys2Proof.Machine.execFetchReadReturn s
  | .staleStaging instr => Sys2Proof.Machine.execStaleStaging instr s
  | .holdExpired instr => Sys2Proof.Machine.execHoldExpired instr s
  | .writeBackWritten => Sys2Proof.Machine.execWriteBackWritten s
  | .frameSent link => Sys2Proof.Machine.execFrameSent link s
  | .reply link b0 b1 b2 => Sys2Proof.Machine.execReply link b0 b1 b2 s
  | .replyTimeout link => Sys2Proof.Machine.execReplyTimeout link s
  | .pollDue link => Sys2Proof.Machine.execPollDue link s
  | .flashTimerExpiry link home => Sys2Proof.Machine.execFlashTimerExpiry link home s
  | .comparatorInputChange input level => Sys2Proof.Machine.execComparatorInputChange input level s
  | .filterTaken input => Sys2Proof.Machine.execFilterTaken input s
  | .hotCheckEnd => Sys2Proof.Machine.execHotCheckEnd s
  | .governorSample => Sys2Proof.Machine.execGovernorSample s
  | .lampTestLinkEnd => Sys2Proof.Machine.execLampTestLinkEnd s
  | .take => Sys2Proof.Machine.execTake s
  | .ribbonStep => Sys2Proof.Machine.execRibbonStep s
  | .blankOutEnd => Sys2Proof.Machine.execBlankOutEnd s
  | .markReceived line => Sys2Proof.Machine.execMarkReceived line s
  | .watchRequest line => Sys2Proof.Machine.execWatchRequest line s
  | .watchDrop line => Sys2Proof.Machine.execWatchDrop line s
  | .pageRequest line => Sys2Proof.Machine.execPageRequest line s
  | .messageRequest line => Sys2Proof.Machine.execMessageRequest line s
  | .ping line => Sys2Proof.Machine.execPing line s
  | .badFrame line c => Sys2Proof.Machine.execBadFrame line c s
  | .frameAbandoned line => Sys2Proof.Machine.execFrameAbandoned line s
  | .dozeExpiry line => Sys2Proof.Machine.execDozeExpiry line s
  | .lineService => Sys2Proof.Machine.execLineService s
  | .transmitterEmpty line => Sys2Proof.Machine.execTransmitterEmpty line s
  | .timeBaseAdvance => Sys2Proof.Machine.execTimeBaseAdvance s
  | .characterReceived line c => Sys2Proof.Machine.execCharacterReceived line c s
  | .goodFrameOtherKind line => Sys2Proof.Machine.execGoodFrameOtherKind line s

end Sys2Proof.Machine
end

