-- ==== Sys2Proof/Safety.lean ====
section
/-! DEFINITION. The terms in which the claims speak of states: what posting a value leaves alone, a command offered
and ended, and the bounds that a run keeps. -/

namespace Sys2Proof.Machine

open Sys2Proof

/-- The state less what stands at the RAM port: the waiting host cycle, the part cycle queue, the cycle on the port,
and the write-back queue that feeds it. -/
def State.atRest (s : State) : State :=
  { s with
    mem := { s.mem with waiting := none, parts := [], port := none }
    ctl := { s.ctl with writeBack := ⟨none, []⟩ } }

/-- The entry being written and the entries that wait, in the order in which they will be written (R29). -/
def WriteBack.entries (b : WriteBack) : List WbEntry := (b.active.map Prod.fst).toList ++ b.queue

/-- An entry in its place: the same one, or, for a table word, one of the same word with another value (R28). -/
def WbEntry.Stands (x y : WbEntry) : Prop := y = x ∨ ∃ w old new, x = .table w old ∧ y = .table w new

/-- `b` is the write-back queue `a` after nothing but posting (R28, R29): the entry being written is left alone; with
none, the head may have been taken up, at its first word; every other entry stands in its place, each record with its
words as they were; and what has joined stands behind them. -/
structure WriteBack.Kept (a b : WriteBack) : Prop where
  writing : ∀ e n, a.active = some (e, n) → b.active = some (e, n)
  takenUp : a.active = none → ∀ e n, b.active = some (e, n) → n = 0
  order : ∃ front behind, b.entries = front ++ behind ∧ List.Forall₂ WbEntry.Stands a.entries front

/-- `t` is `s` after nothing but posting (R28, R29): the two agree in everything but the write-back queue, in which
every entry stands in its place, and the part cycle queue has gained at most write-backs. A value that waits for a table
word waited before or is the word's present value; the command status aside, which a command that begins and ends in one
event posts twice. -/
structure OnlyPosts (s t : State) : Prop where
  rest : t.atRest = s.atRest
  port : t.mem.port = s.mem.port
  waiting : t.mem.waiting = s.mem.waiting
  parts : ∃ l, t.mem.parts = s.mem.parts ++ l ∧ ∀ p ∈ l, p.source = .writeBack
  kept : s.ctl.writeBack.Kept t.ctl.writeBack
  present : ∀ w ws, w ≠ .commandStatus → .table w ws ∈ t.ctl.writeBack.queue →
    .table w ws ∈ s.ctl.writeBack.queue ∨ ws = t.tableWords w

/-- The present value of a table word waits to be written back: its entry is being written, with its first word
placed, or stands in the queue (R28, R29). -/
def State.Posted (t : State) (w : TableWord) : Prop :=
  t.ctl.writeBack.active = some (.table w (t.tableWords w), 0) ∨
    .table w (t.tableWords w) ∈ t.ctl.writeBack.queue

/-- A record entry waits to be written back. -/
def State.Queued (t : State) (e : WbEntry) : Prop :=
  t.ctl.writeBack.active = some (e, 0) ∨ e ∈ t.ctl.writeBack.queue

/-- A command word stands at the head of the handed writes, outside a reset, and finds no command RUNNING (R24). -/
def State.Offered (s : State) (w : Word) : Prop :=
  s.rst.inReset = false ∧ s.handed.head? = some (.control 0 w) ∧ s.ctl.command.state ≠ .running

/-- The state after an offered command has been taken and has ended: its record, the COMMAND cause, and the handed
writes behind it (R24, R26); nothing else is different. -/
def State.ended (s : State) (w : Word) (code : Option ResultCode) (detail : Nat) : State :=
  { s with
    handed := s.handed.drop 1
    ctl :=
      { s.ctl with
        command :=
          ⟨if code.isSome then .refused else .done, commandCode w, commandSeq w, code, detail, s.ctl.latches⟩
        alert := { s.ctl.alert with commandCause := true } } }

/-- The state after an offered command that takes time has been taken: it is RUNNING (R24, R26). -/
def State.begun (s : State) (w : Word) : State :=
  { s with
    handed := s.handed.drop 1
    ctl :=
      { s.ctl with
        command := ⟨.running, commandCode w, commandSeq w, none, 0, s.ctl.latches⟩
        alert := { s.ctl.alert with commandCause := false } } }

/-- The state after the running command has ended DONE at an event of its own (R26). -/
def State.runEnded (s : State) (code : Option ResultCode) (detail : Nat) : State :=
  { s with
    ctl :=
      { s.ctl with
        command :=
          { s.ctl.command with
            state := if code.isSome then .refused else .done
            result := code
            detail := detail }
        alert := { s.ctl.alert with commandCause := true } } }

/-- The fault log has room for a fault, and faults are recorded (R31). -/
def State.LogRoom (s : State) : Prop :=
  s.rst.inReset = false ∧ s.ctl.log.nextSlot + 1 ≠ s.ctl.log.readIndex

/-- The state after a fault has been given its slot (R31). -/
def State.slotTaken (s : State) : State :=
  { s with ctl := { s.ctl with log := { s.ctl.log with nextSlot := s.ctl.log.nextSlot + 1, overflowCarry := false } } }

/-- The record that a fault makes now (R31, para 10.3). -/
def State.faultEntry (s : State) (k : FaultKind) (subj : Subject) (details : List Nat) : WbEntry :=
  .faultRecord s.ctl.log.nextSlot (faultWords k s.ctl.log.overflowCarry s.ctl.timeBase subj details)

/-- A fault as a block posts it: its kind, its subject and its details. -/
abbrev Posting := FaultKind × Subject × List Nat

/-- The fault log has room for `n` faults, and faults are recorded (R31). -/
def State.LogRoomFor (s : State) (n : Nat) : Prop :=
  s.rst.inReset = false ∧ ∀ j < n, s.ctl.log.nextSlot + BitVec.ofNat 5 j + 1 ≠ s.ctl.log.readIndex

/-- Since `s`, exactly these faults have been posted, in this order: each has the next slot, and its record waits with
the carry that it found; the log is not changed otherwise (R31). With no room for all of them, some are lost, as the
rule of a full ring gives. -/
def FaultsPosted (s t : State) (fs : List Posting) : Prop :=
  s.LogRoomFor fs.length →
    t.ctl.log =
      { s.ctl.log with
        nextSlot := s.ctl.log.nextSlot + BitVec.ofNat 5 fs.length
        overflowCarry := s.ctl.log.overflowCarry && fs.isEmpty } ∧
    ∀ j k subj d, fs[j]? = some (k, subj, d) →
      t.Queued (.faultRecord (s.ctl.log.nextSlot + BitVec.ofNat 5 j)
        (faultWords k (s.ctl.log.overflowCarry && j == 0) s.ctl.timeBase subj d))

/-- The addresses of the RAM rise strictly and no listed word is one that would read so unlisted. -/
def State.MemoryCanonical (s : State) : Prop := s.mem.ram.wf = true

/-! ### How a command answers -/

/-- The command answers a next state that is `u` after a fault has been given its slot and its record has been
queued, and after nothing else but posting (R31). -/
def AnswersFault (c : Instr) (s u : State) (k : FaultKind) (subj : Subject) (details : List Nat) : Prop :=
  ∃ v, exec c s = .next (grant v) ∧ OnlyPosts u.slotTaken v ∧ v.Queued (u.faultEntry k subj details)

/-- The command answers a next state that is `u` after the offered command `w` has been taken and has ended, with
its status waiting to be written back, and after nothing else but posting (R24, R26). -/
def AnswersEnded (c : Instr) (s u : State) (w : Word) (code : Option ResultCode) (detail : Nat) : Prop :=
  ∃ v, exec c s = .next (grant v) ∧ OnlyPosts (u.ended w code detail) v ∧ v.Posted .commandStatus

/-- Whether a row of the table is the taking of a command word with this code (para 10.1). -/
def carries : Instr → Nat → Bool
  | .load, n => n == 1
  | .close, n => n == 2
  | .confirm, n => n == 3
  | .withdraw, n => n == 4
  | .remap, n => n == 5
  | .restore, n => n == 6
  | .rearm, n => n == 7
  | .lampTest, n => n == 8
  | .clearLimitLog, n => n == 9
  | .tapeHold, n => n == 10
  | .tapeResume, n => n == 11
  | .setLine, n => n == 12
  | .setGuard, n => n == 13
  | .lockGuards, n => n == 14
  | .armTrap, n => n == 15
  | .clearCauses, n => n == 16
  | .unknownCommand, n => decide (n = 0 ∨ 17 ≤ n)
  | _, _ => false

/-- The events that begin a reset (R18, R19, R20). -/
def beginsReset : Instr → Bool
  | .externalReset => true
  | .powerOnReset _ => true
  | .supplyLowReset => true
  | _ => false

/-- The events that write the RAM or lose its contents: a host write, a write-back and a clearing write on the RAM
port, a power-on reset, and the fall and the return of the supply (R6, R19, R20, R29). -/
def touchesMemory : Instr → Bool
  | .hostWriteServed => true
  | .writeBackWritten => true
  | .regionClearWritten => true
  | .powerOnReset _ => true
  | .supplyLowReset => true
  | .supplyReturn _ => true
  | _ => false

/-- What the beginning of every reset does to the part (R9, R11, R12, R18, R26, R29, R62, R64, R125, R156, R162,
R181), the cycle on the port, the RAM, refresh, the causes and the reset's own flags aside. -/
structure ResetBegun (s t : State) : Prop where
  inReset : t.rst.inReset = true
  handed : t.handed = []
  waiting : t.mem.waiting = none
  ended : s.mem.waiting.isSome = true → t.mem.bus = some ⟨.berr, none⟩
  guards : t.mem.guards = Vector.replicate 4 ⟨0, 0, .off⟩
  guardLock : t.mem.guardLock = false
  trap : t.mem.trap = ⟨0, 0, false⟩
  installed : t.mem.installed = s.mem.installed
  ctl : t.ctl = { s.ctl with writeBack := ⟨none, []⟩, causes := t.ctl.causes }
  tbl : t.tbl = s.tbl
  load : t.load = .idle
  cap : t.cap = CaptureUnit.empty
  links : ∀ k : Fin 8, t.links[k] = { s.links[k] with running := false, wire := .quiet }
  flashTime : t.flashTime = s.flashTime
  drive : t.drive = { s.drive with lampTest := none, hotCheck := none }
  tape : t.tape = { s.tape with portBrightness := 0 }
  lines : ∀ n : Fin 16, t.lines[n] = { s.lines[n] with transmitter := [] }
  service : t.service = s.service
  pending : t.pending = s.pending

/-- The Capture Unit has no part read to place: one of its reads waits or is on the port, and no entry is at the head of
the Fetch Queue without its attempt; or it has nothing to read. -/
def State.CaptureSettled (s : State) : Prop :=
  (s.outstanding (fun p => p == .fetch || p == .phase2) = true ∧
      (s.cap.fetchQueue = [] ∨ s.cap.attempt.isSome = true)) ∨
    (s.load = .idle ∧ s.cap.fetchQueue = [])

/-- No capture read waits in the part cycle queue. -/
def State.NoCaptureWaiting (s : State) : Prop := ∀ p ∈ s.mem.parts, p.source ≠ .fetch ∧ p.source ≠ .phase2

/-- A part read of an address, placed by a block, waits or is on the port. -/
def State.Reading (s : State) (src : PartSource) (addr : Nat) : Prop :=
  ∃ p : PartCycle, p.source = src ∧ p.addr = addr ∧ p.write = none ∧
    (p ∈ s.mem.parts ∨ s.mem.port = some (.part p false))

/-- An Instrument Record after a trade of `u` units and `z` lots has been decided (R85, R90, R91, R93 to R95): taken,
which discards any hold, or held. -/
def Instrument.afterTrade (r : Instrument) (now : Time) (u z : Nat) (captured : Time) : Instrument :=
  let q := quantize r.base u
  if bandTakes r q then { takeTrade q z (needsRounding r.base u) r with hold := none }
  else { r with hold := some ⟨q, z, captured, needsRounding r.base u, now + BitVec.ofNat 32 (r.holdTimeout * 1000)⟩ }

/-- The price that two words of a quote record give a bid or an ask: none for 0 units, else quantized (R81). -/
def quotedPrice (b : FractionBase) (h l : Word) : Option Nat :=
  let u := h.toNat * 65536 + l.toNat
  if u = 0 then none else some (quantize b u)

/-- The first step of an application: the halt flags (R80). A halt set from clear discards the hold (R97). -/
def Instrument.afterHalt (r : Instrument) (c : CommitFlags) : Instrument :=
  if c.halt then (if r.halted then r else { r with halted := true, hold := none })
  else if c.resume then { r with halted := false }
  else r

/-- The trade that a commit names and whose three words were read: its price in units and its size (R79, R82). -/
def tradeRead (c : CommitFlags) (v : Vector (Option Word) 7) : Option (Nat × Nat) :=
  match c.trade, v[0], v[1], v[2] with
  | true, some h, some l, some z => some (h.toNat * 65536 + l.toNat, z.toNat)
  | _, _, _, _ => none

/-- An Instrument Record after a commit has been applied, in the four steps of R80 to R83: the halt flags, the QUOTE
group, the TRADE group (discarded while halted), the fast flags. A group acts when its words were read. -/
def Instrument.afterCommit (r : Instrument) (now : Time) (c : CommitFlags) (time : Time)
    (v : Vector (Option Word) 7) : Instrument :=
  let r1 := r.afterHalt c
  let r2 :=
    if c.quote then
      { r1 with
        bid := match v[3], v[4] with
          | some h, some l => quotedPrice r.base h l
          | _, _ => r1.bid
        ask := match v[5], v[6] with
          | some h, some l => quotedPrice r.base h l
          | _, _ => r1.ask }
    else r1
  let r3 :=
    match tradeRead c v with
    | some (u, z) => if r2.halted then r2 else r2.afterTrade now u z time
    | none => r2
  if c.fastOn then { r3 with fast := true } else if c.fastOff then { r3 with fast := false } else r3

/-- The trade part of the change notice of a commit: the trade that the Price Unit takes, if it takes one (R84, R92). -/
def Instrument.partTaken (r : Instrument) (c : CommitFlags) (time : Time) (v : Vector (Option Word) 7) :
    Option TradePart :=
  match tradeRead c v with
  | some (u, z) =>
    if (r.afterHalt c).halted = false ∧ bandTakes r (quantize r.base u) = true then some ⟨quantize r.base u, z, time⟩
    else none
  | none => none

/-- The faults that the application of a commit posts, in order: HOLD CANCELLED by a halt set from clear (R80, R97);
TRADE WHILE HALTED (R82), or HOLD SUPERSEDED by a trade that arrives over a hold (R95); PRINT DROPPED for a taken
trade of an eligible instrument that finds the Print Queue full (R146). -/
def Instrument.commitFaults (r : Instrument) (i : Nat) (seq : BitVec 12) (c : CommitFlags) (time : Time)
    (v : Vector (Option Word) 7) (full : Bool) : List Posting :=
  let h := r.afterHalt c
  (match r.hold with
    | some o =>
      if c.halt = true ∧ r.halted = false then
        [(.holdCancelled, .instrument i, [o.price, o.size, o.captured.toNat])]
      else []
    | none => []) ++
  (match tradeRead c v with
    | none => []
    | some (u, z) =>
      if h.halted then [(.tradeWhileHalted, .instrument i, [u, z, seq.toNat])]
      else
        match h.hold with
        | none => []
        | some o =>
          [(.holdSuperseded, .instrument i, [o.price, o.size, if bandTakes r (quantize r.base u) then 0 else 1])]) ++
  match r.partTaken c time v with
  | none => []
  | some p =>
    if r.eligible = true ∧ full = true then [(.printDropped, .instrument i, [p.price, p.size, p.captured.toNat])]
    else []

/-- A link is another but for what the choice of a frame changes: the wire, the round-robin places and the last frame
times (R108, R111). -/
structure SameLink (a b : Link) : Prop where
  link : b =
    { a with wire := b.wire, lastSet := b.lastSet, lastCells := b.lastCells, positions := b.positions }
  positions : ∀ p : Fin 16, b.positions[p] = { a.positions[p] with lastFrame := b.positions[p].lastFrame }

/-- A logical module after its target image has been recomputed from the record of its instrument (R106, R123): its flash
timer is stopped while the instrument is halted, and otherwise starts, or restarts, when a glyph of cells 0 to 4 has
changed and the flash time is not 0. -/
def LogicalModule.showing (m : LogicalModule) (r : Instrument) (now : Time) (flashTime : Nat) : LogicalModule :=
  { m with
    image := boardImage r
    flash :=
      if r.halted then none
      else if (∀ c : Fin 12, c.val ≤ 4 → (boardImage r)[c] = m.image[c]) ∨ flashTime = 0 then m.flash
      else some now }

/-- What the change notices of some instruments do on a link (R84, R106): the target image of each logical module that
shows one of them is recomputed, on a running link, and no other changes. -/
def State.Recomputed (s t : State) (noticed : Nat → Prop) : Prop :=
  ∀ k : Fin 8,
    (∀ m : Fin 16,
      (∀ i r, s.links[k].running = true → s.shows k m = some i → noticed i → t.instrument? i = some r →
        t.links[k].modules[m] = s.links[k].modules[m].showing r s.ctl.timeBase s.flashTime) ∧
      (s.links[k].running = false ∨ (∀ i, s.shows k m = some i → ¬ noticed i) →
        t.links[k].modules[m] = s.links[k].modules[m])) ∧
    SameLink { s.links[k] with modules := t.links[k].modules } t.links[k]

/-- What a change notice for instrument `i` does, with or without a trade part (R84): the print of a taken trade of an
eligible instrument joins the Print Queue, or is dropped at 128 prints with FULL set (R145, R146); each watching line
that is not OFF queues one QUOTE entry, or keeps the one it has (R176, R177); each running link recomputes the target
images that show the instrument (R106, R123). Where no notice is `sent`, none of it happens. `r` is the record before
the notice and `r'` after it. -/
structure NoticeSent (i : Nat) (r r' : Instrument) (part : Option TradePart) (sent : Prop) (s t : State) : Prop where
  noPrint : part = none ∨ r.eligible = false → t.tape = s.tape ∧ r'.full = r.full
  print : ∀ p, part = some p → r.eligible = true → s.tape.queue.length < 128 →
    t.tape = { s.tape with queue := s.tape.queue ++ [⟨i, p.price, r.base, p.size, p.captured⟩] } ∧ r'.full = r.full
  dropped : ∀ p, part = some p → r.eligible = true → 128 ≤ s.tape.queue.length → t.tape = s.tape ∧ r'.full = true
  watching : sent → ∀ n ∈ r.watchers, s.lines[n].state ≠ .off →
    t.lines[n] =
      { s.lines[n] with
        out := if .quote i ∈ s.lines[n].out then s.lines[n].out else s.lines[n].out ++ [.quote i] }
  others : ∀ n : Fin 16, ¬ sent ∨ n ∉ r.watchers ∨ s.lines[n].state = .off → t.lines[n] = s.lines[n]
  boards : s.Recomputed t (fun j => sent ∧ j = i)

/-- What the application of a commit to instrument `i` may change besides its record: the fault log, the Ticker
Unit's print queue, the lines' outbound queues, the links, and what is posted. -/
structure AppliesTo (i : Nat) (s t : State) : Prop where
  others : ∀ j, j ≠ i → t.instrument? j = s.instrument? j
  tbl : t.tbl = { s.tbl with instruments := t.tbl.instruments }
  count : t.tbl.instruments.length = s.tbl.instruments.length
  ram : t.mem.ram = s.mem.ram
  guards : t.mem.guards = s.mem.guards ∧ t.mem.guardLock = s.mem.guardLock ∧ t.mem.trap = s.mem.trap
  rst : t.rst = s.rst
  ctl : t.ctl = { s.ctl with log := t.ctl.log, writeBack := t.ctl.writeBack }
  kept : s.ctl.writeBack.Kept t.ctl.writeBack
  flashTime : t.flashTime = s.flashTime
  drive : t.drive = s.drive
  load : t.load = s.load
  tape : t.tape = { s.tape with queue := t.tape.queue }
  lines : ∀ n : Fin 16, t.lines[n] = { s.lines[n] with out := t.lines[n].out }
  service : t.service = s.service
  pending : t.pending = s.pending

/-- The application of a commit to instrument `i`, whose record is `r` before it and `r'` after it: the record by the
four steps, the faults in order behind those `before` them, and one change notice if the halted or fast flag, the bid
or the ask has changed or a trade has been taken (R80 to R84). -/
structure CommitApplied (i : Nat) (r r' : Instrument) (c : CommitFlags) (seq : BitVec 12) (time : Time)
    (v : Vector (Option Word) 7) (before : List Posting) (s t : State) : Prop where
  record : t.instrument? i = some r'
  value : r' = { r.afterCommit s.ctl.timeBase c time v with full := r'.full }
  scope : AppliesTo i s t
  faults : FaultsPosted s t (before ++ r.commitFaults i seq c time v (decide (128 ≤ s.tape.queue.length)))
  notice :
    let part := r.partTaken c time v
    NoticeSent i r r' part
      (r'.halted ≠ r.halted ∨ r'.fast ≠ r.fast ∨ r'.bid ≠ r.bid ∨ r'.ask ≠ r.ask ∨ part.isSome = true) s t

/-- Every link is as it was but for what the choice of a frame changes. -/
def SameBoards (s t : State) : Prop := ∀ k : Fin 8, SameLink s.links[k] t.links[k]

/-- The limit reason log of `t` is the flags `old` joined, flag by flag, with the six reasons as they stand in `t`: a flag
is set with its reason, and stays set (R141). -/
def LogJoins (old : Reasons) (t : State) : Prop :=
  t.drive.log =
    ⟨old.stage || decide (0 < t.drive.governor.stage), old.warm || t.drive.warm.taken,
      old.lwarn || t.drive.lwarn.taken, old.llow || t.drive.llow.taken, old.hot || t.drive.hotLatch,
      old.tripDisabled || t.anyTripDisabled⟩

/-- What an event of the floor leaves alone: all but the links, the Drive Protection Unit, the fault log, the command
record, the handed writes and what is posted. The limit reason log takes up the reasons that hold after it (R141), and a
still ribbon presents the brightness then commanded, while any other keeps the presented one until its next step (R156).
-/
structure FloorOnly (s t : State) : Prop where
  ram : t.mem.ram = s.mem.ram
  guards : t.mem.guards = s.mem.guards ∧ t.mem.guardLock = s.mem.guardLock ∧ t.mem.trap = s.mem.trap
  refresh : t.mem.refresh = s.mem.refresh
  rst : t.rst = s.rst
  ctl : t.ctl =
    { s.ctl with
      command := t.ctl.command
      alert := t.ctl.alert
      log := t.ctl.log
      writeBack := t.ctl.writeBack }
  kept : s.ctl.writeBack.Kept t.ctl.writeBack
  tbl : t.tbl = s.tbl
  load : t.load = s.load
  cap : t.cap = s.cap
  flashTime : t.flashTime = s.flashTime
  limitLog : LogJoins s.drive.log t
  tape : t.tape =
    { s.tape with
      portBrightness := if s.tape.condition = .still then t.ribbonBrightness else s.tape.portBrightness }
  lines : t.lines = s.lines
  service : t.service = s.service
  pending : t.pending = s.pending

/-- Logical module `m` of a link has moved to another position, or to NONE (R112, R117): the position it left goes from
ACTIVE to IDLE, the one it enters goes from IDLE to ACTIVE with its shown values unknown, and each keeps its kind, its
counts and its trip-disable flag (R128). -/
structure Moved (m : Fin 16) (dest : Option (Fin 16)) (a b : Link) : Prop where
  target : b.modules[m] = { a.modules[m] with target := dest }
  others : ∀ j : Fin 16, j ≠ m → b.modules[j] = a.modules[j]
  link : b =
    { a with
      wire := b.wire, lastSet := b.lastSet, lastCells := b.lastCells, positions := b.positions, modules := b.modules }
  entered : ∀ y, dest = some y →
    b.positions[y] =
      { a.positions[y] with
        state := if a.positions[y].state = .idle then .active else a.positions[y].state
        shownImage := none
        shownSetting := none
        lastFrame := b.positions[y].lastFrame }
  left : ∀ x, a.modules[m].target = some x → dest ≠ some x →
    b.positions[x] =
      { a.positions[x] with
        state := if a.positions[x].state = .active then .idle else a.positions[x].state
        lastFrame := b.positions[x].lastFrame }
  rest : ∀ p : Fin 16, a.modules[m].target ≠ some p → dest ≠ some p →
    b.positions[p] = { a.positions[p] with lastFrame := b.positions[p].lastFrame }

/-- The automatic remap of R116, from a link whose position `p` has entered ABSENT or FAILED: the logical module that
targets it moves to the IDLE spare with the lowest chain position, or to NONE. -/
structure RemapsAway (p : Fin 16) (a b : Link) : Prop where
  untargeted : a.targetedBy p = none → SameLink a b
  moved : ∀ m, a.targetedBy p = some m → Moved m a.idleSpare a b

/-- What the taking of LOAD clears, whether or not its directory address is good (R23, R53, R125, R144, R161, R162);
the guards, the log, the governor and the rest of the drive stand. A Capture part cycle that waits is withdrawn, and the
word of one on the port will be discarded (R53); handed capture words that wait are lost (log entry 10), and so are the
frames of an earlier broadcast blank that have not gone out (log entry 38). -/
structure ClearedForLoad (s t : State) : Prop where
  tbl : t.tbl = InstrumentTable.empty
  cap : t.cap = CaptureUnit.empty
  withdrawn : ∀ p ∈ t.mem.parts, p.source ≠ .fetch ∧ p.source ≠ .phase2
  discarded : ∀ p b, s.mem.port = some (.part p b) → p.source = .fetch ∨ p.source = .phase2 →
    t.mem.port = some (.part p true)
  handed : ∀ h, h ∈ t.handed ↔ h ∈ s.handed.drop 1 ∧ ∃ off w, h = .control off w
  links : ∀ k : Fin 8, t.links[k] = { Link.cleared with wire := t.links[k].wire }
  wires : ∀ k : Fin 8, t.links[k].wire =
    match s.links[k].wire with
    | .sending f _ _ => .sending f [.blankCells, .blankSet] false
    | _ => .sending .blankCells [.blankSet] false
  lines : ∀ n : Fin 16, t.lines[n] = Line.off
  tape : t.tape =
    { s.tape with
      queue := []
      buffer := []
      held := []
      mode := .punctual
      lateness := 0
      hold := false
      condition := .blanking 480
      loadedInBlankOut := false
      phase := 0
      interval := .blankOut }
  drive : t.drive = { s.drive with log := t.drive.log }
  limitLog : LogJoins s.drive.log t
  ram : t.mem.ram = s.mem.ram
  guards : t.mem.guards = s.mem.guards ∧ t.mem.guardLock = s.mem.guardLock ∧ t.mem.trap = s.mem.trap
  refresh : t.mem.refresh = s.mem.refresh
  rst : t.rst = s.rst
  log : t.ctl.log = s.ctl.log ∧ t.ctl.inbox = s.ctl.inbox ∧ t.ctl.timeBase = s.ctl.timeBase ∧
    t.ctl.latches = s.ctl.latches ∧ t.ctl.causes = s.ctl.causes
  kept : s.ctl.writeBack.Kept t.ctl.writeBack
  flashTime : t.flashTime = s.flashTime
  service : t.service = s.service
  pending : t.pending = s.pending

/-! ### The words that the part writes (para 10.2) -/

/-- A flag as 0 or 1. -/
def flagBit (b : Bool) : Nat := if b then 1 else 0

/-- Six limit reasons from the lowest bit of their half: STAGE>0, WARM, LWARN, LLOW, HOT, TRIP-DISABLED (para 10.2). -/
def reasonBits (r : Reasons) : Nat :=
  flagBit r.stage + 2 * flagBit r.warm + 4 * flagBit r.lwarn + 8 * flagBit r.llow + 16 * flagBit r.hot +
    32 * flagBit r.tripDisabled

/-- The numbers of the result codes (para 10.2). -/
def resultNumbers : List (ResultCode × Nat) :=
  [(.unknown, 1), (.notLoaded, 2), (.badParameter, 3), (.locked, 4), (.heldPrices, 5), (.noHold, 6), (.notIdle, 7),
    (.homeNotReady, 8), (.stillHot, 9), (.driveOff, 10), (.notMuted, 11), (.badCount, 16), (.badLinkBlock, 17),
    (.badGovernorBlock, 18), (.badTickerBlock, 19), (.badLineBlock, 20), (.watchRange, 21), (.watchRepeated, 22),
    (.badSymbol, 23), (.duplicateSymbol, 24), (.badFractionBase, 25), (.recordMisaligned, 26),
    (.recordInControlArea, 27), (.recordOverlap, 28), (.moduleRange, 29), (.moduleSpare, 30), (.moduleTwice, 31),
    (.directoryBeyondMemory, 32), (.directoryParity, 33)]

/-- The words that the part writes in place, bit by bit (para 10.2), for fields that lie in their ranges. -/
structure TableLayout (s : State) : Prop where
  resetCause : ∃ w, s.tableWords .resetCause = [w] ∧
    w.toNat = flagBit s.ctl.causes.power + 2 * flagBit s.ctl.causes.external + 4 * flagBit s.ctl.causes.supply
  partState : ∃ w, s.tableWords .partState = [w, s.tbl.dayNumber] ∧
    w.toNat = match s.ctl.partState with
      | .unloaded => 0
      | .loading => 1
      | .running => 2
  commandStatus : s.ctl.command.detail < 1024 →
    ∃ a b, s.tableWords .commandStatus = [a, b] ∧
      (s.ctl.command.result = none → a.toNat = s.ctl.command.detail) ∧
      (∀ c n, s.ctl.command.result = some c → (c, n) ∈ resultNumbers → a.toNat = 1024 * n + s.ctl.command.detail) ∧
      b.toNat = s.ctl.command.seq.toNat + 16384 * (match s.ctl.command.state with
        | .idle => 0
        | .running => 1
        | .done => 2
        | .refused => 3)
  refusal : ∃ w, s.tableWords .refusal = [w] ∧
    w.toNat = 16384 * flagBit s.ctl.refusal.busy + s.ctl.refusal.seq.toNat
  driveState : ∃ w, s.tableWords .driveState = [w] ∧
    w.toNat = flagBit s.drive.hotLatch + 2 * flagBit s.drive.warm.taken + 4 * flagBit s.drive.lwarn.taken +
      8 * flagBit s.drive.llow.taken +
      (([0, 1, 2, 3, 4, 5, 6, 7] : List (Fin 8)).map (fun k => 2 ^ (8 + k.val) * flagBit s.links[k].driveEnable)).sum
  limitReasons : ∃ w, s.tableWords .limitReasons = [w] ∧
    w.toNat =
      reasonBits
        ⟨decide (0 < s.drive.governor.stage), s.drive.warm.taken, s.drive.lwarn.taken, s.drive.llow.taken,
          s.drive.hotLatch, s.anyTripDisabled⟩ + 256 * reasonBits s.drive.log
  governorStage : s.drive.governor.stage ≤ 4 →
    ∃ w, s.tableWords .governorStage = [w] ∧ w.toNat = s.drive.governor.stage
  tickerState : s.tape.queue.length ≤ 128 →
    ∃ a b, s.tableWords .tickerState = [a, b] ∧
      a.toNat = 256 * s.tape.queue.length + 4 * flagBit s.tape.hold + (match s.tape.mode with
        | .punctual => 0
        | .late => 1
        | .deleted => 2) ∧
      b.toNat = min (s.tape.lateness.toNat / 1000) 65535
  faultStatus : ∃ w, s.tableWords .faultStatus = [w] ∧
    w.toNat = s.ctl.log.writeIndex.toNat + 256 * s.ctl.log.readIndex.toNat + 32768 * flagBit s.ctl.log.overflowMark
  inboxStatus : ∃ w, s.tableWords .inboxStatus = [w] ∧
    w.toNat = s.ctl.inbox.writeIndex.toNat + 256 * s.ctl.inbox.readIndex.toNat
  moduleWord : ∀ (k : Fin 8) (p : Fin 16), s.links[k].positions[p].trips ≤ 3 →
    ∃ w, s.tableWords (.moduleWord k p) = [w] ∧
      w.toNat % 4 = (match s.links[k].positions[p].kind with
        | .notFitted => 0
        | .home => 1
        | .spare => 2) ∧
      w.toNat / 4 % 8 = (if s.links[k].positions[p].kind = .notFitted then 0
        else match s.links[k].positions[p].state with
          | .unknown => 0
          | .active => 1
          | .idle => 2
          | .tripped => 3
          | .absent => 4
          | .failed => 5) ∧
      w.toNat / 32 % 8 = s.links[k].positions[p].trips ∧
      (∀ t, s.links[k].positions[p].kind = .home → s.links[k].modules[p].target = some t →
        w.toNat / 256 = 16 * k.val + t.val) ∧
      (s.links[k].positions[p].kind = .home → s.links[k].modules[p].target = none → w.toNat / 256 = 0xFF) ∧
      (s.links[k].positions[p].kind ≠ .home → w.toNat / 256 = 0xFF)
  lineWord : ∀ n : Fin 16, s.lines[n].cls ≤ 3 → s.lines[n].watch.length ≤ 24 →
    ∃ w, s.tableWords (.lineWord n) = [w] ∧
      w.toNat = 256 * s.lines[n].watch.length + 32 * s.lines[n].cls +
        4 * (match s.lines[n].rate with
          | .none => 0
          | .b1200 => 1
          | .b2400 => 2
          | .b4800 => 3
          | .b9600 => 4) +
        (match s.lines[n].state with
          | .off => 0
          | .active => 1
          | .dozing => 2
          | .muted => 3)

/-- The offsets in the Control Area of the words that the part writes in place (paras 2.1 and 10.2). -/
def OffsetsGiven : Prop :=
  TableWord.offset .resetCause = 0x20 ∧ TableWord.offset .partState = 0x21 ∧
  TableWord.offset .commandStatus = 0x23 ∧ TableWord.offset .refusal = 0x25 ∧
  TableWord.offset .driveState = 0x26 ∧ TableWord.offset .limitReasons = 0x27 ∧
  TableWord.offset .governorStage = 0x28 ∧ TableWord.offset .tickerState = 0x29 ∧
  TableWord.offset .faultStatus = 0x2B ∧ TableWord.offset .inboxStatus = 0x2C ∧
  (∀ (k : Fin 8) (p : Fin 16), TableWord.offset (.moduleWord k p) = 0x40 + (16 * k.val + p.val)) ∧
  ∀ n : Fin 16, TableWord.offset (.lineWord n) = 0xC0 + n.val

/-- Where the words of an entry stand in the Control Area: a table entry at its word's offset, fault record `k` at
100H + 16k, inbox slot `k` at 300H + 18k, each with its words as posted (para 2.1). -/
def EntryPlaces : Prop :=
  (∀ t ws, (WbEntry.table t ws).offset = t.offset ∧ (WbEntry.table t ws).words = ws) ∧
  (∀ k ws, (WbEntry.faultRecord k ws).offset = 0x100 + 16 * k.toNat ∧ (WbEntry.faultRecord k ws).words = ws) ∧
  ∀ k l q ws, (WbEntry.inboxSlot k l q ws).offset = 0x300 + 18 * k.toNat ∧ (WbEntry.inboxSlot k l q ws).words = ws

/-! ### The directory (R41 to R52, para 10.4) -/

/-- Word `i` of a header or of an entry, as a number; 0 beyond its end. -/
def numAt (ws : List Word) (i : Nat) : Nat := (ws.getD i 0).toNat

/-- Index `j` of the watch list of line `l` passes its two checks: it is below the count and differs from those before
it (R48). -/
def WatchIndexGood (ws : List Word) (l : Fin 16) (j : Nat) : Prop :=
  numAt ws (68 + 28 * l.val + j) < numAt ws 0 ∧
    ∀ h < j, numAt ws (68 + 28 * l.val + h) ≠ numAt ws (68 + 28 * l.val + j)

/-- A line block is bad in its rate, its class or its watch count (R48). -/
def LineBlockBad (ws : List Word) (l : Fin 16) : Prop :=
  4 < numAt ws (64 + 28 * l.val) ∨ (numAt ws (64 + 28 * l.val) ≠ 0 ∧ 3 < numAt ws (65 + 28 * l.val)) ∨
    24 < numAt ws (67 + 28 * l.val) ∨ (numAt ws (64 + 28 * l.val) = 0 ∧ numAt ws (67 + 28 * l.val) ≠ 0)

/-- The checks of the header, each at the last word that it looks at: the count at word 0, link `k` at word 18 + 4k, the
governor at word 50, the ticker at word 60, line `l` at word 91 + 28l, and none at any other (R47, R48, R50, R54). -/
structure HeaderChecks (ws : List Word) : Prop where
  count : headerCheck ws 0 = if 1 ≤ numAt ws 0 ∧ numAt ws 0 ≤ 512 then none else some (.badCount, 0)
  links : ∀ k : Fin 8, headerCheck ws (18 + 4 * k.val) =
    if 1 ≤ numAt ws (16 + 4 * k.val) ∧ numAt ws (16 + 4 * k.val) ≤ 16 ∧ numAt ws (17 + 4 * k.val) ≤ 2 ∧
        numAt ws (17 + 4 * k.val) < numAt ws (16 + 4 * k.val) ∧ numAt ws (18 + 4 * k.val) ≤ 2 then none
    else some (.badLinkBlock, k.val)
  governor : headerCheck ws 50 =
    if numAt ws 49 ≤ 3 ∧ numAt ws 50 ≤ 5 then none else some (.badGovernorBlock, 0)
  ticker : headerCheck ws 60 = if numAt ws 56 ≤ 1 ∧ numAt ws 60 ≤ 7 then none else some (.badTickerBlock, 0)
  lineBlocks : ∀ l : Fin 16, LineBlockBad ws l → headerCheck ws (91 + 28 * l.val) = some (.badLineBlock, l.val)
  lineIndexes : ∀ l : Fin 16, ¬ LineBlockBad ws l →
    ((∀ j < numAt ws (67 + 28 * l.val), WatchIndexGood ws l j) → headerCheck ws (91 + 28 * l.val) = none) ∧
    ∀ j < numAt ws (67 + 28 * l.val), (∀ i < j, WatchIndexGood ws l i) → ¬ WatchIndexGood ws l j →
      headerCheck ws (91 + 28 * l.val) =
        some (if numAt ws 0 ≤ numAt ws (68 + 28 * l.val + j) then .watchRange else .watchRepeated, l.val)
  others : ∀ n < 512, n ≠ 0 → n ≠ 50 → n ≠ 60 → (∀ k : Fin 8, n ≠ 18 + 4 * k.val) →
    (∀ l : Fin 16, n ≠ 91 + 28 * l.val) → headerCheck ws n = none

/-- The five symbol characters of an entry: the high byte of its first word first (para 10.4). -/
def symbolChars (e : List Word) : List Nat :=
  [numAt e 0 / 256, numAt e 0 % 256, numAt e 1 / 256, numAt e 1 % 256, numAt e 2 / 256]

/-- A text of 1 to 5 letters A to Z that blanks make up to the five characters of an entry (R51). -/
def IsSymbol (e : List Word) (text : List Byte) : Prop :=
  1 ≤ text.length ∧ text.length ≤ 5 ∧ (∀ c ∈ text, 0x41 ≤ c.toNat ∧ c.toNat ≤ 0x5A) ∧
    symbolChars e = text.map (·.toNat) ++ List.replicate (5 - text.length) 0x20

/-- A board slot of an entry names logical module `m`: FFFFH names none (para 10.4). -/
def NamesModule (e : List Word) (m : Nat) : Prop := m ≠ 0xFFFF ∧ (numAt e 12 = m ∨ numAt e 13 = m)

/-- A record shows logical module `m`. -/
def Instrument.Shows (r : Instrument) (m : Nat) : Prop := r.slot1 = some m ∨ r.slot2 = some m

/-- The nine checks of an entry, in the order of R52: what makes each fail, given that those before it pass, and that an
entry that fails none passes. -/
structure EntryChecks (size : MemSize) (header : List Word) (built : List Instrument) (e : List Word) : Prop where
  badSymbol : (∀ text, ¬ IsSymbol e text) → entryCheck size header built e = some .badSymbol
  later : ∀ text, IsSymbol e text →
    let addr := numAt e 3 * 65536 + numAt e 4
    let chain (m : Nat) : Nat := numAt header (16 + 4 * (m / 16))
    let spares (m : Nat) : Nat := numAt header (17 + 4 * (m / 16))
    let duplicate := ∃ r ∈ built, r.symbol = text
    let baseBad := numAt e 5 ≠ 4 ∧ numAt e 5 ≠ 8 ∧ numAt e 5 ≠ 16
    let overlap := ∃ r ∈ built, r.recordAddr = addr
    let range := ∃ m, NamesModule e m ∧ (127 < m ∨ chain m ≤ m % 16)
    let spare := ∃ m, NamesModule e m ∧ chain m - spares m ≤ m % 16
    let twice := (numAt e 12 = numAt e 13 ∧ numAt e 12 ≠ 0xFFFF) ∨ ∃ m, NamesModule e m ∧ ∃ r ∈ built, r.Shows m
    let answer := entryCheck size header built e
    (duplicate → answer = some .duplicateSymbol) ∧
    (¬ duplicate → baseBad → answer = some .badFractionBase) ∧
    (¬ duplicate → ¬ baseBad →
      (addr % 8 ≠ 0 → answer = some .recordMisaligned) ∧
      (addr % 8 = 0 → size.words - 4096 ≤ addr → answer = some .recordInControlArea) ∧
      (addr % 8 = 0 → addr < size.words - 4096 →
        (overlap → answer = some .recordOverlap) ∧
        (¬ overlap → range → answer = some .moduleRange) ∧
        (¬ overlap → ¬ range → spare → answer = some .moduleSpare) ∧
        (¬ overlap → ¬ range → ¬ spare → twice → answer = some .moduleTwice) ∧
        (¬ overlap → ¬ range → ¬ spare → ¬ twice → answer = none)))

/-- The record built from entry `i` (R41, R49, R51): its fields from the entry, the hold timeout clamped and the close
quantized, its watcher set from the line blocks, and every other field at its default. -/
structure RecordBuilt (header : List Word) (i : Nat) (e : List Word) (r : Instrument) : Prop where
  symbol : ∀ text, IsSymbol e text → r.symbol = text
  base : r.base.den = numAt e 5
  watchers : ∀ n : Fin 16, n ∈ r.watchers ↔
    ∃ j < numAt header (67 + 28 * n.val), numAt header (68 + 28 * n.val + j) = i
  fields : r =
    { symbol := r.symbol
      recordAddr := numAt e 3 * 65536 + numAt e 4
      base := r.base
      band := numAt e 6 * 65536 + numAt e 7
      holdTimeout := max 5 (min (numAt e 8) 255)
      close := if numAt e 9 % 2 = 1 then some (quantize r.base (numAt e 10 * 65536 + numAt e 11)) else none
      last := none
      high := none
      low := none
      lastSize := 0
      volume := 0
      tick := .none
      bid := none
      ask := none
      halted := false
      fast := false
      offIncrement := false
      lastSeq := 0
      slot1 := if numAt e 12 = 0xFFFF then none else some (numAt e 12)
      slot2 := if numAt e 13 = 0xFFFF then none else some (numAt e 13)
      eligible := decide (numAt e 9 / 2 % 2 = 1)
      watchers := r.watchers
      hold := none
      lastPrintedWhole := none
      full := false
      fetchOnCommit := false }

/-- Two texts are in the order of the Symbol Index: letter by letter from the left, the shorter first (R42). -/
def SymbolLess (a b : List Byte) : Prop := List.Lex (fun x y => x.toNat < y.toNat) a b

/-- The table that phase 1 leaves (R42, R43, R45, R56): the Symbol Index in ascending order, the Record Index with each
record's address, the quote window from the lowest record address to the highest + 7, and the board map. -/
structure TableBuilt (rs : List Instrument) (t : InstrumentTable) : Prop where
  instruments : t.instruments = rs
  dayNumber : t.dayNumber = 0
  symbols : t.symbolIndex.Perm (List.range rs.length)
  ascending : t.symbolIndex.Pairwise (fun i j =>
    ∀ a b, rs[i]? = some a → rs[j]? = some b → ¬ SymbolLess b.symbol a.symbol)
  records : ∀ i : Nat, t.recordIndex[i]? = rs[i]?.map (fun r => (r.recordAddr, i))
  noWindow : rs = [] → t.quoteWindow = none
  window : rs ≠ [] → ∃ lo hi, t.quoteWindow = some (lo, hi + 7) ∧
    (∃ r ∈ rs, r.recordAddr = lo) ∧ (∃ r ∈ rs, r.recordAddr = hi) ∧ ∀ r ∈ rs, lo ≤ r.recordAddr ∧ r.recordAddr ≤ hi
  shown : ∀ (m : Fin 128) (i : Nat), t.boardMap[m] = some i → ∃ r, rs[i]? = some r ∧ r.Shows m.val
  unshown : ∀ m : Fin 128, t.boardMap[m] = none → ∀ r ∈ rs, ¬ r.Shows m.val
  writes : (∀ r ∈ rs, r.recordAddr % 8 = 0) → rs.Pairwise (fun a b => a.recordAddr ≠ b.recordAddr) →
    ∀ a i n : Nat, t.recordOf a = some (i, n) ↔ ∃ r, rs[i]? = some r ∧ n < 8 ∧ a = r.recordAddr + n

/-! ### The end of LOAD (R61, R102, R126, R138, R161) -/

/-- What the end of a LOAD that ends DONE hands to the units, from the header and from the records as they then
stand. -/
structure LoadEnds (header : List Word) (s t : State) : Prop where
  load : t.load = .idle
  dayNumber : t.tbl.dayNumber = 0
  partState : t.ctl.partState = .running
  command : t.ctl.command = { s.ctl.command with state := .done, result := none, detail := 0 }
  commandCause : t.ctl.alert.commandCause = true
  posted : ∀ x ∈ [.partState, .commandStatus] ++ moduleTable ++ lineTable, t.Posted x
  flashTime : t.flashTime = numAt header 60
  links : ∀ k : Fin 8, t.links[k] =
    { s.links[k] with
      running := true
      chainLength := numAt header (16 + 4 * k.val)
      spareCount := numAt header (17 + 4 * k.val)
      policy := t.links[k].policy
      positions := t.links[k].positions
      modules := t.links[k].modules
      wire := t.links[k].wire
      lastSet := t.links[k].lastSet
      lastCells := t.links[k].lastCells }
  policies : ∀ k : Fin 8, numAt header (18 + 4 * k.val) ≤ 2 → numAt header (18 + 4 * k.val) =
    match t.links[k].policy with
    | .moduleOnly => 0
    | .link => 1
    | .board => 2
  positions : ∀ (k : Fin 8) (p : Fin 16), t.links[k].positions[p] =
    { s.links[k].positions[p] with
      kind :=
        if p.val < numAt header (16 + 4 * k.val) - numAt header (17 + 4 * k.val) then .home
        else if p.val < numAt header (16 + 4 * k.val) then .spare
        else .notFitted
      state := .unknown
      missed := 0
      shownImage := none
      shownSetting := none
      lastFrame := s.ctl.timeBase }
  modules : ∀ (k : Fin 8) (m : Fin 16),
    t.links[k].modules[m].target = some m ∧ t.links[k].modules[m].flash = none ∧
    (s.shows k m = none → t.links[k].modules[m].image = Image.blank) ∧
    ∀ i r, s.shows k m = some i → t.instrument? i = some r → t.links[k].modules[m].image = boardImage r
  governor : t.drive =
    { s.drive with
      log := t.drive.log
      governor :=
        { s.drive.governor with
          limitWord := header.getD 48 0
          x := numAt header 49
          y := numAt header 50
          window := []
          count := 0 } }
  limitLog : LogJoins s.drive.log t
  block : t.tape.block =
    ⟨if numAt header 56 = 0 then .slow else .normal, max 5 (min (numAt header 57) 600),
      max (max 5 (min (numAt header 57) 600)) (max 5 (min (numAt header 58) 600)), numAt header 59⟩
  ribbonRuns : s.tape.condition = .still →
    t.tape =
      { s.tape with
        block := t.tape.block
        condition := .running
        loadedInBlankOut := false
        interval := if s.tape.mode = .punctual then t.tape.block.baseSpeed else .fast }
  ribbonWaits : ∀ left, s.tape.condition = .blanking left →
    t.tape = { s.tape with block := t.tape.block, loadedInBlankOut := true }
  ribbonGoesOn : s.tape.condition = .running → t.tape = { s.tape with block := t.tape.block }
  absentLines : ∀ n : Fin 16, numAt header (64 + 28 * n.val) = 0 → t.lines[n] = s.lines[n]
  linesUp : ∀ (n : Fin 16) (b : Rate), rateOfCode (header.getD (64 + 28 * n.val) 0) = some b → b ≠ .none →
    let doze := if numAt header (66 + 28 * n.val) = 0 then 0 else max 30 (min (numAt header (66 + 28 * n.val)) 3600)
    let cls := numAt header (65 + 28 * n.val)
    t.lines[n] =
      { s.lines[n] with
        rate := b
        cls := cls
        doze := doze
        state := if cls = 0 then .muted else .active
        dozeTimer := if doze = 0 then none else some s.ctl.timeBase
        out := t.lines[n].out } ∧
    (cls = 0 → t.lines[n].out = s.lines[n].out) ∧
    (cls ≠ 0 → s.lines[n].out = [] → s.lines[n].watch.Nodup → t.lines[n].out = s.lines[n].watch.map OutEntry.quote)
  ram : t.mem.ram = s.mem.ram
  guards : t.mem.guards = s.mem.guards ∧ t.mem.guardLock = s.mem.guardLock ∧ t.mem.trap = s.mem.trap
  rst : t.rst = s.rst
  log : t.ctl.log = s.ctl.log ∧ t.ctl.inbox = s.ctl.inbox ∧ t.ctl.timeBase = s.ctl.timeBase
  kept : s.ctl.writeBack.Kept t.ctl.writeBack
  handed : t.handed = s.handed
  service : t.service = s.service
  pending : t.pending = s.pending

/-! ### Texts -/

/-- The text of a number in decimal, without leading zeros. -/
def IsDecimal (text : List Byte) (n : Nat) : Prop :=
  1 ≤ text.length ∧ (1 < text.length → 10 ^ (text.length - 1) ≤ n) ∧ n < 10 ^ text.length ∧
    ∀ j < text.length, text[text.length - 1 - j]? = some (BitVec.ofNat 8 (0x30 + n / 10 ^ j % 10))

/-- A character is the hexadecimal digit of a value: 0 to 9, or a capital A to F (R186). -/
def IsHex (c : Byte) (v : Nat) : Prop := v < 16 ∧ c.toNat = if v < 10 then 0x30 + v else 0x37 + v

/-! ### Laws that every step keeps -/

/-- The part cycles of some sources that wait in the queue or are on the port. -/
def State.cyclesOf (s : State) (which : PartSource → Bool) : Nat :=
  s.mem.parts.countP (fun p => which p.source) +
    match s.mem.port with
    | some (.part p _) => if which p.source then 1 else 0
    | _ => 0

/-- What the spec bounds in the Memory Path (R14, R16): at most 8 refresh requests are postponed, no part cycle counts
more than 16 grants that passed it over, each of the four blocks has at most one part cycle in the queue or on the port,
and so the queue holds at most four. -/
structure State.PortBounded (s : State) : Prop where
  postponed : s.mem.refresh.postponed ≤ 8
  passed : ∀ p ∈ s.mem.parts, p.passed ≤ 16
  capture : s.cyclesOf (fun p => p == .fetch || p == .phase2) ≤ 1
  directory : s.cyclesOf (· == .directory) ≤ 1
  writeBack : s.cyclesOf (· == .writeBack) ≤ 1
  regionClear : s.cyclesOf (· == .regionClear) ≤ 1
  queue : s.mem.parts.length ≤ 4

/-- What the spec bounds in the Capture Unit (R65, R72): at most sixteen staging slots, no two for one instrument, and no
two entries of the Fetch Queue for one instrument. -/
structure State.CaptureBounded (s : State) : Prop where
  slots : s.cap.staging.length ≤ 16
  oneSlot : (s.cap.staging.map StagingSlot.instr).Nodup
  oneEntry : (s.cap.fetchQueue.map FetchEntry.instr).Nodup

/-- A price of some steps that a price of 32 bits in units can quantize to (R85). -/
def PriceInRange (b : FractionBase) (q : Nat) : Prop := q * (256 / b.den) ≤ 4294967296

/-- What the spec bounds in the Ticker Unit (R146, R151, R153): at most 128 prints, 40 characters of text and 24 of held
text. A print is of a price and a size that a quote record can give, and so is a held trade; a symbol has at most five
letters. -/
structure State.TapeBounded (s : State) : Prop where
  queue : s.tape.queue.length ≤ 128
  buffer : s.tape.buffer.length ≤ 40
  held : s.tape.held.length ≤ 24
  prints : ∀ p ∈ s.tape.queue, PriceInRange p.base p.price ∧ p.size ≤ 65535
  symbols : ∀ r ∈ s.tbl.instruments, r.symbol.length ≤ 5
  holds : ∀ r ∈ s.tbl.instruments, ∀ h, r.hold = some h → PriceInRange r.base h.price ∧ h.size ≤ 65535
  building : ∀ d, s.load = .phase1 d → ∀ r ∈ d.built, r.symbol.length ≤ 5 ∧ r.hold = none

/-- The laws of one Instrument Record: high and low are present together, with low ≤ last ≤ high, and a halted instrument
has no hold (R41, R91, R97). -/
structure Instrument.Lawful (r : Instrument) : Prop where
  together : r.low = none ↔ r.high = none
  ordered : ∀ lo hi, r.low = some lo → r.high = some hi → ∃ l, r.last = some l ∧ lo ≤ l ∧ l ≤ hi
  halted : r.halted = true → r.hold = none

/-- A record that no trade has reached: high, low and the hold are absent (R41, R57). -/
def Instrument.Untraded (r : Instrument) : Prop := r.high = none ∧ r.low = none ∧ r.hold = none

/-- Every record is lawful (R91, R97). During LOAD the table is empty until phase 1 ends, and an instrument that phase 2
has not read is untraded and has no entry in the Fetch Queue (R54, R56 to R58). -/
structure State.RecordsLawful (s : State) : Prop where
  records : ∀ r ∈ s.tbl.instruments, r.Lawful
  phase1 : ∀ d, s.load = .phase1 d →
    s.tbl.instruments = [] ∧ s.cap.fetchQueue = [] ∧ ∀ r ∈ d.built, r.Untraded
  phase2 : ∀ p, s.load = .phase2 p →
    (∀ i r, p.instr ≤ i → s.instrument? i = some r → r.Untraded) ∧ ∀ e ∈ s.cap.fetchQueue, e.instr < p.instr

/-- The law of the physical targets on one link (R103): a position is the target of at most one logical module, and one
in ABSENT or FAILED of none; nor is an IDLE one, which REMAP and RESTORE may move a module to (R117 to R119). -/
structure Link.TargetsLawful (l : Link) : Prop where
  one : ∀ m m' p : Fin 16, l.positions[m].kind = .home → l.positions[m'].kind = .home →
    l.modules[m].target = some p → l.modules[m'].target = some p → m = m'
  live : ∀ m p : Fin 16, l.positions[m].kind = .home → l.modules[m].target = some p →
    l.positions[p].state ≠ .absent ∧ l.positions[p].state ≠ .failed ∧ l.positions[p].state ≠ .idle

/-- The law of the physical targets, on every link (R103). -/
def State.TargetsLawful (s : State) : Prop := ∀ k : Fin 8, s.links[k].TargetsLawful

/-- The entries of an outbound queue that are PAGE entries. -/
def pageCount (q : List OutEntry) : Nat :=
  q.countP (fun e => match e with
    | .page _ => true
    | _ => false)

/-- The laws of one line (R170, R174, R176): at most 24 instruments watched and none twice; in the outbound queue a QUOTE
entry only for an instrument of the watch list, one for each instrument, one PAGE entry, one NOTICE entry for each code,
four messages acknowledged or awaited, and 32 entries in all. -/
structure Line.Lawful (l : Line) : Prop where
  watch : l.watch.length ≤ 24
  watchOnce : l.watch.Nodup
  quotes : ∀ i, .quote i ∈ l.out → i ∈ l.watch
  quoteOnce : ∀ i, l.out.count (.quote i) ≤ 1
  pageOnce : pageCount l.out ≤ 1
  noticeOnce : ∀ c, l.out.count (.notice c) ≤ 1
  messages : ackCount l.out + l.awaited.length ≤ 4
  entries : l.out.length ≤ 32

/-- What phase 1 has read of the line blocks and built from them: every line block that has been read whole has passed
its checks, and the records built hold the watcher sets that the blocks give (R48, R49, R54). -/
structure DirectoryRead.LinesRead (d : DirectoryRead) : Prop where
  header : d.next < 512 → d.header.length = d.next ∧ d.built = []
  whole : 512 ≤ d.next → d.header.length = 512
  blocks : ∀ l : Fin 16, 91 + 28 * l.val < d.header.length →
    ¬ LineBlockBad d.header l ∧ ∀ j < numAt d.header (67 + 28 * l.val), WatchIndexGood d.header l j
  watchers : ∀ i r, d.built[i]? = some r → ∀ n : Fin 16, n ∈ r.watchers ↔
    ∃ j < numAt d.header (67 + 28 * n.val), numAt d.header (68 + 28 * n.val + j) = i

/-- The laws of the watch lists and of the outbound queues (R170, R176): every line is lawful, it stands in the watcher
set of exactly the instruments on its watch list, and they are instruments of the table. -/
structure State.LinesLawful (s : State) : Prop where
  lines : ∀ n : Fin 16, s.lines[n].Lawful
  agree : ∀ (n : Fin 16) i r, s.instrument? i = some r → (n ∈ r.watchers ↔ i ∈ s.lines[n].watch)
  known : ∀ (n : Fin 16), ∀ i ∈ s.lines[n].watch, i < s.tbl.instruments.length
  phase1 : ∀ d, s.load = .phase1 d → s.tbl.instruments = [] ∧ d.LinesRead

end Sys2Proof.Machine
end

