-- ==== Sys2Proof/Certificates/Slice0/Obligations.lean ====
section
/-! DEFINITION. The statements for the provers. Where a statement speaks of `u` and `v`, `u` is the state that the
rules give and `v` is `u` after posting; every next state is the grant of such a state, because the arbiter grants a
free port whenever a request waits (R16). -/

open Sys2Proof Sys2Proof.Machine

/-! ### The step and the queue of commands -/

/-- A step runs the command at the front of the queue with the queue's rest. The second clause, that the part idles on
an empty queue, is the model's choice (log entry 7). -/
def Obligations.StepRunsFront : Prop :=
  (∀ (c : Instr) (rest : List Instr) (s : State), s.pending = c :: rest →
    step s = exec c { s with pending := rest }) ∧
  ∀ s : State, s.pending = [] → step s = .next s

/-! ### Reset values -/

/-- The values at the end of a power-on reset stand in the reset state (R9, R11, R12, R14, R16, R22, R23, R26, R27, R32,
R34, R36, R37, R39, R40, R64 and the chapters 6 to 9). All of them are the spec's but those named here, which are the
model's choices: the turn of the capture reads, in CaptureUnit.empty (log entry 2, DESIGN CHOICE). A line that is OFF, an empty table and an
empty Capture Unit hold what the rules give; so does a cleared link, but for its chain length, its spare count, its
policy and the last frame times of its positions (log entry 2 too). -/
def Obligations.ResetValues : Prop :=
  let s := State.reset
  s.mem.guards = Vector.replicate 4 ⟨0, 0, .off⟩ ∧ s.mem.guardLock = false ∧ s.mem.trap = ⟨0, 0, false⟩ ∧
  s.mem.waiting = none ∧ s.mem.refresh.postponed = 0 ∧ s.mem.refresh.running = true ∧
  s.ctl.partState = .unloaded ∧ s.ctl.command.state = .idle ∧ s.ctl.command.seq = 0 ∧
  s.ctl.command.result = none ∧ s.ctl.command.detail = 0 ∧ s.ctl.refusal = ⟨0, false⟩ ∧
  s.ctl.latches = Vector.replicate 6 0 ∧ s.ctl.log = ⟨0, 0, 0, false, false⟩ ∧ s.ctl.inbox = ⟨0, 0, 0⟩ ∧
  s.ctl.alert = ⟨false, false, false, false⟩ ∧ s.ctl.causes = ⟨true, false, false⟩ ∧ s.ctl.timeBase = 0 ∧
  s.tbl = InstrumentTable.empty ∧ s.load = .idle ∧ s.cap = CaptureUnit.empty ∧
  (∀ k : Fin 8, s.links[k].running = false ∧ s.links[k].driveEnable = true) ∧
  (∀ c : Comparator, (s.drive.filter c).taken = false) ∧
  s.drive.hotLatch = false ∧ s.drive.governor.stage = 0 ∧ s.drive.governor.limitWord = 0 ∧
  s.drive.governor.x = 0 ∧ s.drive.governor.y = 0 ∧ s.drive.governor.count = 0 ∧
  s.drive.governor.window = [] ∧ s.drive.governor.lastSample = s.ctl.timeBase ∧ s.drive.log = Reasons.clear ∧
  s.drive.lampTest = none ∧ s.drive.hotCheck = none ∧
  s.tape.queue = [] ∧ s.tape.buffer = [] ∧ s.tape.mode = .punctual ∧ s.tape.hold = false ∧
  s.tape.condition = .blanking 480 ∧ s.tape.window = List.replicate 80 0x20 ∧
  s.tape.held = [] ∧ s.tape.lateness = 0 ∧ s.tape.block = ⟨.normal, 30, 90, 0⟩ ∧ s.tape.phase = 0 ∧
  (∀ n : Fin 16, s.lines[n] = Line.off) ∧ s.service = ⟨15, 15, 15⟩ ∧
  InstrumentTable.empty = ⟨[], [], [], none, Vector.replicate 128 none, 0⟩ ∧
  CaptureUnit.empty = ⟨false, [], [], none, false⟩ ∧ Reasons.clear = ⟨false, false, false, false, false, false⟩ ∧
  Line.off = ⟨.off, .none, 0, 0, [], [], [], 0, .hunting, 0, none, []⟩ ∧
  (∀ c : Fin 12, Image.blank[c] = .blank) ∧
  Link.cleared.running = false ∧ Link.cleared.chainLength = 0 ∧ Link.cleared.spareCount = 0 ∧
  Link.cleared.policy = .moduleOnly ∧ Link.cleared.wire = .sending .blankCells [.blankSet] false ∧
  Link.cleared.lastSet = 15 ∧ Link.cleared.lastCells = 15 ∧
  ∀ p : Fin 16,
    Link.cleared.modules[p] = ⟨some p, Image.blank, none⟩ ∧
      Link.cleared.positions[p] = ⟨.notFitted, .unknown, 0, 0, none, none, 0, false⟩

/-! ### Host cycles -/

/-- A host cycle that passes its checks waits for the RAM port; a write with neither strobe is ended with ACK and
makes no RAM access. Nothing else changes. The checks mean: address parity is odd over the 20 address lines, the
read/write line and the parity line; a strobed lane fails when its byte and its parity bit are not odd together; the
trap fires when it is armed and every bit that its mask names agrees; a guard window covers from its base to its
limit, both included; the owned region is offsets 020H to 77FH of the Control Area. That the read/write line carries 1
for a write, in address parity, is log entry 5 (DEDUCED). -/
def Obligations.HostCycleAdmitted : Prop :=
  (∀ (c : BusCycle) (s : State), s.mem.waiting = none → s.hostShut = false → addressGood c = true →
    c.addr.toNat < s.mem.installed.words →
    (c.write = true →
      failedLanes c = 0 ∧ s.mem.trap.fires c.addr = false ∧ s.ownedAddress c.addr = false ∧
        ∀ n : Fin 4, s.mem.guards[n].covers c.addr = false) →
    exec (.hostCycle c) s =
      .next (grant
        (if c.write = true ∧ c.upper = false ∧ c.lower = false then
          { s with mem := { s.mem with bus := some ⟨.ack, none⟩ } }
        else
          { s with mem := { s.mem with waiting := some ⟨c.addr, c.write, c.upper, c.lower, c.data⟩ } }))) ∧
  (∀ c : BusCycle,
    let ones (from_ count : Nat) : Nat := (List.range count).countP (fun i => c.data.getLsbD (from_ + i))
    (addressGood c = true ↔
      ((List.range 20).countP (fun i => c.addr.getLsbD i) + flagBit c.write + flagBit c.addrParity) % 2 = 1) ∧
    failedLanes c =
      (if c.lower = true ∧ (ones 0 8 + flagBit c.lowerParity) % 2 = 0 then 1 else 0) +
        (if c.upper = true ∧ (ones 8 8 + flagBit c.upperParity) % 2 = 0 then 2 else 0) ∧
    strobesCode c = flagBit c.lower + 2 * flagBit c.upper) ∧
  (∀ (t : Trap) (a : Addr), t.fires a = true ↔
    t.armed = true ∧ ∀ i < 20, t.mask.getLsbD i = true → a.getLsbD i = t.compare.getLsbD i) ∧
  (∀ (g : GuardWindow) (a : Addr), g.covers a = true ↔
    g.mode ≠ .off ∧ g.base.toNat ≤ a.toNat ∧ a.toNat ≤ g.limit.toNat) ∧
  ∀ (s : State) (a : Addr),
    (s.ownedAddress a = true ↔
      s.mem.installed.words - 4096 + 0x020 ≤ a.toNat ∧ a.toNat ≤ s.mem.installed.words - 4096 + 0x77F) ∧
    s.mem.installed.words = (match s.mem.installed with
      | .k128 => 131072
      | .k256 => 262144
      | .k512 => 524288) ∧
    (s.hostShut = true ↔ s.rst.inReset = true ∧ (s.rst.inputHeld = true ∨ s.rst.powerOrSupply = true))

/-- A host cycle that fails a check is ended by the first that fails, with its fault and without a RAM access; the
trap disarms as it fires; while host cycles are shut out by a reset they are ended with BERR and no fault. What the
checks mean is in HostCycleAdmitted, with log entry 5 (DEDUCED) for the read/write line. -/
def Obligations.HostCycleRefused : Prop :=
  ∀ (c : BusCycle) (s : State), s.mem.waiting = none →
    let cut := { s with mem := { s.mem with bus := some ⟨.berr, none⟩ } }
    let dropped := { s with mem := { s.mem with bus := some ⟨.ack, none⟩ } }
    let disarmed :=
      { s with mem := { s.mem with bus := some ⟨.berr, none⟩, trap := { s.mem.trap with armed := false } } }
    let at_ := Subject.address c.addr.toNat
    let data := c.data.toNat
    (s.hostShut = true → exec (.hostCycle c) s = .next (grant cut)) ∧
    (s.LogRoom →
      (addressGood c = false →
        AnswersFault (.hostCycle c) s cut .addressParity at_ [bitOf c.write 0, strobesCode c]) ∧
      (addressGood c = true → s.mem.installed.words ≤ c.addr.toNat →
        AnswersFault (.hostCycle c) s cut .nonexistentMemory at_ [bitOf c.write 0, s.mem.installed.code]) ∧
      (addressGood c = true → c.addr.toNat < s.mem.installed.words → c.write = true →
        (failedLanes c ≠ 0 → AnswersFault (.hostCycle c) s cut .dataParity at_ [data, failedLanes c, 0]) ∧
        (failedLanes c = 0 → s.mem.trap.fires c.addr = true →
          AnswersFault (.hostCycle c) s disarmed .dataParity at_ [data, 0, 1]) ∧
        (failedLanes c = 0 → s.mem.trap.fires c.addr = false →
          (s.ownedAddress c.addr = true →
            AnswersFault (.hostCycle c) s cut .ownedAreaWrite at_ [data, strobesCode c]) ∧
          (s.ownedAddress c.addr = false →
            ∀ n : Fin 4, s.mem.guards[n].covers c.addr = true →
              (∀ m : Fin 4, m < n → s.mem.guards[m].covers c.addr = false) →
              (s.mem.guards[n].mode = .refuse →
                AnswersFault (.hostCycle c) s cut .guardRefused at_ [data, strobesCode c, n.val]) ∧
              (s.mem.guards[n].mode = .drop →
                AnswersFault (.hostCycle c) s dropped .guardDropped at_ [data, strobesCode c, n.val])))))

/-- A served host read drives the whole stored word: ACK when both bytes' stored parity is good, BERR and MEMORY PARITY
when it is not. A read changes no memory. One that a reset cut is ended with BERR; that it then drives its word is the
model's choice (log entry 12, DESIGN CHOICE), and so is that it posts nothing where the parity is bad (log entry 30).
That stored parity is odd is log entry 5 (DEDUCED). -/
def Obligations.HostReadServed : Prop :=
  (∀ (c : HostCycle) (s : State), c.write = false →
    let a := c.addr.toNat
    let r := s.mem.ram.read a
    let ended (e : Ending) : State := { s with mem := { s.mem with port := none, bus := some ⟨e, some r⟩ } }
    (s.mem.port = some (.host c false) → wordGood r = true →
      exec .hostReadServed s = .next (grant (ended .ack))) ∧
    (s.mem.port = some (.host c false) → wordGood r = false → s.LogRoom →
      AnswersFault .hostReadServed s (ended .berr) .memoryParity (.address a) [r.word.toNat, badLanes r, 0]) ∧
    (s.mem.port = some (.host c true) → exec .hostReadServed s = .next (grant (ended .berr)))) ∧
  ∀ r : RamWord,
    let odd (from_ : Nat) (p : Bool) : Prop :=
      ((List.range 8).countP (fun i => r.word.getLsbD (from_ + i)) + flagBit p) % 2 = 1
    (wordGood r = true ↔ odd 0 r.lowerParity ∧ odd 8 r.upperParity) ∧
    (badLanes r % 2 = 1 ↔ ¬ odd 0 r.lowerParity) ∧ (badLanes r / 2 = 1 ↔ ¬ odd 8 r.upperParity) ∧ badLanes r ≤ 3

/-- A served host write stores its word, each strobed byte of the write and each other byte as it stood, with fresh
parity at its address and nowhere else, ends with ACK, and is handed over when it is a host-writable Control Area word
or a word of a quote record in force; a write with one strobe over a kept byte of bad parity stores nothing and ends
with BERR and MEMORY PARITY; one that a reset cut is made, ended with BERR, and not handed over. That a cut write which
finds bad parity posts nothing is the model's choice (log entry 30, DESIGN CHOICE), and that stored parity is odd is log
entry 5 (DEDUCED). The words handed over are those of offsets 0 to 6, 10H, 11H and 12H, and of the records while the
Record Index is in force. -/
def Obligations.HostWriteServed : Prop :=
  (∀ (c : HostCycle) (s : State), c.write = true →
    let a := c.addr.toNat
    let r := s.mem.ram.read a
    let w := mergeLanes c r.word
    let made (e : Ending) : State :=
      { s with mem := { s.mem with port := none, bus := some ⟨e, none⟩, ram := s.mem.ram.write a w } }
    let unmade : State := { s with mem := { s.mem with port := none, bus := some ⟨.berr, none⟩ } }
    let bad := HostCycle.keptBadLanes c r
    (s.mem.port = some (.host c false) → bad = 0 →
      (s.rst.inReset = true → exec .hostWriteServed s = .next (grant (made .ack))) ∧
      (s.rst.inReset = false →
        (∀ off, controlOffset s.mem.installed a = some off →
          exec .hostWriteServed s =
            .next (grant
              (if off ≤ 6 ∨ off = 0x10 ∨ off = 0x11 ∨ off = 0x12 then
                  { made .ack with handed := s.handed ++ [.control off w] }
               else made .ack))) ∧
        (controlOffset s.mem.installed a = none →
          (∀ i n, s.indexInForce = true → s.tbl.recordOf a = some (i, n) →
            exec .hostWriteServed s = .next (grant { made .ack with handed := s.handed ++ [.capture i n w] })) ∧
          (s.indexInForce = false ∨ s.tbl.recordOf a = none →
            exec .hostWriteServed s = .next (grant (made .ack)))))) ∧
    (s.mem.port = some (.host c false) → bad ≠ 0 → s.LogRoom →
      AnswersFault .hostWriteServed s unmade .memoryParity (.address a) [r.word.toNat, bad, 1]) ∧
    (s.mem.port = some (.host c true) →
      exec .hostWriteServed s = .next (grant (if bad = 0 then made .berr else unmade))) ∧
    (upperByte w = if c.upper then upperByte c.data else upperByte r.word) ∧
    (lowerByte w = if c.lower then lowerByte c.data else lowerByte r.word) ∧
    (s.MemoryCanonical → ∀ (e : Ending) (b : Nat),
      (made e).mem.ram.read b = if b = a then freshWord w else s.mem.ram.read b)) ∧
  (∀ (c : HostCycle) (r : RamWord),
    let odd (from_ : Nat) (p : Bool) : Prop :=
      ((List.range 8).countP (fun i => r.word.getLsbD (from_ + i)) + flagBit p) % 2 = 1
    let bad := HostCycle.keptBadLanes c r
    (bad % 2 = 1 ↔ c.lower = false ∧ ¬ odd 0 r.lowerParity) ∧
      (bad / 2 = 1 ↔ c.upper = false ∧ ¬ odd 8 r.upperParity) ∧ bad ≤ 3) ∧
  (∀ w : Word, (freshWord w).word = w ∧ wordGood (freshWord w) = true) ∧
  (∀ (size : MemSize) (a off : Nat), controlOffset size a = some off ↔
    size.words - 4096 ≤ a ∧ a < size.words ∧ a = size.words - 4096 + off) ∧
  ∀ s : State, s.indexInForce = true ↔
    (∃ d, s.load = .phase2 d) ∨ (s.load = .idle ∧ s.ctl.partState = .running)

/-! ### Refresh and the arbiter -/

/-- A refresh request is counted up to 8 and begins an interval of the length in force; a refresh cycle refreshes the
next row of the fixed round and lowers the postponed count; the time base advances by one and wraps to 0 from its
largest reading. Nothing else changes. The number of rows is a free value (log entry 4); that the count falls when the
refresh cycle is performed, and not with the grant as table 1.7.1 shows it, is the model's reading of R15 (log entry 13,
DEDUCED). During a reset the interval follows the level of WARM taken before it (log entry 31). An interval is the
difference of two readings modulo 2^32. -/
def Obligations.TimersCount : Prop :=
  ∀ s : State,
    exec .timeBaseAdvance s = .next (grant { s with ctl := { s.ctl with timeBase := s.ctl.timeBase + 1 } }) ∧
    (s.ctl.timeBase + 1).toNat = (if s.ctl.timeBase.toNat = 4294967295 then 0 else s.ctl.timeBase.toNat + 1) ∧
    (∀ t : Time, since s t = (s.ctl.timeBase.toNat + 4294967296 - t.toNat) % 4294967296) ∧
    (s.mem.refresh.running = true →
      exec .refreshRequest s =
        .next (grant
          { s with
            mem :=
              { s.mem with
                refresh :=
                  { s.mem.refresh with
                    postponed := min 8 (s.mem.refresh.postponed + 1)
                    interval := if s.drive.warm.taken then .halved else .normal } } })) ∧
    (s.mem.port = some .refresh →
      exec .refreshCycle s =
        .next (grant
          { s with
            mem :=
              { s.mem with
                port := none
                refresh :=
                  { s.mem.refresh with
                    postponed := s.mem.refresh.postponed - 1
                    nextRow :=
                      if s.mem.refresh.nextRow < Config.refreshRowsLessOne then s.mem.refresh.nextRow + 1
                      else 0 } } }))

/-- The arbiter grants a free port by the five steps in order: refresh at 8 postponed, the oldest part cycle passed
over 16 times, the host, refresh, the oldest part cycle; each grant to the host or to refresh counts against every part
cycle that waits. With the RESET input held no part cycle is granted, and with the supply low nothing is. That a grant to
refresh leaves the postponed count as it was is log entry 13 (DEDUCED, against the table of para 1.7). -/
def Obligations.ArbiterOrder : Prop :=
  ∀ s : State, s.mem.port = none →
    let passed := s.mem.parts.map (fun p => { p with passed := min 16 (p.passed + 1) })
    let toRefresh : State := { s with mem := { s.mem with port := some .refresh, parts := passed } }
    let toHost (c : HostCycle) : State :=
      { s with mem := { s.mem with port := some (.host c false), waiting := none, parts := passed } }
    (s.rst.supplyLow = true → grant s = s) ∧
    (s.rst.supplyLow = false → 8 ≤ s.mem.refresh.postponed → grant s = toRefresh) ∧
    (s.rst.supplyLow = false → s.mem.refresh.postponed < 8 →
      (s.rst.inputHeld = true ∨ s.mem.parts = [] →
        (∀ c, s.mem.waiting = some c → grant s = toHost c) ∧
        (s.mem.waiting = none → 0 < s.mem.refresh.postponed → grant s = toRefresh) ∧
        (s.mem.waiting = none → s.mem.refresh.postponed = 0 → grant s = s)) ∧
      (s.rst.inputHeld = false → ∀ p rest, s.mem.parts = p :: rest →
        let toPart : State := { s with mem := { s.mem with port := some (.part p false), parts := rest } }
        (16 ≤ p.passed → grant s = toPart) ∧
        (p.passed < 16 →
          (∀ c, s.mem.waiting = some c → grant s = toHost c) ∧
          (s.mem.waiting = none → 0 < s.mem.refresh.postponed → grant s = toRefresh) ∧
          (s.mem.waiting = none → s.mem.refresh.postponed = 0 → grant s = toPart))))

/-- No event but a host write, a write-back or a clearing write on the RAM port, a power-on reset, and the fall and
return of the supply changes a word of memory: reads, refresh, commands, captures and frames do not. -/
def Obligations.OnlyPortWritesMemory : Prop :=
  ∀ (c : Instr) (s t : State), touchesMemory c = false → exec c s = .next t → t.mem.ram = s.mem.ram

/-! ### Write-backs, faults and the clearing of the part-owned region -/

/-- A served write-back stores its word; the next word of its entry is placed, or the entry is completed: a table entry
leaves the head to the next, a fault record advances the fault write index, an inbox slot advances the inbox write
index and is reported to its line, whose awaited acknowledgement becomes a K entry. A write-back from before a reset
stores its word and does no more than let the head of the queue be taken up (log entry 19, DEDUCED). -/
def Obligations.WriteBackServed : Prop :=
  ∀ (p : PartCycle) (w : Word) (s : State), p.source = .writeBack → p.write = some w →
    let made : State := { s with mem := { s.mem with port := none, ram := s.mem.ram.write p.addr w } }
    let setWB (wb : WriteBack) (u : State) : State := { u with ctl := { u.ctl with writeBack := wb } }
    (s.mem.port = some (.part p false) →
      (∀ e n, s.ctl.writeBack.active = some (e, n) → n + 1 < e.words.length →
        exec .writeBackWritten s =
          .next (grant
            { setWB { s.ctl.writeBack with active := some (e, n + 1) } made with
              mem :=
                { made.mem with
                  parts :=
                    s.mem.parts ++
                      [⟨.writeBack, controlBase s.mem.installed + e.offset + (n + 1),
                        some (e.words.getD (n + 1) 0), 0⟩] } })) ∧
      (∀ e n, s.ctl.writeBack.active = some (e, n) → e.words.length ≤ n + 1 →
        (∀ q ∈ s.mem.parts, q.source ≠ .writeBack) →
        let done := setWB { s.ctl.writeBack with active := none } made
        (∀ t ws, e = .table t ws → s.ctl.writeBack.queue = [] → exec .writeBackWritten s = .next (grant done)) ∧
        (∀ t ws d rest, e = .table t ws → s.ctl.writeBack.queue = d :: rest →
          exec .writeBackWritten s =
            .next (grant
              { setWB ⟨some (d, 0), rest⟩ made with
                mem :=
                  { made.mem with
                    parts :=
                      s.mem.parts ++
                        [⟨.writeBack, controlBase s.mem.installed + d.offset, some (d.words.getD 0 0), 0⟩] } })) ∧
        (∀ slot ws, e = .faultRecord slot ws →
          ∃ v, exec .writeBackWritten s = .next (grant v) ∧ v.Posted .faultStatus ∧
            OnlyPosts
              { done with
                ctl := { done.ctl with log := { s.ctl.log with writeIndex := s.ctl.log.writeIndex + 1 } } } v) ∧
        (∀ slot line seq ws, e = .inboxSlot slot line seq ws →
          ∃ v, exec .writeBackWritten s = .next (grant v) ∧ v.Posted .inboxStatus ∧
            OnlyPosts
              { done with
                ctl := { done.ctl with inbox := { s.ctl.inbox with writeIndex := s.ctl.inbox.writeIndex + 1 } }
                lines :=
                  if s.lines[line].awaited.contains seq then
                    s.lines.set line
                      { s.lines[line] with
                        awaited := s.lines[line].awaited.erase seq
                        out := s.lines[line].out ++ [.ack seq] }
                  else s.lines } v))) ∧
    (s.mem.port = some (.part p true) →
      ∃ v, exec .writeBackWritten s = .next (grant v) ∧ OnlyPosts made v)

/-- Every event of every command, but for the beginnings of resets, posts each word that the part writes in place whose
value it changes: the new value is being written, or waits. When a block posts a table word while an entry is being
written, that entry is left alone, and the value takes the place of the pending entry for its word or joins the tail;
with none, and no write-back still on the port, the head of the queue is taken up and its first word placed. No other
entry moves or changes. That a write-back from before a reset holds the first of the new queue back is log entry 19
(DEDUCED). The words have the layout of para 10.2 and stand at its offsets; fault record k stands at offset 100H + 16k
and inbox slot k at 300H + 18k. -/
def Obligations.TableEntryInPlace : Prop :=
  (∀ (t : TableWord) (ws : List Word) (q : List WbEntry),
    (∀ a ws' b, q = a ++ .table t ws' :: b → (∀ x, .table t x ∉ a) → joinTable t ws q = a ++ .table t ws :: b) ∧
    ((∀ x, .table t x ∉ q) → joinTable t ws q = q ++ [.table t ws])) ∧
  (∀ (t : TableWord) (s : State),
    let joined := joinTable t (s.tableWords t) s.ctl.writeBack.queue
    let waiting (wb : WriteBack) : State := { s with ctl := { s.ctl with writeBack := wb } }
    joined ≠ [] ∧
    (∀ e n, s.ctl.writeBack.active = some (e, n) → post t s = waiting ⟨some (e, n), joined⟩) ∧
    (s.ctl.writeBack.active = none → s.outstanding (· == .writeBack) = true → post t s = waiting ⟨none, joined⟩) ∧
    (s.ctl.writeBack.active = none → s.outstanding (· == .writeBack) = false → ∀ e rest, joined = e :: rest →
      post t s =
        { waiting ⟨some (e, 0), rest⟩ with
          mem :=
            { s.mem with
              parts :=
                s.mem.parts ++
                  [⟨.writeBack, controlBase s.mem.installed + e.offset, some (e.words.getD 0 0), 0⟩] } })) ∧
  (∀ (c : Instr) (s t : State), exec c s = .next t → beginsReset c = false →
    ∀ w : TableWord, t.tableWords w ≠ s.tableWords w → t.Posted w) ∧
  (∀ s : State, TableLayout s) ∧ OffsetsGiven ∧ EntryPlaces

/-- A fault that finds the ring full is lost: the overflow mark and the carry are set, the fault status word is posted
if the mark was clear, and nothing else changes. A fault that finds room is queued with its record, whose bit 15 of word
0, PRECEDED BY OVERFLOW, is the carry, and the carry is cleared: so the next fault recorded after a lost one carries
it. A record has the sixteen words of para 10.3: the kind, the subject type and the overflow bit; the time; the subject
number; four details; and 0. The kinds, the subject types and the codes inside details have its numbers. -/
def Obligations.FullRingLosesFault : Prop :=
  (∀ (k : FaultKind) (subj : Subject) (d : List Nat) (s : State), s.rst.inReset = false →
    (s.ctl.log.nextSlot + 1 = s.ctl.log.readIndex →
      let lost : State :=
        { s with ctl := { s.ctl with log := { s.ctl.log with overflowMark := true, overflowCarry := true } } }
      (s.ctl.log.overflowMark = true → postFault k subj d s = lost) ∧
      (s.ctl.log.overflowMark = false →
        OnlyPosts lost (postFault k subj d s) ∧ (postFault k subj d s).Posted .faultStatus)) ∧
    (s.ctl.log.nextSlot + 1 ≠ s.ctl.log.readIndex →
      ∃ first rest, (postFault k subj d s).Queued (.faultRecord s.ctl.log.nextSlot (first :: rest)) ∧
        first.toNat = k.code + 256 * subj.parts.1 + 32768 * flagBit s.ctl.log.overflowCarry ∧
        first.getLsbD 15 = s.ctl.log.overflowCarry ∧
        (postFault k subj d s).ctl.log =
          { s.ctl.log with nextSlot := s.ctl.log.nextSlot + 1, overflowCarry := false } ∧
        OnlyPosts
          { s with
            ctl :=
              { s.ctl with
                log := { s.ctl.log with nextSlot := s.ctl.log.nextSlot + 1, overflowCarry := false } } }
          (postFault k subj d s))) ∧
  (∀ (k : FaultKind) (carry : Bool) (time : Time) (subj : Subject) (d : List Nat),
    let ws := faultWords k carry time subj d
    ws.length = 16 ∧ numAt ws 0 = k.code + 256 * subj.parts.1 + 32768 * flagBit carry ∧
      numAt ws 1 * 65536 + numAt ws 2 = time.toNat ∧
      numAt ws 3 * 65536 + numAt ws 4 = subj.parts.2 % 4294967296 ∧
      (∀ j < 4, numAt ws (5 + 2 * j) * 65536 + numAt ws (6 + 2 * j) = d.getD j 0 % 4294967296) ∧
      ∀ j, 13 ≤ j → numAt ws j = 0) ∧
  (∀ n, Subject.parts .none = (0, 0) ∧ Subject.parts (.address n) = (1, n) ∧ Subject.parts (.instrument n) = (2, n) ∧
    Subject.parts (.logicalModule n) = (3, n) ∧ Subject.parts (.physicalPosition n) = (4, n) ∧
    Subject.parts (.line n) = (5, n)) ∧
  (∀ x ∈ ([(.addressParity, 1), (.dataParity, 2), (.memoryParity, 3), (.nonexistentMemory, 4), (.ownedAreaWrite, 5),
      (.guardRefused, 6), (.guardDropped, 7), (.sequenceGap, 8), (.illegalFlags, 9), (.tradeWhileHalted, 10),
      (.staleStaging, 11), (.tornRecord, 12), (.holdExpired, 13), (.holdSuperseded, 14), (.holdCancelled, 15),
      (.moduleTrip, 16), (.moduleAbsent, 17), (.moduleFailed, 18), (.noSpare, 19), (.hot, 20), (.lampLow, 21),
      (.lineNoise, 22), (.printDropped, 23)] : List (FaultKind × Nat)), x.1.code = x.2) ∧
  ([MemSize.k128, .k256, .k512].map MemSize.code = [0, 1, 2] ∧
    [TripPolicy.moduleOnly, .link, .board].map TripPolicy.code = [0, 1, 2] ∧
    [ModuleState.unknown, .active, .idle, .tripped, .absent, .failed].map ModuleState.code = [0, 1, 2, 3, 4, 5] ∧
    [BadCause.badLength, .badCharacter, .badCheck, .cut, .abandoned].map BadCause.code = [1, 2, 3, 4, 5] ∧
    [Rate.none, .b1200, .b2400, .b4800, .b9600].map Rate.code = [0, 1, 2, 3, 4])

/-! ### Resets -/

/-- The beginning of a reset, for each of the three. An external reset completes the access on the port, ends a
waiting host cycle with BERR, and keeps memory and refresh; a power-on reset loses the contents, restarts refresh and
begins the clearing; a low supply loses the contents and stops refresh. Each sets its reset cause. That no handed
write is left is log entry 10, that the lost contents are the free contents of the next era is log entries 3 and 27,
that a power-on reset ends a host cycle that waits or is on the port with BERR, and abandons the cycle on the port, is
log entry 37, that the straps of the power-on place the clearing is log entry 11, that the refresh row stands is log entry 17, the
turn of the capture reads in CaptureUnit.empty is log entry 2, and that the level of WARM taken before the reset stays
in force as it begins is log entry 31 (the model's choices). -/
def Obligations.ResetBegins : Prop :=
  ∀ s : State,
    (s.rst.inputHeld = false →
      ∃ t, exec .externalReset s = .next t ∧ ResetBegun s t ∧
        t.rst = { s.rst with inReset := true, inputHeld := true } ∧ t.mem.parts = [] ∧
        t.ctl.causes = { s.ctl.causes with external := true } ∧ t.mem.ram = s.mem.ram ∧
        t.mem.refresh = s.mem.refresh ∧ (s.mem.waiting = none → t.mem.bus = s.mem.bus) ∧
        (∀ c b, s.mem.port = some (.host c b) → t.mem.port = some (.host c true)) ∧
        (∀ p b, s.mem.port = some (.part p b) → t.mem.port = some (.part p true)) ∧
        (s.mem.port = some .refresh → t.mem.port = some .refresh)) ∧
    (∀ p : Straps,
      ∃ t, exec (.powerOnReset p) s = .next t ∧ ResetBegun s t ∧
        t.rst = { s.rst with inReset := true, supplyLow := false, powerOrSupply := true, clearingDue := true } ∧
        t.ctl.causes = ⟨true, false, false⟩ ∧
        (∀ a, t.mem.ram.read a = Config.ramContents (s.mem.ram.era + 1) a) ∧
        t.mem.refresh = { s.mem.refresh with running := true, interval := .normal, postponed := 0 } ∧
        (∀ c b, s.mem.port = some (.host c b) → t.mem.bus = some ⟨.berr, none⟩) ∧
        (s.rst.inputHeld = false →
          t.mem.port = some (.part ⟨.regionClear, controlBase (sizeOfStraps p) + 0x20, some 0, 0⟩ false) ∧
            t.mem.parts = [])) ∧
    (s.rst.supplyLow = false →
      ∃ t, exec .supplyLowReset s = .next t ∧ ResetBegun s t ∧
        t.rst = { s.rst with inReset := true, supplyLow := true, powerOrSupply := true, clearingDue := false } ∧
        t.ctl.causes = { s.ctl.causes with supply := true } ∧
        (∀ a, t.mem.ram.read a = Config.ramContents (s.mem.ram.era + 1) a) ∧
        t.mem.refresh = { s.mem.refresh with running := false } ∧ t.mem.port = none ∧ t.mem.parts = [] ∧
        (∀ c b, s.mem.port = some (.host c b) → t.mem.bus = some ⟨.berr, none⟩))

/-- The release of the RESET input reads the straps and lets part cycles be granted again, a clearing that the held
input kept from the port among them. The return of the supply restarts refresh and begins the clearing of the
part-owned region, whose place follows from the straps as they stand (log entry 11); that the return loses the
contents once more, to the free contents of the next era, is log entries 27 and 3 (DEDUCED), and that the refresh row
stands is log entry 17 (DESIGN CHOICE). The straps select 128K, 256K or 512K words, and 1, 1 is read as 128K. A
clearing write makes the next word of the region 0000H with good parity and no other word different; the next is
placed until the 1,888th has been made. -/
def Obligations.ResetInputsAndClearing : Prop :=
  (sizeOfStraps ⟨false, false⟩ = .k128 ∧ sizeOfStraps ⟨false, true⟩ = .k256 ∧ sizeOfStraps ⟨true, false⟩ = .k512 ∧
    sizeOfStraps ⟨true, true⟩ = .k128 ∧ ∀ size : MemSize, controlBase size = size.words - 4096) ∧
  (∀ (p : Straps) (s : State),
      let released : State :=
        { s with
          rst := { s.rst with inputHeld := false }
          mem := { s.mem with installed := sizeOfStraps p } }
      let base := controlBase (sizeOfStraps p) + 0x20
      (s.rst.inputHeld = true → (s.rst.clearingDue = false ∨ s.outstanding (· == .regionClear) = true) →
        exec (.externalResetRelease p) s = .next (grant released)) ∧
      (s.rst.inputHeld = true → s.rst.clearingDue = true → s.outstanding (· == .regionClear) = false →
        exec (.externalResetRelease p) s =
          .next (grant
            { released with
              mem :=
                { released.mem with
                  parts :=
                    s.mem.parts ++
                      [⟨.regionClear, s.mem.ram.clearedFrom + s.mem.ram.clearedCount, some 0, 0⟩] } })) ∧
      (s.rst.supplyLow = true → s.outstanding (· == .regionClear) = false →
        exec (.supplyReturn p) s =
          .next (grant
            { s with
              rst := { s.rst with supplyLow := false, clearingDue := true }
              mem :=
                { s.mem with
                  ram := ⟨[], s.mem.ram.era + 1, base, 0⟩
                  refresh := { s.mem.refresh with running := true, interval := .normal, postponed := 0 }
                  parts := s.mem.parts ++ [⟨.regionClear, base, some 0, 0⟩] } }))) ∧
  (∀ (p : PartCycle) (b : Bool) (s : State), s.mem.port = some (.part p b) → p.source = .regionClear →
      s.rst.clearingDue = true → (∀ q ∈ s.mem.parts, q.source ≠ .regionClear) →
      let a := s.mem.ram.clearedFrom + s.mem.ram.clearedCount
      let made : State := { s with mem := { s.mem with port := none, ram := s.mem.ram.clearNext } }
      (1888 ≤ s.mem.ram.clearedCount + 1 →
        exec .regionClearWritten s = .next (grant { made with rst := { s.rst with clearingDue := false } })) ∧
      (s.mem.ram.clearedCount + 1 < 1888 →
        exec .regionClearWritten s =
          .next (grant
            { made with mem := { made.mem with parts := s.mem.parts ++ [⟨.regionClear, a + 1, some 0, 0⟩] } })) ∧
      (s.MemoryCanonical → ∀ x, made.mem.ram.read x = if x = a then freshWord 0 else s.mem.ram.read x))

/-- At the end of every reset the blocks hold their end-of-reset values: the command record and the latches, the fault
log, the inbox and ALERT, the table and the Capture Unit, the links and the lines with the arbiter's places, the
filters, the latch, the governor and the log of the drive protection with no LAMP TEST and no HOT check in progress,
and the tape's queue, text, lateness, ticker block and window, with a blank-out begun. Memory, the guards with their
lock, the trap and the reset causes stand, the time base is 0 after a power-on or supply-low reset and undisturbed
otherwise, a comparator input that is then present is watched from that moment, and every word that the part writes in
place waits to be written: the reset cause word first, then the other status words in offset order, the module table
and the line table. That no handed write is left is log entry 10, that the write-back of the first word waits for one
from before the reset is log entry 19, and the chain length, the spare count, the policy and the last frame times of
Link.cleared and the turn of the capture reads are log entry 2 (the model's choices). -/
def Obligations.ResetEnds : Prop :=
  ∀ (p : Straps) (s : State), s.rst.inReset = true → s.rst.inputHeld = false → s.rst.supplyLow = false →
    s.rst.clearingDue = false →
    ∃ t, exec (.resetEnd p) s = .next t ∧ (∀ w : TableWord, t.Posted w) ∧
      (let entry (w : TableWord) : WbEntry := .table w (t.tableWords w)
       let others : List WbEntry :=
         (([.partState, .commandStatus, .refusal, .driveState, .limitReasons, .governorStage, .tickerState, .faultStatus,
             .inboxStatus] : List TableWord) ++
           ([0, 1, 2, 3, 4, 5, 6, 7] : List (Fin 8)).flatMap (fun k => (List.finRange 16).map (TableWord.moduleWord k)) ++
           (List.finRange 16).map TableWord.lineWord).map entry
       t.ctl.writeBack =
         if s.outstanding (· == .writeBack) = true then ⟨none, entry .resetCause :: others⟩
         else ⟨some (entry .resetCause, 0), others⟩) ∧
      t.rst.inReset = false ∧ t.rst.powerOrSupply = false ∧ t.mem.installed = sizeOfStraps p ∧
      t.mem.ram = s.mem.ram ∧ t.mem.guards = s.mem.guards ∧ t.mem.guardLock = s.mem.guardLock ∧
      t.mem.trap = s.mem.trap ∧
      t.ctl.partState = .unloaded ∧ t.ctl.command.state = .idle ∧ t.ctl.command.seq = 0 ∧
      t.ctl.command.result = none ∧ t.ctl.command.detail = 0 ∧ t.ctl.refusal = ⟨0, false⟩ ∧
      t.ctl.latches = Vector.replicate 6 0 ∧ t.ctl.log = ⟨0, 0, 0, false, false⟩ ∧ t.ctl.inbox = ⟨0, 0, 0⟩ ∧
      t.ctl.alert = ⟨false, false, false, false⟩ ∧ t.ctl.causes = s.ctl.causes ∧
      t.ctl.timeBase = (if s.rst.powerOrSupply then 0 else s.ctl.timeBase) ∧
      t.handed = [] ∧ t.tbl = InstrumentTable.empty ∧ t.load = .idle ∧ t.cap = CaptureUnit.empty ∧
      (∀ k : Fin 8, t.links[k] = Link.cleared ∧ t.links[k].driveEnable = true) ∧
      (∀ n : Fin 16, t.lines[n] = Line.off) ∧ t.service = ⟨15, 15, 15⟩ ∧
      (∀ c : Comparator, t.drive.filter c =
        ⟨(s.drive.filter c).raw, false, if (s.drive.filter c).raw then some t.ctl.timeBase else none⟩) ∧
      t.drive.hotLatch = false ∧ t.drive.log = Reasons.clear ∧ t.drive.governor.stage = 0 ∧
      t.drive.governor.limitWord = 0 ∧ t.drive.governor.x = 0 ∧ t.drive.governor.y = 0 ∧
      t.drive.governor.window = [] ∧ t.drive.governor.count = 0 ∧ t.drive.governor.lastSample = t.ctl.timeBase ∧
      t.drive.lampTest = none ∧ t.drive.hotCheck = none ∧
      t.tape.queue = [] ∧ t.tape.buffer = [] ∧ t.tape.held = [] ∧ t.tape.mode = .punctual ∧ t.tape.lateness = 0 ∧
      t.tape.hold = false ∧ t.tape.block = ⟨.normal, 30, 90, 0⟩ ∧ t.tape.window = List.replicate 80 0x20 ∧
      t.tape.phase = 0 ∧ t.tape.condition = .blanking 480 ∧ t.tape.loadedInBlankOut = false

/-- Once the guard lock is set, nothing but the beginning of a reset clears it, and while it is set nothing changes a
guard window. -/
def Obligations.GuardLockHolds : Prop :=
  ∀ (c : Instr) (s t : State), exec c s = .next t → beginsReset c = false → s.mem.guardLock = true →
    t.mem.guardLock = true ∧ t.mem.guards = s.mem.guards

/-! ### The Control Unit -/

/-- A handed parameter word goes into its latch, a handed enables word into the three ALERT enables, and nothing else
changes. ALERT is asserted exactly while a cause holds whose enable is set, and is released during every reset. -/
def Obligations.ControlWordsAndAlert : Prop :=
  (∀ s : State, s.alertOut = true ↔
    s.rst.inReset = false ∧
      ((s.ctl.log.writeIndex ≠ s.ctl.log.readIndex ∧ s.ctl.alert.enableFault = true) ∨
        (s.ctl.inbox.writeIndex ≠ s.ctl.inbox.readIndex ∧ s.ctl.alert.enableInbox = true) ∨
        (s.ctl.alert.commandCause = true ∧ s.ctl.alert.enableCommand = true))) ∧
  ∀ (w : Word) (rest : List Handed) (s : State), s.rst.inReset = false →
    (∀ n : Fin 6, s.handed = .control (n.val + 1) w :: rest →
      exec .parameterWordWrite s =
        .next (grant { s with handed := rest, ctl := { s.ctl with latches := s.ctl.latches.set n w } })) ∧
    (s.handed = .control 0x12 w :: rest →
      exec .alertEnablesWrite s =
        .next (grant
          { s with
            handed := rest
            ctl :=
              { s.ctl with
                alert := ⟨s.ctl.alert.commandCause, w.getLsbD 0, w.getLsbD 1, w.getLsbD 2⟩ } }))

/-- A proposed read index is accepted when it is in range and frees no more than what is unread, for the fault log and
for the inbox; an accepted one that differs is posted, one for the fault log that frees a record clears the overflow
mark, and one that is ignored changes nothing. -/
def Obligations.ReadIndexesTaken : Prop :=
  ∀ (w : Word) (rest : List Handed) (s : State), s.rst.inReset = false →
    let taken : State := { s with handed := rest }
    (s.handed = .control 0x10 w :: rest →
      let g := s.ctl.log
      let p := BitVec.ofNat 5 w.toNat
      (w.toNat ≤ 31 → (p - g.readIndex).toNat ≤ (g.writeIndex - g.readIndex).toNat →
        ∃ v, exec .faultReadIndexWrite s = .next (grant v) ∧ (p ≠ g.readIndex → v.Posted .faultStatus) ∧
          OnlyPosts
            { taken with
              ctl :=
                { s.ctl with
                  log :=
                    { g with
                      readIndex := p
                      overflowMark := if p = g.readIndex then g.overflowMark else false } } } v) ∧
      (31 < w.toNat ∨ (g.writeIndex - g.readIndex).toNat < (p - g.readIndex).toNat →
        exec .faultReadIndexWrite s = .next (grant taken))) ∧
    (s.handed = .control 0x11 w :: rest →
      let b := s.ctl.inbox
      let p := BitVec.ofNat 6 w.toNat
      (w.toNat ≤ 63 → (p - b.readIndex).toNat ≤ (b.writeIndex - b.readIndex).toNat →
        ∃ v, exec .inboxReadIndexWrite s = .next (grant v) ∧ (p ≠ b.readIndex → v.Posted .inboxStatus) ∧
          OnlyPosts { taken with ctl := { s.ctl with inbox := { b with readIndex := p } } } v) ∧
      (63 < w.toNat ∨ (b.writeIndex - b.readIndex).toNat < (p - b.readIndex).toNat →
        exec .inboxReadIndexWrite s = .next (grant taken)))

/-- A command word of any code that finds a command running is refused BUSY in the refusal word alone; otherwise one
with an unknown code ends REFUSED with UNKNOWN in every part state, and one that finds the part UNLOADED, and is none
of the five that UNLOADED takes, ends REFUSED with NOT LOADED. A command word has its code in bits 15 to 10 and its
sequence in bits 9 to 0. -/
def Obligations.CommandsRefused : Prop :=
  (∀ (c : Instr) (w : Word) (s : State), carries c (commandCode w) = true → s.rst.inReset = false →
    s.handed.head? = some (.control 0 w) →
    (s.ctl.command.state = .running →
      ∃ v, exec c s = .next (grant v) ∧ v.Posted .refusal ∧
        OnlyPosts
          { s with
            handed := s.handed.drop 1
            ctl :=
              { s.ctl with
                refusal := ⟨commandSeq w, true⟩
                alert := { s.ctl.alert with commandCause := false } } } v) ∧
    (s.ctl.command.state ≠ .running → (commandCode w = 0 ∨ 17 ≤ commandCode w) →
      AnswersEnded c s s w (some .unknown) 0) ∧
    (s.ctl.command.state ≠ .running → s.ctl.partState = .unloaded →
      commandCode w ∉ [1, 13, 14, 15, 16] → 1 ≤ commandCode w → commandCode w ≤ 16 →
      AnswersEnded c s s w (some .notLoaded) 0)) ∧
  ∀ w : Word, commandCode w = w.toNat / 1024 ∧ (commandSeq w).toNat = w.toNat % 1024

/-- CLEAR CAUSES clears each named cause, posts the reset cause word, and ends DONE, in every part state; a word with
any other bit set ends REFUSED with BAD PARAMETER and changes no cause. -/
def Obligations.ClearCausesDone : Prop :=
  ∀ (w : Word) (s : State), s.Offered w → commandCode w = 16 →
    let p := s.ctl.latches[0]
    let c := s.ctl.causes
    (p.toNat < 8 →
      ∃ v, exec .clearCauses s = .next (grant v) ∧ v.Posted .resetCause ∧ v.Posted .commandStatus ∧
        OnlyPosts
          ({ s with
              ctl :=
                { s.ctl with
                  causes := ⟨c.power && !p.getLsbD 0, c.external && !p.getLsbD 1, c.supply && !p.getLsbD 2⟩ } }.ended
            w none 0) v) ∧
    (8 ≤ p.toNat → AnswersEnded .clearCauses s s w (some .badParameter) 0)

/-- ARM TRAP loads the compare value and the mask, arms the trap and ends DONE, whatever the part state, the guard lock
and the trap's earlier state; a bit above the 20th in either ends it REFUSED with BAD PARAMETER, the trap unchanged. No
other command, and no event but a host cycle and the beginning of a reset, changes the trap. -/
def Obligations.ArmTrapDone : Prop :=
  (∀ (w : Word) (s : State), s.Offered w → commandCode w = 15 →
    let p := s.ctl.latches
    (p[0].toNat < 16 → p[2].toNat < 16 →
      AnswersEnded .armTrap s
        { s with
          mem :=
            { s.mem with
              trap :=
                ⟨BitVec.ofNat 20 (p[0].toNat * 65536 + p[1].toNat),
                  BitVec.ofNat 20 (p[2].toNat * 65536 + p[3].toNat), true⟩ } } w none 0) ∧
    (16 ≤ p[0].toNat ∨ 16 ≤ p[2].toNat → AnswersEnded .armTrap s s w (some .badParameter) 0)) ∧
  ∀ (c : Instr) (s t : State), c ≠ .armTrap → (∀ b, c ≠ .hostCycle b) → beginsReset c = false →
    exec c s = .next t → t.mem.trap = s.mem.trap

/-- SET GUARD is refused with LOCKED while the lock is set, before its parameters are looked at; with BAD PARAMETER for
a window above 3, a mode code above 2 or an address above 20 bits; otherwise it replaces the named window. LOCK GUARDS
sets the lock. -/
def Obligations.GuardCommands : Prop :=
  ∀ (w : Word) (s : State), s.Offered w →
    let p := s.ctl.latches
    (commandCode w = 13 →
      (s.mem.guardLock = true → AnswersEnded .setGuard s s w (some .locked) 0) ∧
      (s.mem.guardLock = false →
        (3 < p[0].toNat ∨ 16 ≤ p[1].toNat ∨ 16 ≤ p[3].toNat ∨ 2 < p[5].toNat →
          AnswersEnded .setGuard s s w (some .badParameter) 0) ∧
        (∀ n : Fin 4, p[0].toNat = n.val → p[1].toNat < 16 → p[3].toNat < 16 → p[5].toNat ≤ 2 →
          AnswersEnded .setGuard s
            { s with
              mem :=
                { s.mem with
                  guards :=
                    s.mem.guards.set n
                      ⟨BitVec.ofNat 20 (p[1].toNat * 65536 + p[2].toNat),
                        BitVec.ofNat 20 (p[3].toNat * 65536 + p[4].toNat),
                        if p[5] = 0 then .off else if p[5] = 1 then .refuse else .drop⟩ } } w none 0))) ∧
    (commandCode w = 14 →
      AnswersEnded .lockGuards s { s with mem := { s.mem with guardLock := true } } w none 0)

/-! ### LOAD and CLOSE -/

/-- LOAD, once taken, clears the instrument table, capture, the links, the tape and the lines; a Capture part cycle
that waits is withdrawn and the word of one on the port is discarded. With a good directory address the part is
LOADING and the first directory word is being read; with a bit above the 20th it ends REFUSED with BAD PARAMETER and
the part is UNLOADED. That handed capture words are dropped is log entry 10, that the first directory read waits for
one from before a reset is log entry 19, that the unsent frames of an earlier broadcast blank are dropped is log entry
38, and the chain length, the spare count, the policy and the last frame times of a cleared link and the turn of the
capture reads are log entry 2 (the model's choices). -/
def Obligations.LoadBegins : Prop :=
  ∀ (w : Word) (s : State), s.Offered w → commandCode w = 1 →
    let hi := s.ctl.latches[0]
    let lo := s.ctl.latches[1]
    let base := hi.toNat * 65536 + lo.toNat
    (hi.toNat < 16 →
      ∃ t, exec .load s = .next t ∧ ClearedForLoad s t ∧ t.ctl.partState = .loading ∧
        t.load = .phase1 ⟨base, 0, [], [], []⟩ ∧
        t.ctl.command = ⟨.running, 1, commandSeq w, none, 0, s.ctl.latches⟩ ∧
        t.ctl.alert.commandCause = false ∧
        (base < s.mem.installed.words → s.outstanding (· == .directory) = false → t.Reading .directory base) ∧
        ∀ x ∈ [.commandStatus, .partState, .tickerState, .driveState] ++ moduleTable ++ lineTable, t.Posted x) ∧
    (16 ≤ hi.toNat →
      ∃ t, exec .load s = .next t ∧ ClearedForLoad s t ∧ t.ctl.partState = .unloaded ∧ t.load = .idle ∧
        t.ctl.command = ⟨.refused, 1, commandSeq w, some .badParameter, 0, s.ctl.latches⟩ ∧
        t.ctl.alert.commandCause = true ∧
        ∀ x ∈ [.commandStatus, .partState, .tickerState, .driveState] ++ moduleTable ++ lineTable, t.Posted x)

/-- A directory word that has come back: a header word or a word of an entry joins what has been read and the next is
read; a check that fails, a bad parity or a word beyond memory ends LOAD by its refusal, with the table empty and the
part UNLOADED; the last entry builds the table and the watch lists, the day number standing, opens capture and begins
phase 2. The checks of the header and of an entry, the record built from an entry and the table built from the records
are those of R41 to R43, R45, R47, R48, R50 and R52. -/
def Obligations.DirectoryReadReturns : Prop :=
  (∀ (d : DirectoryRead) (s : State), s.load = .phase1 d → (∀ q ∈ s.mem.parts, q.source ≠ .directory) →
    let refused (u : State) (code : ResultCode) (detail : Nat) : State :=
      { u with
        tbl := InstrumentTable.empty
        load := .idle
        ctl := { u.ctl with partState := .unloaded } }.runEnded (some code) detail
    (s.mem.installed.words ≤ d.base + d.next → s.rst.inReset = false →
      ∃ v, exec .directoryReadReturn s = .next (grant v) ∧ v.Posted .commandStatus ∧ v.Posted .partState ∧
        OnlyPosts (refused s .directoryBeyondMemory d.built.length) v) ∧
    (d.base + d.next < s.mem.installed.words → ∀ p, s.mem.port = some (.part p false) → p.source = .directory →
      let x := s.mem.ram.read p.addr
      let free : State := { s with mem := { s.mem with port := none } }
      let header := d.header ++ [x.word]
      let entry := d.entry ++ [x.word]
      let built := d.built ++ [buildInstrument d.header d.built.length entry]
      let on (d' : DirectoryRead) : State :=
        { free with
          load := .phase1 d'
          mem :=
            { free.mem with
              parts :=
                if d.base + (d.next + 1) < s.mem.installed.words then
                  s.mem.parts ++ [⟨.directory, d.base + (d.next + 1), none, 0⟩]
                else s.mem.parts } }
      (wordGood x = false → s.LogRoom →
        ∃ v, exec .directoryReadReturn s = .next (grant v) ∧ v.Posted .commandStatus ∧
          v.Queued (s.faultEntry .memoryParity (.address p.addr) [x.word.toNat, badLanes x, 3]) ∧
          OnlyPosts (refused free.slotTaken .directoryParity d.built.length) v) ∧
      (wordGood x = true → d.next < 512 →
        (headerCheck header d.next = none →
          exec .directoryReadReturn s = .next (grant (on { d with header := header, next := d.next + 1 }))) ∧
        (∀ code detail, headerCheck header d.next = some (code, detail) →
          ∃ v, exec .directoryReadReturn s = .next (grant v) ∧ v.Posted .commandStatus ∧ v.Posted .partState ∧
            OnlyPosts (refused free code detail) v)) ∧
      (wordGood x = true → 512 ≤ d.next → entry.length < 16 →
        exec .directoryReadReturn s = .next (grant (on { d with entry := entry, next := d.next + 1 }))) ∧
      (wordGood x = true → 512 ≤ d.next → 16 ≤ entry.length →
        (∀ code, entryCheck s.mem.installed d.header d.built entry = some code →
          ∃ v, exec .directoryReadReturn s = .next (grant v) ∧ v.Posted .commandStatus ∧ v.Posted .partState ∧
            OnlyPosts (refused free code d.built.length) v) ∧
        (entryCheck s.mem.installed d.header d.built entry = none → built.length < headerCount d.header →
          exec .directoryReadReturn s =
            .next (grant (on { d with entry := [], built := built, next := d.next + 1 }))) ∧
        (entryCheck s.mem.installed d.header d.built entry = none → headerCount d.header ≤ built.length →
          s.cap = CaptureUnit.empty → s.NoCaptureWaiting →
          ∃ t, exec .directoryReadReturn s = .next t ∧ t.tbl = { buildTable built with dayNumber := s.tbl.dayNumber } ∧ t.cap.active = true ∧
            t.load = .phase2 ⟨d.header, 0, 1, true, false, []⟩ ∧
            (∀ r, built.head? = some r → t.Reading .phase2 r.recordAddr) ∧
            (∀ n : Fin 16, t.lines[n] = { s.lines[n] with watch := headerWatch d.header n.val }) ∧
            t.mem.ram = s.mem.ram ∧ t.links = s.links ∧ t.drive = s.drive ∧ t.tape = s.tape ∧
            t.ctl.command = s.ctl.command ∧ t.ctl.partState = s.ctl.partState)))) ∧
  (∀ (ws : List Word) (l : Fin 16),
    HeaderChecks ws ∧ headerCount ws = numAt ws 0 ∧
      headerWatch ws l.val = (List.range (numAt ws (67 + 28 * l.val))).map (fun j => numAt ws (68 + 28 * l.val + j))) ∧
  (∀ (size : MemSize) (header : List Word) (built : List Instrument) (e : List Word) (i : Nat),
    EntryChecks size header built e ∧
      (entryCheck size header built e = none → RecordBuilt header i e (buildInstrument header i e))) ∧
  (∀ rs : List Instrument, TableBuilt rs (buildTable rs)) ∧
  ∀ (s : State) (i : Nat), s.instrument? i = s.tbl.instruments[i]?

/-- A phase-2 word that has come back joins its attempt with its parity mark, and the next is read. The eighth of an
attempt that is not torn, or of the third, sets the instrument's fields from the words read, a field with a marked
word keeping its default; the next instrument is begun, or LOAD ends DONE and every unit takes up its part of the
floor. A torn attempt is repeated. While the fetch has a read to place too, the two kinds are placed in turn. -/
def Obligations.RecordReadReturns : Prop :=
  ∀ (p : PartCycle) (r : RecordRead) (i : Instrument) (s : State), s.mem.port = some (.part p false) →
    p.source = .phase2 → s.load = .phase2 r → r.inFlight = true → s.instrument? r.instr = some i →
    s.NoCaptureWaiting →
    let x := s.mem.ram.read p.addr
    let got := r.got ++ [(x.word, wordGood x)]
    let word (n : Nat) : Option Word :=
      match got[n]? with
      | some (w, true) => some w
      | _ => none
    let price (n : Nat) : Option Nat :=
      match word n, word (n + 1) with
      | some h, some l =>
        let u := h.toNat * 65536 + l.toNat
        if u = 0 then none else some u
      | _, _ => none
    let flags : CommitFlags :=
      match word 7 with
      | some w => commitFlags w
      | none => ⟨false, false, false, false, false, false⟩
    let set : Instrument :=
      { i with
        last := (price 0).map (quantize i.base)
        offIncrement := match price 0 with
          | some u => needsRounding i.base u
          | none => false
        bid := (price 3).map (quantize i.base)
        ask := (price 5).map (quantize i.base)
        lastSeq := match word 7 with
          | some w => commitSeq w
          | none => 0
        halted := flags.halt && !flags.resume
        fast := flags.fastOn && !flags.fastOff }
    let tbl : InstrumentTable := { s.tbl with instruments := s.tbl.instruments.set r.instr set }
    (s.cap.fetchQueue = [] → s.cap.attempt = none →
      (got.length < 8 → wordGood x = true →
        exec .phase2ReadReturn s =
          .next (grant
            { s with
              load := .phase2 { r with got := got }
              cap := { s.cap with lastWasPhase2 := true }
              mem :=
                { s.mem with
                  port := none
                  parts := s.mem.parts ++ [⟨.phase2, i.recordAddr + got.length, none, 0⟩] } })) ∧
      (got.length < 8 → wordGood x = false → s.LogRoom →
        ∃ t, exec .phase2ReadReturn s = .next t ∧ t.load = .phase2 { r with got := got } ∧
          t.Queued (s.faultEntry .memoryParity (.address p.addr) [x.word.toNat, badLanes x, 2]) ∧
          t.Reading .phase2 (i.recordAddr + got.length) ∧ t.tbl = s.tbl ∧ t.mem.ram = s.mem.ram) ∧
      (got.length = 8 → wordGood x = true → r.torn = false →
        (r.instr + 1 < s.tbl.instruments.length →
          ∃ t, exec .phase2ReadReturn s = .next t ∧ t.tbl = tbl ∧
            t.load =
              .phase2 { r with instr := r.instr + 1, attempt := 1, inFlight := true, torn := false, got := [] } ∧
            (∀ j, s.instrument? (r.instr + 1) = some j → t.Reading .phase2 j.recordAddr) ∧
            t.mem.ram = s.mem.ram ∧ t.ctl = s.ctl ∧ t.links = s.links ∧ t.lines = s.lines) ∧
        (s.tbl.instruments.length ≤ r.instr + 1 →
          ∃ t, exec .phase2ReadReturn s = .next t ∧ t.tbl = { tbl with dayNumber := 0 } ∧ LoadEnds r.header s t)) ∧
      (got.length = 8 → wordGood x = false → r.torn = false → s.LogRoom →
        ∃ t, exec .phase2ReadReturn s = .next t ∧ t.instrument? r.instr = some set ∧
          t.Queued (s.faultEntry .memoryParity (.address p.addr) [x.word.toNat, badLanes x, 2]) ∧
          (r.instr + 1 < s.tbl.instruments.length → t.tbl = tbl) ∧
          (s.tbl.instruments.length ≤ r.instr + 1 → t.tbl = { tbl with dayNumber := 0 } ∧ t.ctl.partState = .running)) ∧
      (got.length = 8 → r.torn = true → wordGood x = true → r.attempt < 3 →
        exec .phase2ReadReturn s =
          .next (grant
            { s with
              load := .phase2 { r with attempt := r.attempt + 1, inFlight := true, torn := false, got := [] }
              cap := { s.cap with lastWasPhase2 := true }
              mem :=
                { s.mem with
                  port := none
                  parts := s.mem.parts ++ [⟨.phase2, i.recordAddr, none, 0⟩] } })) ∧
      (got.length = 8 → r.torn = true → 3 ≤ r.attempt → wordGood x = true → s.LogRoom →
        ∃ t, exec .phase2ReadReturn s = .next t ∧ t.instrument? r.instr = some set ∧
          t.Queued (s.faultEntry .tornRecord (.instrument r.instr) [3, 0, 3, (commitSeq x.word).toNat]))) ∧
    (∀ a e q f, s.cap.attempt = some a → s.cap.fetchQueue = e :: q → a.got.length < a.plan.length →
      s.instrument? e.instr = some f → got.length < 8 → wordGood x = true →
      exec .phase2ReadReturn s =
        .next (grant
          { s with
            load := .phase2 { r with got := got }
            cap := { s.cap with lastWasPhase2 := !s.cap.lastWasPhase2 }
            mem :=
              { s.mem with
                port := none
                parts :=
                  s.mem.parts ++
                    [if s.cap.lastWasPhase2 then
                        ⟨.fetch, f.recordAddr + (a.plan.getD a.got.length 0).val, none, 0⟩
                      else ⟨.phase2, i.recordAddr + got.length, none, 0⟩] } }))

/-- CLOSE with a hold ends REFUSED with HELD PRICES and the lowest instrument that holds one; without one it makes each
last price the close, clears the day's extremes and volume, advances the day number, and sends a notice for every
instrument: each watching line that is not OFF queues a QUOTE entry behind what it has, and each running link recomputes
its target images, which starts a flash timer where a glyph of the price has changed and stops it where the instrument is
halted. -/
def Obligations.CloseEndsDay : Prop :=
  ∀ (w : Word) (s : State), s.Offered w → commandCode w = 2 → s.ctl.partState ≠ .unloaded →
    (∀ i r h, s.instrument? i = some r → r.hold = some h →
      (∀ j r', j < i → s.instrument? j = some r' → r'.hold = none) →
      AnswersEnded .close s s w (some .heldPrices) i) ∧
    ((∀ r ∈ s.tbl.instruments, r.hold = none) →
      ∃ t, exec .close s = .next t ∧
        t.tbl =
          { s.tbl with
            instruments :=
              s.tbl.instruments.map (fun r =>
                { r with close := if r.last.isSome then r.last else r.close, high := none, low := none, volume := 0 })
            dayNumber := s.tbl.dayNumber + 1 } ∧
        t.ctl.command = ⟨.done, 2, commandSeq w, none, 0, s.ctl.latches⟩ ∧ t.ctl.alert.commandCause = true ∧
        t.Posted .partState ∧ t.Posted .commandStatus ∧ t.handed = s.handed.drop 1 ∧
        s.Recomputed t (fun _ => True) ∧
        (∀ (n : Fin 16) i r, t.instrument? i = some r → n ∈ r.watchers → s.lines[n].state ≠ .off →
          .quote i ∈ t.lines[n].out) ∧
        (∀ n : Fin 16, ∃ l, t.lines[n].out = s.lines[n].out ++ l ∧
          ∀ e ∈ l, s.lines[n].state ≠ .off ∧ ∃ i r, e = .quote i ∧ t.instrument? i = some r ∧ n ∈ r.watchers) ∧
        (∀ n : Fin 16, t.lines[n] = { s.lines[n] with out := t.lines[n].out }) ∧
        t.mem.ram = s.mem.ram ∧ t.mem.guards = s.mem.guards ∧ t.cap = s.cap ∧ t.drive = s.drive ∧ t.tape = s.tape ∧
        t.rst = s.rst ∧ t.ctl.log = s.ctl.log ∧ t.ctl.partState = s.ctl.partState ∧
        s.ctl.writeBack.Kept t.ctl.writeBack)

/-! ### Capture -/

/-- A field word of a read instrument goes into its staging slot, opening one where it has none; with all sixteen held
it sets fetch-on-commit, and with fetch-on-commit set it is dropped; it makes torn an attempt in progress on the same
instrument. During phase 2 a word of an unread instrument is dropped, and one of the instrument being read makes its
attempt torn. Nothing else changes. An instrument is read once phase 2 has passed it, and in flight while its attempt
is. -/
def Obligations.FieldStaged : Prop :=
  (∀ (i : Nat) (n : Fin 7) (w : Word) (rest : List Handed) (s : State), s.rst.inReset = false →
    s.handed = .capture i n.val w :: rest →
    let u : State := { s with handed := rest }
    let queue : List FetchEntry :=
      match s.cap.attempt, s.cap.fetchQueue with
      | some _, e :: q => (if e.instr = i then { e with torn := true } else e) :: q
      | _, q => q
    let with_ (staging : List StagingSlot) : State :=
      { u with cap := { s.cap with fetchQueue := queue, staging := staging } }
    (s.standing i = .unread → exec .fieldWrite s = .next (grant u)) ∧
    (∀ r, s.load = .phase2 r → s.standing i = .inFlight →
      exec .fieldWrite s = .next (grant { u with load := .phase2 { r with torn := true } })) ∧
    (s.standing i = .read → ∀ r, s.instrument? i = some r →
      (∀ t, s.cap.slot i = some t →
        exec .fieldWrite s =
          .next (grant (with_ (s.cap.staging.map (fun t =>
            if t.instr = i then { t with values := t.values.set n (some w) } else t))))) ∧
      (s.cap.slot i = none → r.fetchOnCommit = true →
        exec .fieldWrite s = .next (grant (with_ s.cap.staging))) ∧
      (s.cap.slot i = none → r.fetchOnCommit = false → s.cap.staging.length < 16 →
        exec .fieldWrite s =
          .next (grant (with_
            (s.cap.staging ++ [⟨i, s.ctl.timeBase, (Vector.replicate 7 none).set n (some w)⟩])))) ∧
      (s.cap.slot i = none → r.fetchOnCommit = false → 16 ≤ s.cap.staging.length →
        exec .fieldWrite s =
          .next (grant
            { with_ s.cap.staging with
              tbl :=
                { s.tbl with
                  instruments := s.tbl.instruments.set i { r with fetchOnCommit := true } } })))) ∧
  ∀ (i : Nat) (s : State),
    (s.standing i = .read ↔ ∀ r, s.load = .phase2 r → i < r.instr) ∧
    (s.standing i = .inFlight ↔ ∃ r, s.load = .phase2 r ∧ i = r.instr ∧ r.inFlight = true) ∧
    (∀ t, s.cap.slot i = some t → t ∈ s.cap.staging ∧ t.instr = i) ∧
    (s.cap.slot i = none ↔ ∀ t ∈ s.cap.staging, t.instr ≠ i)

/-- A commit with the sequence of the last one accepted is a duplicate and does nothing; any other is accepted, with
SEQUENCE GAP posted unless it is the next in sequence. An accepted commit whose groups staging holds whole is applied
at once; one whose instrument has an entry in the Fetch Queue is merged into it, whole or not (log entry 9), keeping
the newer flag of a pair; any other joins the Fetch Queue, and its attempt begins at once when the Capture Unit has
nothing else to read. Its slot is freed and fetch-on-commit cleared. During phase 2 of LOAD a commit of an unread
instrument is dropped, one of the instrument being read makes its attempt torn, and one of a read instrument is taken
as in RUNNING. An applied commit changes the record by its four steps, posts its faults in order (SEQUENCE GAP,
ILLEGAL FLAGS, HOLD CANCELLED, TRADE WHILE HALTED or HOLD SUPERSEDED, PRINT DROPPED) and sends one change notice if
anything visible has changed. That an attempt is numbered as its first read is placed is log entry 14 (DEDUCED), and
that the faults of one event are taken in the order of the rules' steps is log entry 39 (DEDUCED). -/
def Obligations.CommitTaken : Prop :=
  (∀ (i : Nat) (w : Word) (rest : List Handed) (s : State), s.rst.inReset = false →
    s.handed = .capture i 7 w :: rest →
    let seq := commitSeq w
    let f := commitFlags w
    let c : CommitFlags :=
      ⟨f.trade, f.quote, f.halt && !f.resume, f.resume && !f.halt, f.fastOn && !f.fastOff, f.fastOff && !f.fastOn⟩
    let values := match s.cap.slot i with
      | none => Vector.replicate 7 none
      | some t => t.values
    let freed := { s.cap with staging := s.cap.staging.filter (fun t => t.instr != i) }
    let reading := s.outstanding (fun p => p == .fetch || p == .phase2)
    let joined (o : CommitFlags) : CommitFlags :=
      ⟨o.trade || c.trade, o.quote || c.quote, c.halt || (o.halt && !c.resume), c.resume || (o.resume && !c.halt),
        c.fastOn || (o.fastOn && !c.fastOff), c.fastOff || (o.fastOff && !c.fastOn)⟩
    (s.CaptureSettled → s.standing i = .unread → exec .commitWrite s = .next (grant { s with handed := rest })) ∧
    (s.CaptureSettled → ∀ d, s.load = .phase2 d → s.standing i = .inFlight →
      exec .commitWrite s = .next (grant { s with handed := rest, load := .phase2 { d with torn := true } })) ∧
    (s.standing i = .read → ∀ r, s.instrument? i = some r →
      let accepted : Instrument := { r with lastSeq := seq, fetchOnCommit := false }
      let whole := fetchPlan c = [] ∨ (r.fetchOnCommit = false ∧ groupsComplete c values = true)
      let reports : List Posting :=
        (if seq = r.lastSeq + 1 then []
          else [(.sequenceGap, .instrument i, [(r.lastSeq + 1).toNat, seq.toNat])]) ++
        (if (f.halt && f.resume || f.fastOn && f.fastOff) = true then
            [(.illegalFlags, .instrument i, [w.toNat, seq.toNat])]
          else [])
      let waits (t : State) : Prop :=
        t.instrument? i = some accepted ∧ AppliesTo i s t ∧ NoticeSent i r accepted none False s t ∧
          FaultsPosted s t reports ∧ t.handed = rest
      (s.CaptureSettled → seq = r.lastSeq →
        exec .commitWrite s = .next (grant { s with handed := rest })) ∧
      (s.CaptureSettled → seq ≠ r.lastSeq → (∀ e ∈ s.cap.fetchQueue, e.instr ≠ i) → whole →
        ∃ t r', exec .commitWrite s = .next t ∧
          CommitApplied i accepted r' c seq s.ctl.timeBase values reports s t ∧ t.cap = freed ∧ t.handed = rest) ∧
      (seq ≠ r.lastSeq → s.cap.fetchQueue = [] → s.cap.attempt = none → ¬ whole → reading = false →
        s.load = .idle ∨ s.cap.lastWasPhase2 = true →
        ∃ t, exec .commitWrite s = .next t ∧ waits t ∧
          t.cap =
            { freed with
              fetchQueue := [⟨i, c, seq, s.ctl.timeBase, 1, false⟩]
              attempt := some ⟨fetchPlan c, []⟩
              lastWasPhase2 := false } ∧
          t.Reading .fetch (r.recordAddr + ((fetchPlan c).getD 0 0).val)) ∧
      (s.CaptureSettled → seq ≠ r.lastSeq → s.cap.fetchQueue ≠ [] ∨ reading = true →
        (∀ e ∈ s.cap.fetchQueue, e.instr ≠ i) → ¬ whole →
        ∃ t, exec .commitWrite s = .next t ∧ waits t ∧
          t.cap = { freed with fetchQueue := s.cap.fetchQueue ++ [⟨i, c, seq, s.ctl.timeBase, 0, false⟩] }) ∧
      (s.CaptureSettled → seq ≠ r.lastSeq → ∀ a e b, s.cap.fetchQueue = a ++ e :: b → e.instr = i →
        (∀ x ∈ a, x.instr ≠ i) →
        ∃ t, exec .commitWrite s = .next t ∧ waits t ∧
          t.cap =
            { freed with
              fetchQueue :=
                a ++ { e with flags := joined e.flags, seq := seq, attempt := 0, torn := e.torn || a.isEmpty } :: b }))) ∧
  ∀ (c : CommitFlags) (v : Vector (Option Word) 7),
    fetchPlan c = (if c.trade then [0, 1, 2] else []) ++ (if c.quote then [3, 4, 5, 6] else []) ∧
      (groupsComplete c v = true ↔ ∀ n ∈ fetchPlan c, v[n] ≠ none)

/-- A word of a fetch attempt that has come back joins it, and the next is read. The last word of an attempt that is
not torn applies the commit with the values read, a word of bad parity counting as unread, and an entry behind it that
names no group is applied with it; a torn attempt is repeated, and the third torn one posts TORN RECORD and applies
the flags alone. Each application posts its faults in order and sends one change notice if anything visible has
changed. While phase 2 of LOAD has a read to place too, the two kinds are placed in turn. That an attempt is numbered
as its first read is placed is log entry 14 (DEDUCED), and that the faults of one event are taken in the order of the
rules' steps is log entry 39 (DEDUCED). -/
def Obligations.FetchReadReturns : Prop :=
  (∀ (p : PartCycle) (a : FetchAttempt) (e : FetchEntry) (q : List FetchEntry) (r : Instrument) (s : State),
    s.mem.port = some (.part p false) → p.source = .fetch → s.cap.attempt = some a →
    s.cap.fetchQueue = e :: q → s.instrument? e.instr = some r → s.NoCaptureWaiting →
    let x := s.mem.ram.read p.addr
    let got := a.got ++ [(x.word, wordGood x)]
    let parity : List Posting :=
      if wordGood x then [] else [(.memoryParity, .address p.addr, [x.word.toNat, badLanes x, 2])]
    let groups := flagBit e.flags.trade + 2 * flagBit e.flags.quote
    let torn : List Posting := [(.tornRecord, .instrument e.instr, [3, 1, groups, e.seq.toNat])]
    (s.load = .idle →
      (got.length < a.plan.length → wordGood x = true →
        exec .fetchReadReturn s =
          .next (grant
            { s with
              cap := { s.cap with attempt := some { a with got := got }, lastWasPhase2 := false }
              mem :=
                { s.mem with
                  port := none
                  parts := s.mem.parts ++ [⟨.fetch, r.recordAddr + (a.plan.getD got.length 0).val, none, 0⟩] } })) ∧
      (got.length < a.plan.length → wordGood x = false → s.LogRoom →
        ∃ t, exec .fetchReadReturn s = .next t ∧ t.cap.attempt = some { a with got := got } ∧
          t.Queued (s.faultEntry .memoryParity (.address p.addr) [x.word.toNat, badLanes x, 2]) ∧
          t.Reading .fetch (r.recordAddr + (a.plan.getD got.length 0).val)) ∧
      (a.plan.length ≤ got.length → e.torn = false → q = [] →
        ∃ t r', exec .fetchReadReturn s = .next t ∧
          CommitApplied e.instr r r' e.flags e.seq e.time (attemptValues a.plan got) parity s t ∧
          t.cap = { s.cap with attempt := none, fetchQueue := [] }) ∧
      (a.plan.length ≤ got.length → e.torn = false → ∀ d ds, q = d :: ds → fetchPlan d.flags ≠ [] →
        ∃ t r', exec .fetchReadReturn s = .next t ∧
          CommitApplied e.instr r r' e.flags e.seq e.time (attemptValues a.plan got) parity s t ∧
          t.cap =
            { s.cap with
              attempt := some ⟨fetchPlan d.flags, []⟩
              fetchQueue := { d with attempt := d.attempt + 1, torn := false } :: ds
              lastWasPhase2 := false }) ∧
      (a.plan.length ≤ got.length → e.torn = false → ∀ d rd, q = [d] → fetchPlan d.flags = [] → d.instr ≠ e.instr →
        s.instrument? d.instr = some rd →
        ∃ u t r' rd', exec .fetchReadReturn s = .next t ∧
          CommitApplied e.instr r r' e.flags e.seq e.time (attemptValues a.plan got) parity s u ∧
          CommitApplied d.instr rd rd' d.flags d.seq d.time (Vector.replicate 7 none) [] u t ∧
          t.cap = { s.cap with attempt := none, fetchQueue := [] }) ∧
      (a.plan.length ≤ got.length → e.torn = true → e.attempt < 3 → fetchPlan e.flags ≠ [] → wordGood x = true →
        exec .fetchReadReturn s =
          .next (grant
            { s with
              cap :=
                { s.cap with
                  attempt := some ⟨fetchPlan e.flags, []⟩
                  fetchQueue := { e with attempt := e.attempt + 1, torn := false } :: q
                  lastWasPhase2 := false }
              mem :=
                { s.mem with
                  port := none
                  parts :=
                    s.mem.parts ++
                      [⟨.fetch, r.recordAddr + ((fetchPlan e.flags).getD 0 0).val, none, 0⟩] } })) ∧
      (a.plan.length ≤ got.length → e.torn = true → 3 ≤ e.attempt → q = [] → wordGood x = true →
        ∃ t r', exec .fetchReadReturn s = .next t ∧
          CommitApplied e.instr r r' e.flags e.seq e.time (Vector.replicate 7 none) torn s t ∧
          t.cap = { s.cap with attempt := none, fetchQueue := [] })) ∧
    (∀ d i, s.load = .phase2 d → d.inFlight = true → s.instrument? d.instr = some i →
      got.length < a.plan.length → wordGood x = true →
      exec .fetchReadReturn s =
        .next (grant
          { s with
            cap :=
              { s.cap with attempt := some { a with got := got }, lastWasPhase2 := !s.cap.lastWasPhase2 }
            mem :=
              { s.mem with
                port := none
                parts :=
                  s.mem.parts ++
                    [if s.cap.lastWasPhase2 then
                        ⟨.fetch, r.recordAddr + (a.plan.getD got.length 0).val, none, 0⟩
                      else ⟨.phase2, i.recordAddr + d.got.length, none, 0⟩] } }))) ∧
  ∀ (plan : List (Fin 7)) (got : List (Word × Bool)) (n : Fin 7), plan.Nodup →
    (n ∉ plan → (attemptValues plan got)[n] = none) ∧
      ∀ j : Nat, plan[j]? = some n →
        (attemptValues plan got)[n] =
          match got[j]? with
          | some (w, true) => some w
          | _ => none

/-- A staging slot held for 2 s is freed with STALE STAGING and its written mask, bit n for field word n, and a hold
whose expiry time is reached is discarded with HOLD EXPIRED. Nothing else changes. The expiry counts as reached when
the time since the hold was made, which is its expiry less the hold timeout, modulo 2^32, is the timeout or more: that
is log entry 26 (DEDUCED). -/
def Obligations.StagingAndHoldsExpire : Prop :=
  ∀ (i : Nat) (s : State), s.LogRoom →
    (∀ t, s.cap.slot i = some t → 2000 ≤ since s t.openTime →
      AnswersFault (.staleStaging i) s
        { s with cap := { s.cap with staging := s.cap.staging.filter (fun x => x.instr != i) } }
        .staleStaging (.instrument i) [t.mask, t.openTime.toNat] ∧
        ∀ n : Fin 7, t.mask.testBit n.val = t.values[n].isSome) ∧
    (∀ r h, s.instrument? i = some r → r.hold = some h →
      r.holdTimeout * 1000 ≤ (s.ctl.timeBase - (h.expiry - BitVec.ofNat 32 (r.holdTimeout * 1000))).toNat →
      AnswersFault (.holdExpired i) s
        { s with tbl := { s.tbl with instruments := s.tbl.instruments.set i { r with hold := none } } }
        .holdExpired (.instrument i) [h.price, h.size, h.captured.toNat])

/-- The flag set of each of the sixteen codes of a commit word: TRADE, QUOTE, HALT, RESUME, FAST-ON and FAST-OFF are
carried by exactly the codes of the table. The code is in bits 15 to 12 and the sequence in bits 11 to 0. -/
def Obligations.CommitFlagTable : Prop :=
  ∀ w : Word,
    let code := w.toNat / 4096
    let c := commitFlags w
    (c.trade = true ↔ code ∈ [1, 3, 5, 8, 9, 12]) ∧ (c.quote = true ↔ code ∈ [2, 3, 6, 9, 12]) ∧
    (c.halt = true ↔ code ∈ [4, 5, 6, 13, 15]) ∧ (c.resume = true ↔ code ∈ [7, 8, 9, 13, 15]) ∧
    (c.fastOn = true ↔ code ∈ [10, 12, 14, 15]) ∧ (c.fastOff = true ↔ code ∈ [11, 14, 15]) ∧
    (commitSeq w).toNat = w.toNat % 4096

/-! ### Prices -/

/-- Quantizing goes to the nearest step, halves to the upper, and reports rounding exactly when the price does not fall
on a step. -/
def Obligations.QuantizeNearest : Prop :=
  ∀ (b : FractionBase) (u : Nat),
    let s := 256 / b.den
    let q := quantize b u
    2 * (q * s) ≤ 2 * u + s ∧ 2 * u < 2 * (q * s) + s ∧
    q = u / s + (if s ≤ 2 * (u % s) then 1 else 0) ∧ (needsRounding b u = true ↔ u % s ≠ 0) ∧
    (needsRounding b u = true ↔ q * s ≠ u)

/-- The display form of a price is its whole part and, where the rest is not 0, the rest over the fraction base in
lowest terms, with a denominator of 2, 4, 8 or 16 that divides the base. What a board shows of a price or of a change
has a whole part of at most 9999 or 999, is over range exactly above that, and is shown exactly within it. The target
image of a record carries them cell by cell: the price in cells 0 to 4, the tick in 5, the sign and the change in 6 to
10, the status glyph in 11. -/
def Obligations.DisplayForms : Prop :=
  (∀ (b : FractionBase) (q : Nat) (c : Int),
    let f := displayForm b q
    (f.whole = q / b.den ∧ (f.frac = none ↔ q % b.den = 0) ∧
      ∀ x, f.frac = some x →
        x.num * b.den = (q % b.den) * x.den ∧ Nat.Coprime x.num x.den ∧ x.num < x.den ∧ x.den ∣ b.den ∧
          x.den ∈ [2, 4, 8, 16]) ∧
    (boardPrice b q).1.whole ≤ 9999 ∧ ((boardPrice b q).2 = true ↔ 9999 < q / b.den) ∧
    (q / b.den ≤ 9999 → boardPrice b q = (displayForm b q, false)) ∧
    (9999 < q / b.den → boardPrice b q = (⟨9999, some ⟨b.den - 1, b.den⟩⟩, true)) ∧
    (boardChange b c).1.whole ≤ 999 ∧ ((boardChange b c).2 = true ↔ 999 < c.natAbs / b.den) ∧
    (c.natAbs / b.den ≤ 999 → boardChange b c = (displayForm b c.natAbs, false)) ∧
    (999 < c.natAbs / b.den → boardChange b c = (⟨999, some ⟨b.den - 1, b.den⟩⟩, true)) ∧
    Nat.Coprime (b.den - 1) b.den) ∧
  ∀ r : Instrument,
    let image := boardImage r
    let change : Option Int :=
      match r.close, r.last with
      | some c, some l => some ((l : Int) - (c : Int))
      | _, _ => none
    let fractionOf (f : DisplayForm) : Glyph :=
      match f.frac with
      | none => .blank
      | some x => .fraction x
    let wholeDigit (f : DisplayForm) (j : Nat) : Glyph :=
      if f.whole = 0 ∧ f.frac ≠ none then .blank
      else if j = 0 ∨ 10 ^ j ≤ f.whole then .digit (f.whole / 10 ^ j % 10)
      else .blank
    let overRange : Bool :=
      (match r.last with
        | none => false
        | some q => decide (9999 < q / r.base.den)) ||
        (match change with
          | none => false
          | some c => decide (999 < c.natAbs / r.base.den))
    (r.last = none → ∀ c : Fin 12, c.val ≤ 4 → image[c] = .blank) ∧
    (∀ q, r.last = some q →
      (∀ j : Fin 4, image[3 - j.val] = wholeDigit (boardPrice r.base q).1 j.val) ∧
        image[4] = fractionOf (boardPrice r.base q).1) ∧
    (image[5] = match r.tick with
      | .none => .blank
      | .up => .arrowUp
      | .down => .arrowDown
      | .zeroUp => .levelUp
      | .zeroDown => .levelDown) ∧
    (change = none → ∀ c : Fin 12, 6 ≤ c.val → c.val ≤ 10 → image[c] = .blank) ∧
    (∀ c, change = some c →
      image[6] = (if 0 < c then .plus else if c < 0 then .minus else .blank) ∧
        (∀ j : Fin 3, image[9 - j.val] = wholeDigit (boardChange r.base c).1 j.val) ∧
        image[10] = fractionOf (boardChange r.base c).1) ∧
    image[11] =
      if r.halted then .letterH else if overRange then .overRange else if r.fast then .letterF else .blank

/-- The tick of a taken trade, by the six rows of the table, compared in steps; CLOSE leaves the tick as it is. -/
def Obligations.TickTable : Prop :=
  ∀ (r : Instrument) (q z : Nat) (rounding : Bool),
    let tick := (takeTrade q z rounding r).tick
    (r.last = none → tick = .none) ∧
    (∀ l, r.last = some l →
      (l < q → tick = .up) ∧ (q < l → tick = .down) ∧
      (q = l → r.tick = .up ∨ r.tick = .zeroUp → tick = .zeroUp) ∧
      (q = l → r.tick = .down ∨ r.tick = .zeroDown → tick = .zeroDown) ∧
      (q = l → r.tick = .none → tick = .none)) ∧
    (Instrument.closeDay r).tick = r.tick ∧
    ∀ (now captured : Time) (u1 u2 : Nat), quantize r.base u1 = quantize r.base u2 →
      (r.afterTrade now u1 z captured).tick = (r.afterTrade now u2 z captured).tick

/-- A taken trade sets last, size and off-increment, stretches the extremes to hold it, and adds its size to a volume
that saturates; it changes no other field but the tick. So low, last and high stand in order after it. -/
def Obligations.TradeTaken : Prop :=
  ∀ (r : Instrument) (q z : Nat) (rounding : Bool),
    let t := takeTrade q z rounding r
    t.last = some q ∧ t.lastSize = z ∧ t.offIncrement = rounding ∧
    (r.volume + z ≤ 4294967295 → t.volume = r.volume + z) ∧
    (4294967295 < r.volume + z → t.volume = 4294967295) ∧
    (∃ lo hi, t.low = some lo ∧ t.high = some hi ∧ lo ≤ q ∧ q ≤ hi ∧
      (lo = q ∨ r.low = some lo) ∧ (hi = q ∨ r.high = some hi) ∧
      (∀ l, r.low = some l → lo ≤ l) ∧ (∀ h, r.high = some h → h ≤ hi)) ∧
    t = { r with
      tick := t.tick, high := t.high, low := t.low, volume := t.volume, lastSize := t.lastSize, last := t.last,
      offIncrement := t.offIncrement }

/-- A trade is taken when there is no band, no last price, or a distance from last of at most the band in units, and is
held otherwise; being taken discards a hold, and being held replaces it. -/
def Obligations.BandDecides : Prop :=
  ∀ (i u z : Nat) (captured : Time) (r : Instrument) (s : State), s.instrument? i = some r →
    let q := quantize r.base u
    let near := r.band = 0 ∨ r.last = none ∨
      ∃ l, r.last = some l ∧ ((q : Int) - (l : Int)).natAbs * (256 / r.base.den) ≤ r.band
    let t := tradeArrives i u z captured s
    (bandTakes r q = true ↔ near) ∧
    (near →
      t.1.instrument? i = some { takeTrade q z (needsRounding r.base u) r with hold := none } ∧
        t.2 = some ⟨q, z, captured⟩) ∧
    (¬ near →
      t.1.instrument? i =
          some
            { r with
              hold :=
                some ⟨q, z, captured, needsRounding r.base u,
                  s.ctl.timeBase + BitVec.ofNat 32 (r.holdTimeout * 1000)⟩ } ∧
        t.2 = none) ∧
    (∀ h, r.hold = some h → s.LogRoom →
      t.1.Queued (s.faultEntry .holdSuperseded (.instrument i) [h.price, h.size, if bandTakes r q then 0 else 1])) ∧
    ∀ j, j ≠ i → t.1.instrument? j = s.instrument? j

/-- CONFIRM takes the held trade, discards the hold, sends the change notice with its trade part (the print, or PRINT
DROPPED, the QUOTE entries, the target images and their flash timers) and ends DONE; WITHDRAW
discards the hold and ends DONE. Both end REFUSED with BAD PARAMETER for an instrument that the directory has not, and
with NO HOLD for one without a hold. -/
def Obligations.HoldsSettled : Prop :=
  ∀ (w : Word) (s : State), s.Offered w → s.ctl.partState ≠ .unloaded →
    let i := s.ctl.latches[0].toNat
    ∀ c : Instr, (c = .confirm ∧ commandCode w = 3) ∨ (c = .withdraw ∧ commandCode w = 4) →
      (s.instrument? i = none → AnswersEnded c s s w (some .badParameter) 0) ∧
      (∀ r, s.instrument? i = some r →
        (r.hold = none → AnswersEnded c s s w (some .noHold) i) ∧
        (∀ h, r.hold = some h →
          (c = .withdraw →
            AnswersEnded c s
              { s with tbl := { s.tbl with instruments := s.tbl.instruments.set i { r with hold := none } } }
              w none 0) ∧
          (c = .confirm →
            ∃ t r', exec c s = .next t ∧ t.instrument? i = some r' ∧
              r' = { takeTrade h.price h.size h.rounding r with hold := none, full := r'.full } ∧
              t.ctl.command = ⟨.done, 3, commandSeq w, none, 0, s.ctl.latches⟩ ∧ t.Posted .commandStatus ∧
              t.handed = s.handed.drop 1 ∧ (∀ j, j ≠ i → t.instrument? j = s.instrument? j) ∧
              t.mem.ram = s.mem.ram ∧ t.mem.guards = s.mem.guards ∧ t.rst = s.rst ∧ t.cap = s.cap ∧
              t.drive = s.drive ∧ t.ctl.partState = s.ctl.partState ∧
              NoticeSent i r r' (some ⟨h.price, h.size, h.captured⟩) True s t ∧
              FaultsPosted s t
                (if r.eligible = true ∧ 128 ≤ s.tape.queue.length then
                    [(.printDropped, .instrument i, [h.price, h.size, h.captured.toNat])]
                  else []) ∧
              s.ctl.writeBack.Kept t.ctl.writeBack)))

/-! ### The board links -/

/-- A free running link sends the first that is due: a SET to the next position in turn whose setting differs, a CELLS
to the next in turn whose image differs, a poll to the position whose last frame is oldest; with nothing due it stays
quiet. A frame that has gone is followed by the next, by the reply wait, or by a choice, and so is a flash timer that
runs out. The due image is the target image, the all-segments image under a lamp test, or the blank; the due setting
is the commanded brightness with the flash mask, or dark; a poll comes round after 500 ms, or 5 s for an ABSENT
position. -/
def Obligations.LinkChooses : Prop :=
  (∀ (k : Fin 8) (s : State),
    let l := s.links[k]
    let sent (f : LinkFrame) (p lastSet lastCells : Fin 16) : State :=
      { s with
        links :=
          s.links.set k
            { l with
              positions := l.positions.set p { l.positions[p] with lastFrame := s.ctl.timeBase }
              wire := .sending f [] true
              lastSet := lastSet
              lastCells := lastCells } }
    let wired (w : Wire) : State := { s with links := s.links.set k { l with wire := w } }
    (l.running = false ∨ l.wire ≠ .quiet → exec (.pollDue k) s = .next (grant s)) ∧
    (l.running = true → l.wire = .quiet →
      (∀ p, s.setDue k p = true → (∀ p', p' - l.lastSet - 1 < p - l.lastSet - 1 → s.setDue k p' = false) →
        exec (.pollDue k) s = .next (grant (sent (.set (codeOf p) (s.dueSetting k p)) p p l.lastCells))) ∧
      ((∀ p, s.setDue k p = false) →
        (∀ p, s.cellsDue k p = true →
          (∀ p', p' - l.lastCells - 1 < p - l.lastCells - 1 → s.cellsDue k p' = false) →
          exec (.pollDue k) s =
            .next (grant (sent (cellsFrame p l.positions[p].shownImage (s.dueImage k p)) p l.lastSet p))) ∧
        ((∀ p, s.cellsDue k p = false) →
          (∀ p a, s.pollAge k p = some a →
            (∀ p' a', s.pollAge k p' = some a' → a' < a ∨ (a' = a ∧ p ≤ p')) →
            exec (.pollDue k) s = .next (grant (sent (.poll (codeOf p)) p l.lastSet l.lastCells))) ∧
          ((∀ p, s.pollAge k p = none) → exec (.pollDue k) s = .next (grant s))))) ∧
    (∀ f next wait, l.wire = .sending f next wait →
      (∀ g rest, next = g :: rest → exec (.frameSent k) s = .next (grant (wired (.sending g rest wait)))) ∧
      (next = [] → wait = true → exec (.frameSent k) s = .next (grant (wired (.awaiting f s.ctl.timeBase)))) ∧
      (next = [] → wait = false → exec (.frameSent k) s = exec (.pollDue k) (wired .quiet))) ∧
    (∀ (m : Fin 16) t, l.modules[m].flash = some t → s.flashTime * 1000 ≤ since s t →
      let stopped : State :=
        { s with
          links := s.links.set k { l with modules := l.modules.set m { l.modules[m] with flash := none } } }
      exec (.flashTimerExpiry k m) s = exec (.pollDue k) stopped ∧
        ∃ u, exec (.flashTimerExpiry k m) s = .next u ∧ u.links[k].modules[m].flash = none)) ∧
  ∀ (k : Fin 8) (p : Fin 16) (s : State),
    let l := s.links[k]
    let q := l.positions[p]
    let served : Prop := q.kind ≠ .notFitted ∧ q.state ∈ [.unknown, .active, .idle, .tripped]
    let tested : Prop := ∃ t, s.drive.lampTest = some t ∧ t.link = k
    (∀ m : Fin 16, some (s.shows k m) = s.tbl.boardMap[16 * k.val + m.val]?) ∧
    (∀ m, l.targetedBy p = some m → l.positions[m].kind = .home ∧ l.modules[m].target = some p) ∧
    (l.targetedBy p = none → ∀ m : Fin 16, l.positions[m].kind = .home → l.modules[m].target ≠ some p) ∧
    (l.targetedBy p = none → s.dueImage k p = Image.blank ∧ s.dueSetting k p = ⟨0, 0⟩) ∧
    (∀ m, l.targetedBy p = some m →
      (tested → q.tripDisabled = false → q.state = .unknown ∨ q.state = .active →
        s.dueImage k p = Vector.replicate 12 .allSegments) ∧
      (¬ (tested ∧ q.tripDisabled = false ∧ (q.state = .unknown ∨ q.state = .active)) →
        s.dueImage k p = l.modules[m].image) ∧
      (s.dueSetting k p).brightness = s.boardBrightness q ∧
      ((∃ i r, s.shows k m = some i ∧ s.instrument? i = some r ∧ r.halted = true) ∨ s.flashPermitted = false ∨
          l.modules[m].flash = none →
        (s.dueSetting k p).flash = 0) ∧
      ((∀ i r, s.shows k m = some i → s.instrument? i = some r → r.halted = false) → s.flashPermitted = true →
        l.modules[m].flash ≠ none → (s.dueSetting k p).flash = 0x01F)) ∧
    (s.setDue k p = true ↔ served ∧ q.shownSetting ≠ some (s.dueSetting k p)) ∧
    (s.cellsDue k p = true ↔ served ∧ q.shownImage ≠ some (s.dueImage k p)) ∧
    ∀ a, s.pollAge k p = some a ↔
      a = since s q.lastFrame ∧ ((served ∧ 500 ≤ a) ∨ (q.kind ≠ .notFitted ∧ q.state = .absent ∧ 5000 ≤ a))

/-- A good reply with status OK makes the position's miss count 0, acknowledges what its frame showed, and takes it
from UNKNOWN to ACTIVE or IDLE and from ABSENT to IDLE; a missed reply, or the end of the 4 ms, is counted, and the
third makes a served position ABSENT with MODULE ABSENT posted and its logical module remapped, to the IDLE spare with
the lowest chain position or, with NO SPARE posted, to NONE. Bytes that no frame awaits change nothing. That the wait
may end once 4 ms have passed is log entry 15 (DEDUCED); what a good reply is, and what it acknowledges, is in
LinkFrames. -/
def Obligations.RepliesCounted : Prop :=
  (∀ (k : Fin 8) (b0 b1 b2 : Byte) (s : State),
    let l := s.links[k]
    ((∀ f t, l.wire ≠ .awaiting f t) → exec (.reply k b0 b1 b2) s = .next (grant s)) ∧
    ∀ f t, l.wire = .awaiting f t →
      let p := f.pos
      let q := l.positions[p]
      let base (q' : Position) : Link := { l with wire := .quiet, positions := l.positions.set p q' }
      let floor (u : State) : Prop :=
        FloorOnly s u ∧ u.drive = { s.drive with log := u.drive.log } ∧ u.handed = s.handed ∧
          ∀ j : Fin 8, j ≠ k → SameLink s.links[j] u.links[j]
      (replyGood s f t b0 b1 b2 = true → b1 = 0 →
        ∃ u, exec (.reply k b0 b1 b2) s = .next u ∧ floor u ∧
          let q' := Position.acknowledge { q with missed := 0 } f
          SameLink
            (base
              (match q.state with
               | .unknown => { q' with state := if l.targeted p then .active else .idle }
               | .absent => { q' with state := .idle, shownImage := none, shownSetting := none }
               | _ => q'))
            u.links[k]) ∧
      (∀ c : Instr,
        (c = .reply k b0 b1 b2 ∧ replyGood s f t b0 b1 b2 = false) ∨ (c = .replyTimeout k ∧ 4 ≤ since s t) →
        let q' := match f with
          | .poll _ => q
          | _ => { q with shownImage := none, shownSetting := none }
        (q.served = false ∨ q.missed + 1 < 3 →
          ∃ u, exec c s = .next u ∧ floor u ∧
            SameLink (base { q' with missed := if q.served then q.missed + 1 else 0 }) u.links[k]) ∧
        (q.served = true → 3 ≤ q.missed + 1 →
          let absent : Link := base { q' with missed := 0, state := .absent }
          ∃ u, exec c s = .next u ∧ floor u ∧ RemapsAway p absent u.links[k] ∧
            (s.LogRoom →
              u.Queued
                (s.faultEntry .moduleAbsent (.physicalPosition (16 * k.val + p.val))
                  [q.state.code, moduleDetail k (l.targetedBy p), q.trips])) ∧
            (∀ m, absent.targetedBy p = some m → absent.idleSpare = none → s.LogRoom → s.slotTaken.LogRoom →
              u.Queued
                (s.slotTaken.faultEntry .noSpare (.logicalModule (16 * k.val + m.val)) [16 * k.val + p.val, 4]))))) ∧
  ∀ l : Link,
    (∀ y, l.idleSpare = some y ↔
      l.positions[y].kind = .spare ∧ l.positions[y].state = .idle ∧
        ∀ z : Fin 16, z < y → ¬ (l.positions[z].kind = .spare ∧ l.positions[z].state = .idle)) ∧
    (l.idleSpare = none ↔ ∀ z : Fin 16, ¬ (l.positions[z].kind = .spare ∧ l.positions[z].state = .idle)) ∧
    (∀ p : Fin 16, l.targeted p = true ↔ ∃ m, l.targetedBy p = some m) ∧
    (∀ q : Position, q.served = true ↔ q.kind ≠ .notFitted ∧ q.state ∈ [.unknown, .active, .idle, .tripped]) ∧
    ∀ (k : Fin 8) (m : Fin 16), moduleDetail k none = 0xFF ∧ moduleDetail k (some m) = 16 * k.val + m.val

/-- A reply with status TRIP from a fitted position in UNKNOWN, ACTIVE, IDLE or ABSENT is a new trip: the trip count
rises, MODULE TRIP or at the third MODULE FAILED is posted, the trip-disable flags are set by the link's policy, and
the position goes TRIPPED, or FAILED with its logical module remapped, NO SPARE being posted where no spare is IDLE. In
TRIPPED and FAILED it is no new trip. Under LINK and BOARD the flag is set on every fitted position. -/
def Obligations.TripsCounted : Prop :=
  (∀ (k : Fin 8) (b0 b1 b2 : Byte) (f : LinkFrame) (t : Time) (s : State),
    let l := s.links[k]
    let p := f.pos
    let q := l.positions[p]
    l.wire = .awaiting f t → replyGood s f t b0 b1 b2 = true → b1 = 1 → q.kind ≠ .notFitted →
    let heard := Position.acknowledge { q with missed := 0 } f
    let count := min 3 (q.trips + 1)
    let after : Position :=
      { (if q.state = .absent then { heard with shownImage := none, shownSetting := none } else heard) with
        trips := count
        state := if count = 3 then .failed else .tripped }
    let one : Link := { l with wire := .quiet, positions := l.positions.set p { after with tripDisabled := true } }
    let base : Link := if l.policy = .moduleOnly then one else one.disableAll
    let floor (u : State) : Prop := FloorOnly s u ∧ u.drive = { s.drive with log := u.drive.log } ∧ u.handed = s.handed
    (q.state = .tripped ∨ q.state = .failed →
      ∃ u, exec (.reply k b0 b1 b2) s = .next u ∧ floor u ∧
        (∀ j : Fin 8, j ≠ k → SameLink s.links[j] u.links[j]) ∧
        SameLink { l with wire := .quiet, positions := l.positions.set p heard } u.links[k]) ∧
    (q.state ≠ .tripped → q.state ≠ .failed →
      ∃ u, exec (.reply k b0 b1 b2) s = .next u ∧ floor u ∧
        (∀ j : Fin 8, j ≠ k →
          SameLink (if l.policy = .board then s.links[j].disableAll else s.links[j]) u.links[j]) ∧
        (count < 3 → SameLink base u.links[k]) ∧ (count = 3 → RemapsAway p base u.links[k]) ∧
        (s.LogRoom →
          u.Queued
            (s.faultEntry (if count = 3 then .moduleFailed else .moduleTrip)
              (.physicalPosition (16 * k.val + p.val))
              [count, l.policy.code, q.state.code, moduleDetail k (l.targetedBy p)])) ∧
        (∀ m, count = 3 → base.targetedBy p = some m → base.idleSpare = none → s.LogRoom → s.slotTaken.LogRoom →
          u.Queued
            (s.slotTaken.faultEntry .noSpare (.logicalModule (16 * k.val + m.val)) [16 * k.val + p.val, 5])))) ∧
  ∀ l : Link,
    l.disableAll = { l with positions := l.disableAll.positions } ∧
      ∀ p : Fin 16, l.disableAll.positions[p] =
        { l.positions[p] with
          tripDisabled := l.positions[p].tripDisabled || l.positions[p].kind != .notFitted }

/-- REMAP moves a logical module of the loaded floor to a fitted IDLE position of its own link, and RESTORE moves it
home, or finds it there; each ends DONE. REMAP ends REFUSED with BAD PARAMETER or NOT IDLE, RESTORE with BAD PARAMETER
or HOME NOT READY. Every step, of these and of every other command, keeps the law of the physical targets: a position is
the target of at most one logical module, and one in ABSENT or FAILED, or an IDLE one, of none. -/
def Obligations.ModulesMoved : Prop :=
  (∀ (w : Word) (s : State), s.Offered w → s.ctl.partState ≠ .unloaded →
    let a := s.ctl.latches[0].toNat
    let b := s.ctl.latches[1].toNat
    let moved (c : Instr) (code : Nat) (k : Fin 8) (m p : Fin 16) : Prop :=
      ∃ u, exec c s = .next u ∧ FloorOnly s u ∧ u.drive = { s.drive with log := u.drive.log } ∧ u.handed = s.handed.drop 1 ∧
        u.ctl.command = ⟨.done, code, commandSeq w, none, 0, s.ctl.latches⟩ ∧ u.ctl.alert.commandCause = true ∧
        u.Posted .commandStatus ∧ Moved m (some p) s.links[k] u.links[k] ∧
        ∀ j : Fin 8, j ≠ k → SameLink s.links[j] u.links[j]
    (commandCode w = 5 →
      ((128 ≤ b ∨ ¬ ∃ (k : Fin 8) (m : Fin 16), a = 16 * k.val + m.val ∧ s.links[k].positions[m].kind = .home) →
        AnswersEnded .remap s s w (some .badParameter) 0) ∧
      ∀ (k j : Fin 8) (m p : Fin 16), a = 16 * k.val + m.val → s.links[k].positions[m].kind = .home →
        b = 16 * j.val + p.val →
        (j ≠ k ∨ s.links[k].positions[p].kind = .notFitted ∨ s.links[k].positions[p].state ≠ .idle →
          AnswersEnded .remap s s w (some .notIdle) b) ∧
        (j = k → s.links[k].positions[p].kind ≠ .notFitted → s.links[k].positions[p].state = .idle →
          moved .remap 5 k m p)) ∧
    (commandCode w = 6 →
      ((¬ ∃ (k : Fin 8) (m : Fin 16), a = 16 * k.val + m.val ∧ s.links[k].positions[m].kind = .home) →
        AnswersEnded .restore s s w (some .badParameter) 0) ∧
      ∀ (k : Fin 8) (m : Fin 16), a = 16 * k.val + m.val → s.links[k].positions[m].kind = .home →
        (s.links[k].modules[m].target = some m → AnswersEnded .restore s s w none 0) ∧
        (s.links[k].modules[m].target ≠ some m → s.links[k].positions[m].state ≠ .idle →
          AnswersEnded .restore s s w (some .homeNotReady) a) ∧
        (s.links[k].modules[m].target ≠ some m → s.links[k].positions[m].state = .idle →
          moved .restore 6 k m m))) ∧
  ∀ s t : State, s.TargetsLawful → step s = .next t → t.TargetsLawful

/-- The CELLS frame for a shown image that differs from the due one runs from the lowest cell that differs to the
highest and carries the due glyphs; for an unknown one it carries all twelve. The bytes of every frame that a link
sends sum to 0 modulo 256, its check byte among them, and so do the three bytes of every good reply, which names the
position addressed and has status 00H or 01H. The bytes of CELLS, SET and POLL and the glyph codes are those of para
10.6. A reply is good exactly when it comes within 4 ms (log entry 15, DEDUCED), its bytes sum to 0, it names the
position and its status is OK or TRIP; it makes the sent values the shown ones, each cell that the frame carried. -/
def Obligations.LinkFrames : Prop :=
  (∀ (p : Fin 16) (due : Image),
    cellsFrame p none due = .cells (codeOf p) 0 due.toList ∧
    ∀ shown : Image, shown ≠ due →
      ∃ lo hi : Fin 12, lo ≤ hi ∧ shown[lo] ≠ due[lo] ∧ shown[hi] ≠ due[hi] ∧
        (∀ c : Fin 12, c < lo ∨ hi < c → shown[c] = due[c]) ∧
        ∃ gs, cellsFrame p (some shown) due = .cells (codeOf p) lo.val gs ∧ gs.length = hi.val + 1 - lo.val ∧
          ∀ c : Fin 12, lo ≤ c → c ≤ hi → gs[c.val - lo.val]? = some due[c]) ∧
  (∀ f : LinkFrame, f.bytes.foldl (· + ·) 0 = 0) ∧
  (∀ (s : State) (f : LinkFrame) (t : Time) (b0 b1 b2 : Byte), replyGood s f t b0 b1 b2 = true →
    [b0, b1, b2].foldl (· + ·) 0 = 0 ∧ b0.toNat = f.pos.val ∧ (b1 = 0 ∨ b1 = 1)) ∧
  (∀ (s : State) (f : LinkFrame) (t : Time) (b0 b1 b2 : Byte), replyGood s f t b0 b1 b2 = true ↔
    (s.ctl.timeBase - t).toNat ≤ 4 ∧ (b0.toNat + b1.toNat + b2.toNat) % 256 = 0 ∧ b0.toNat = f.pos.val ∧
      (b1 = 0 ∨ b1 = 1)) ∧
  (∀ q : Position,
    (∀ c, Position.acknowledge q (.poll c) = q) ∧
    (∀ c w, Position.acknowledge q (.set c w) = { q with shownSetting := some w }) ∧
    ∀ c first gs,
      let a := Position.acknowledge q (.cells c first gs)
      a = { q with shownImage := a.shownImage } ∧
      (∀ img, q.shownImage = some img → ∃ i, a.shownImage = some i ∧
        ∀ x : Fin 12,
          (∀ g, gs[x.val - first]? = some g → first ≤ x.val → i[x] = g) ∧
            (x.val < first ∨ first + gs.length ≤ x.val → i[x] = img[x])) ∧
      (q.shownImage = none → first = 0 ∧ gs.length = 12 →
        ∃ i, a.shownImage = some i ∧ ∀ (x : Fin 12) g, gs[x.val]? = some g → i[x] = g) ∧
      (q.shownImage = none → ¬ (first = 0 ∧ gs.length = 12) → a.shownImage = none)) ∧
  (∀ (c : BitVec 5) (w : Setting) (first : Nat) (gs : List Glyph),
    let sent (f : LinkFrame) : List Nat := f.bytes.dropLast.map (·.toNat)
    sent (.poll c) = [96 + c.toNat] ∧
    (w.brightness ≤ 4 →
      sent (.set c w) = [64 + c.toNat, w.brightness, w.flash.toNat / 256, w.flash.toNat % 256]) ∧
    (first ≤ 11 → gs.length ≤ 12 →
      sent (.cells c first gs) = [32 + c.toNat, 16 * first + gs.length] ++ gs.map (fun g => g.code % 256)) ∧
    (LinkFrame.poll c).code = c ∧ (LinkFrame.set c w).code = c ∧ (LinkFrame.cells c first gs).code = c) ∧
  (∀ p : Fin 16, (codeOf p).toNat = p.val) ∧ (∀ f : LinkFrame, f.pos.val = f.code.toNat % 16) ∧
  LinkFrame.blankCells = .cells 0x1F 0 (List.replicate 12 .blank) ∧ LinkFrame.blankSet = .set 0x1F ⟨0, 0⟩ ∧
  (∀ d : Fin 10, (Glyph.digit d.val).code = 0x10 + d.val) ∧
  ∀ x ∈ ([(.blank, 0x00), (.fraction ⟨1, 2⟩, 0x20), (.fraction ⟨1, 4⟩, 0x21), (.fraction ⟨3, 4⟩, 0x22),
      (.fraction ⟨1, 8⟩, 0x23), (.fraction ⟨3, 8⟩, 0x24), (.fraction ⟨5, 8⟩, 0x25), (.fraction ⟨7, 8⟩, 0x26),
      (.fraction ⟨1, 16⟩, 0x27), (.fraction ⟨3, 16⟩, 0x28), (.fraction ⟨5, 16⟩, 0x29), (.fraction ⟨7, 16⟩, 0x2A),
      (.fraction ⟨9, 16⟩, 0x2B), (.fraction ⟨11, 16⟩, 0x2C), (.fraction ⟨13, 16⟩, 0x2D), (.fraction ⟨15, 16⟩, 0x2E),
      (.plus, 0x30), (.minus, 0x31), (.arrowUp, 0x32), (.arrowDown, 0x33), (.levelUp, 0x34), (.levelDown, 0x35),
      (.letterH, 0x36), (.letterF, 0x37), (.overRange, 0x38), (.allSegments, 0x3F)] : List (Glyph × Nat)),
    Glyph.code x.1 = x.2

/-! ### Drive protection -/

/-- The commanded brightness of boards and ribbon, and the flash permission, by the rows of the table: with HOT
latched or LLOW present every one is 0, whatever the stage, and the ribbon is below 4 only while boards are at 2 or 0.
A link's drive enable is set while none of its fitted positions is trip-disabled. -/
def Obligations.CommandedOutputs : Prop :=
  ∀ (s : State) (q : Position),
    let stage := s.drive.governor.stage
    (s.drive.hotLatch = true ∨ s.drive.llow.taken = true → s.boardBrightness q = 0 ∧ s.ribbonBrightness = 0) ∧
    (s.drive.hotLatch = false → s.drive.llow.taken = false → stage ≤ 4 →
      (q.tripDisabled = true → s.boardBrightness q = 0) ∧
      (q.tripDisabled = false →
        s.boardBrightness q = (if stage ≤ 1 then 4 else if stage = 2 then 3 else 2)) ∧
      s.ribbonBrightness = (if stage = 4 then 2 else 4)) ∧
    (s.flashPermitted = true ↔ stage = 0) ∧
    (s.ribbonBrightness < 4 → s.boardBrightness q = 2 ∨ s.boardBrightness q = 0) ∧
    (∀ l : Link, l.driveEnable = true ↔
      ∀ p : Fin 16, l.positions[p].kind ≠ .notFitted → l.positions[p].tripDisabled = false) ∧
    (s.anyTripDisabled = true ↔ ∃ k : Fin 8, s.links[k].driveEnable = false)

/-- P_eff is the limit word × 16 by the four rows of the table, rounded down once, the retreat level is seven eighths
of it, and each sample works both out afresh from the limit word and the taken levels. -/
def Obligations.EffectiveLimit : Prop :=
  ∀ w : Word,
    let p := w.toNat * 16
    effectiveLimit w false false = p ∧ effectiveLimit w true false = p * 3 / 4 ∧
    effectiveLimit w false true = p / 2 ∧ effectiveLimit w true true = p * 3 / 8 ∧ p ≤ 1048560 ∧
    (∀ limit, retreatLevel limit = limit * 7 / 8) ∧
    ∀ (g : Governor) (warm lwarn : Bool) (load : Nat),
      let x := joinWindow g.n g.window load
      let limit := effectiveLimit g.limitWord warm lwarn
      x.length = g.n → g.n ≤ g.count + 1 →
      (g.sample warm lwarn load).stage =
        if limit < x.sum / g.n ∧ g.stage < 4 then g.stage + 1
        else if x.sum / g.n < retreatLevel limit ∧ 0 < g.stage then g.stage - 1
        else g.stage

/-- A sample that is due joins the window, which keeps the last N, and counts; the stage is judged only with N samples
and N since its last change, moves at most one step, and is posted when it moves. The sample's load is the sum of the
eight links' reports and the ribbon's: of a running link, over its positions in UNKNOWN, ACTIVE, IDLE and TRIPPED, the
lit segments of the shown image, or of the due one where it is unknown, times the due brightness; of the ribbon, 20
times the non-blank characters of its window times its commanded brightness. -/
def Obligations.GovernorSampled : Prop :=
  (∀ s : State, s.rst.inReset = false → 10 ≤ since s s.drive.governor.lastSample →
    let g := s.drive.governor
    let n := 2 ^ g.y * (4 + g.x)
    let w := (g.window ++ [s.sampleLoad]).drop (g.window.length + 1 - n)
    let count := min n (g.count + 1)
    let limit := effectiveLimit g.limitWord s.drive.warm.taken s.drive.lwarn.taken
    ∃ u, exec .governorSample s = .next u ∧ FloorOnly s u ∧ u.handed = s.handed ∧
      (∀ k : Fin 8, SameLink s.links[k] u.links[k]) ∧
      u.drive = { s.drive with governor := u.drive.governor, log := u.drive.log } ∧
      u.drive.governor =
        { g with
          window := w
          lastSample := g.lastSample + 10
          stage := u.drive.governor.stage
          count := if u.drive.governor.stage = g.stage then count else 0 } ∧
      (w.length ≠ n ∨ count ≠ n → u.drive.governor.stage = g.stage) ∧
      (w.length = n → count = n →
        u.drive.governor.stage =
          if limit < w.sum / n ∧ g.stage < 4 then g.stage + 1
          else if w.sum / n < limit * 7 / 8 ∧ 0 < g.stage then g.stage - 1
          else g.stage) ∧
      (u.drive.governor.stage ≠ g.stage → g.stage ≤ 4 → u.Posted .governorStage)) ∧
  (∀ s : State,
    s.sampleLoad = ((List.finRange 8).map s.linkLoad).sum + s.ribbonLoad ∧
    s.ribbonLoad = 20 * s.tape.window.countP (· != 0x20) * s.ribbonBrightness ∧
    ∀ k : Fin 8,
      (s.links[k].running = false → s.linkLoad k = 0) ∧
      (s.links[k].running = true →
        s.linkLoad k =
          ((List.finRange 16).map (fun p =>
            let q := s.links[k].positions[p]
            if q.kind ≠ .notFitted ∧ q.state ∈ [.unknown, .active, .idle, .tripped] then
              ((match q.shownImage with
                | none => s.dueImage k p
                | some i => i).toList.map Glyph.segments).sum * (s.dueSetting k p).brightness
            else 0)).sum)) ∧
  ∀ x ∈ ([(.blank, 0), (.digit 0, 8), (.digit 1, 2), (.digit 2, 8), (.digit 3, 7), (.digit 4, 5), (.digit 5, 8),
      (.digit 6, 9), (.digit 7, 4), (.digit 8, 10), (.digit 9, 9), (.fraction ⟨1, 2⟩, 6), (.fraction ⟨1, 4⟩, 6),
      (.fraction ⟨3, 4⟩, 7), (.fraction ⟨1, 8⟩, 6), (.fraction ⟨3, 8⟩, 7), (.fraction ⟨5, 8⟩, 7),
      (.fraction ⟨7, 8⟩, 6), (.fraction ⟨1, 16⟩, 7), (.fraction ⟨3, 16⟩, 8), (.fraction ⟨5, 16⟩, 8),
      (.fraction ⟨7, 16⟩, 7), (.fraction ⟨9, 16⟩, 8), (.fraction ⟨11, 16⟩, 7), (.fraction ⟨13, 16⟩, 8),
      (.fraction ⟨15, 16⟩, 9), (.plus, 4), (.minus, 2), (.arrowUp, 5), (.arrowDown, 5), (.levelUp, 4), (.levelDown, 4),
      (.letterH, 6), (.letterF, 5), (.overRange, 6), (.allSegments, 16)] : List (Glyph × Nat)),
    Glyph.segments x.1 = x.2

/-- A raw comparator input that changes level starts or ends its watch, and a raw HOT that appears ends a HOT check with
STILL HOT. A level that has held for 20 ms is taken: a taken rise of HOT sets the latch and posts HOT, a taken rise of
LLOW posts LAMP LOW, and either ends a LAMP TEST with DRIVE OFF; no taken fall clears the latch. The drive state word is posted when
it changes, and a still ribbon presents the new brightness at once. -/
def Obligations.ComparatorsFiltered : Prop :=
  ∀ (c : Comparator) (s : State),
    let f := s.drive.filter c
    (∀ level, f.raw ≠ level →
      let drive := s.drive.setFilter c ⟨level, f.taken, if level = f.taken then none else some s.ctl.timeBase⟩
      (s.drive.hotCheck = none ∨ c ≠ .hot ∨ level = false →
        exec (.comparatorInputChange c level) s = .next (grant { s with drive := drive })) ∧
      (s.drive.hotCheck ≠ none → c = .hot → level = true →
        ∃ v, exec (.comparatorInputChange c level) s = .next (grant v) ∧ v.Posted .commandStatus ∧
          OnlyPosts ({ s with drive := { drive with hotCheck := none } }.runEnded (some .stillHot) 0) v)) ∧
    (∀ t, f.watch = some t → s.rst.inReset = false → 20 ≤ since s t →
      ∃ u, exec (.filterTaken c) s = .next u ∧ FloorOnly s u ∧ u.handed = s.handed ∧
        (∀ k : Fin 8, SameLink s.links[k] u.links[k]) ∧
        u.drive.filter c = ⟨f.raw, f.raw, none⟩ ∧ (∀ d, d ≠ c → u.drive.filter d = s.drive.filter d) ∧
        u.tableWords .driveState = [u.driveStateWord] ∧
        (u.driveStateWord ≠ s.driveStateWord → u.Posted .driveState) ∧
        u.drive.governor = s.drive.governor ∧ u.drive.hotCheck = s.drive.hotCheck ∧
        u.drive.hotLatch = (s.drive.hotLatch || (f.raw && c == .hot)) ∧
        (f.raw = true → c = .hot → s.LogRoom → u.Queued (s.faultEntry .hot .none [u.driveStateWord.toNat])) ∧
        (f.raw = true → c = .llow → s.LogRoom → u.Queued (s.faultEntry .lampLow .none [u.driveStateWord.toNat])) ∧
        (f.raw = true → (c = .hot ∨ c = .llow) → s.drive.lampTest ≠ none →
          u.drive.lampTest = none ∧ u.Posted .commandStatus ∧
            u.ctl.command = { s.ctl.command with state := .refused, result := some .driveOff, detail := 0 }) ∧
        (f.raw = false ∨ c = .warm ∨ c = .lwarn ∨ s.drive.lampTest = none →
          u.drive.lampTest = s.drive.lampTest ∧ u.ctl.command = s.ctl.command))

/-- REARM ends REFUSED with BAD PARAMETER or STILL HOT, begins a HOT check while the latch is set, or at once re-enables
the links it names and ends DONE; the end of a HOT check clears the latch, re-enables them and ends it DONE. Positions
of a re-enabled link lose their trip-disable flags, and those TRIPPED go ACTIVE or IDLE. A parameter of 0 to 7 names that
link, and 00FFH all eight. That REARM ends with STILL HOT at
once where the raw HOT input is present and its taken level is absent is log entry 24 (DEDUCED). -/
def Obligations.RearmAndHotCheck : Prop :=
  ∀ (w : Word) (s : State),
    let x := s.ctl.latches[0]
    let named (ks : List (Fin 8)) : Prop :=
      (∃ k : Fin 8, x.toNat = k.val ∧ ks = [k]) ∨ (x = 0x00FF ∧ ks = [0, 1, 2, 3, 4, 5, 6, 7])
    let enabled (l : Link) : Link :=
      { l with
        positions := Vector.ofFn (fun p =>
          { l.positions[p] with
            tripDisabled := l.positions[p].tripDisabled && l.positions[p].kind == .notFitted
            state :=
              if l.positions[p].state = .tripped then (if l.targeted p then .active else .idle)
              else l.positions[p].state }) }
    let floor (ks : List (Fin 8)) (u : State) : Prop :=
      (∀ k : Fin 8, SameLink (if k ∈ ks then enabled s.links[k] else s.links[k]) u.links[k]) ∧ FloorOnly s u ∧
        u.ctl.alert.commandCause = true ∧ u.Posted .commandStatus
    (s.Offered w → commandCode w = 7 → s.ctl.partState ≠ .unloaded →
      (8 ≤ x.toNat → x ≠ 0x00FF → AnswersEnded .rearm s s w (some .badParameter) 0) ∧
      (∀ ks, named ks → s.drive.hotLatch = true →
        (s.drive.hot.taken = true ∨ s.drive.hot.raw = true → AnswersEnded .rearm s s w (some .stillHot) 0) ∧
        (s.drive.hot.taken = false → s.drive.hot.raw = false →
          ∃ v, exec .rearm s = .next (grant v) ∧ v.Posted .commandStatus ∧
            OnlyPosts ({ s with drive := { s.drive with hotCheck := some ⟨s.ctl.timeBase, ks⟩ } }.begun w) v)) ∧
      (∀ ks, named ks → s.drive.hotLatch = false →
        ∃ u, exec .rearm s = .next u ∧ floor ks u ∧ u.drive = { s.drive with log := u.drive.log } ∧
          u.handed = s.handed.drop 1 ∧ u.ctl.command = ⟨.done, 7, commandSeq w, none, 0, s.ctl.latches⟩)) ∧
    (∀ h, s.drive.hotCheck = some h → s.rst.inReset = false → 20 ≤ since s h.since →
      ∃ u, exec .hotCheckEnd s = .next u ∧ floor h.links u ∧ u.handed = s.handed ∧
        u.drive = { s.drive with hotLatch := false, hotCheck := none, log := u.drive.log } ∧
        u.ctl.command = { s.ctl.command with state := .done, result := none, detail := 0 })

/-- LAMP TEST ends REFUSED with BAD PARAMETER or DRIVE OFF, or puts its first link under test; after 5 s the next
link's test begins, and after the last LAMP TEST ends DONE. A parameter of 0 to 7 names that link, and 00FFH all
eight. CLEAR LIMIT LOG clears each log flag whose reason does not hold, posts the limit reasons word and ends DONE. No
other event clears a log flag but a reset's end, and every event sets the flag of each reason that comes to hold in it.
That the next link's 5 s count from the reading at LAMP_TEST_LINK_END is log entry 25 (DEDUCED). -/
def Obligations.LampTestAndLimitLog : Prop :=
  (∀ (c : Instr) (s t : State), exec c s = .next t →
    ∀ flag ∈ ([Reasons.stage, Reasons.warm, Reasons.lwarn, Reasons.llow, Reasons.hot, Reasons.tripDisabled] :
        List (Reasons → Bool)),
      (c ≠ .clearLimitLog → (∀ p, c ≠ .resetEnd p) → flag s.drive.log = true → flag t.drive.log = true) ∧
        (flag s.limitStatus = false → flag t.limitStatus = true → flag t.drive.log = true)) ∧
  (∀ s : State, s.limitStatus =
    ⟨decide (0 < s.drive.governor.stage), s.drive.warm.taken, s.drive.lwarn.taken, s.drive.llow.taken,
      s.drive.hotLatch, s.anyTripDisabled⟩) ∧
  ∀ (w : Word) (s : State),
    let x := s.ctl.latches[0]
    let named (ks : List (Fin 8)) : Prop :=
      (∃ k : Fin 8, x.toNat = k.val ∧ ks = [k]) ∨ (x = 0x00FF ∧ ks = [0, 1, 2, 3, 4, 5, 6, 7])
    let testing (ks : List (Fin 8)) : Option LampTest :=
      match ks with
      | [] => none
      | k :: rest => some ⟨k, s.ctl.timeBase, rest⟩
    (s.Offered w → commandCode w = 8 → s.ctl.partState ≠ .unloaded →
      (8 ≤ x.toNat → x ≠ 0x00FF → AnswersEnded .lampTest s s w (some .badParameter) 0) ∧
      ∀ ks, named ks →
        (s.drive.hotLatch = true ∨ s.drive.llow.taken = true →
          AnswersEnded .lampTest s s w (some .driveOff) 0) ∧
        (s.drive.hotLatch = false → s.drive.llow.taken = false →
          ∃ v, exec .lampTest s = .next (grant (chooseAll v)) ∧ v.Posted .commandStatus ∧
            OnlyPosts ({ s with drive := { s.drive with lampTest := testing ks } }.begun w) v)) ∧
    (∀ t, s.drive.lampTest = some t → s.rst.inReset = false → 5000 ≤ since s t.since →
      (t.rest ≠ [] →
        exec .lampTestLinkEnd s =
          .next (grant (chooseAll { s with drive := { s.drive with lampTest := testing t.rest } }))) ∧
      (t.rest = [] →
        ∃ v, exec .lampTestLinkEnd s = .next (grant (chooseAll v)) ∧ v.Posted .commandStatus ∧
          OnlyPosts ({ s with drive := { s.drive with lampTest := none } }.runEnded none 0) v)) ∧
    (s.Offered w → commandCode w = 9 → s.ctl.partState ≠ .unloaded →
      ∃ v, exec .clearLimitLog s = .next (grant v) ∧ v.Posted .limitReasons ∧ v.Posted .commandStatus ∧
        OnlyPosts
          ({ s with
              drive :=
                { s.drive with
                  log :=
                    ⟨s.drive.log.stage && decide (0 < s.drive.governor.stage),
                      s.drive.log.warm && s.drive.warm.taken, s.drive.log.lwarn && s.drive.lwarn.taken,
                      s.drive.log.llow && s.drive.llow.taken, s.drive.log.hot && s.drive.hotLatch,
                      s.drive.log.tripDisabled && s.anyTripDisabled⟩ } }.ended w none 0) v) ∧
    (∀ v : State, SameBoards v (chooseAll v) ∧ chooseAll v = { v with links := (chooseAll v).links })

/-! ### The ticker -/

/-- TAPE HOLD sets the hold flag and TAPE RESUME clears it; the ticker state word is posted when the flag changes, and
the command ends DONE. -/
def Obligations.TapeHoldAndResume : Prop :=
  ∀ (c : Instr) (hold : Bool) (w : Word) (s : State), s.Offered w → s.ctl.partState ≠ .unloaded →
    (c = .tapeHold ∧ commandCode w = 10 ∧ hold = true) ∨ (c = .tapeResume ∧ commandCode w = 11 ∧ hold = false) →
    ∃ v, exec c s = .next (grant v) ∧ OnlyPosts ({ s with tape := { s.tape with hold := hold } }.ended w none 0) v ∧
      v.Posted .commandStatus ∧ (s.tape.hold ≠ hold → v.Posted .tickerState)

/-- A take removes the head print, measures its lateness, decides the mode by the table of seven rows, writes a banner
at a change to LATE or DELETED and the print's text after it, whole, or holds the text when it does not fit, and notes
the whole price printed. The ticker state word is posted. The text is the symbol, a space, the size with its @ where
it is shown, the whole part or in DELETED its last digit where it is abbreviated, and after a space the numerator and
the denominator mark h, q, e or s; numbers are in decimal without leading zeros. The last character of each text
carries the end mark, and the banners are TAPE LATE and DIGITS DELETED. -/
def Obligations.TapeTake : Prop :=
  (∀ (p : Print) (rest : List Print) (r : Instrument) (s : State), s.rst.inReset = false →
    s.tape.condition = .running → s.tape.hold = false → s.tape.held = [] → s.tape.queue = p :: rest →
    s.tape.buffer.length ≤ 16 → s.instrument? p.instr = some r →
    let late := s.ctl.timeBase - p.captured
    let d := late.toNat
    let b := s.tape.block
    let mode : TapeMode :=
      match s.tape.mode with
      | .punctual => if b.t1 * 1000 ≤ d then .late else .punctual
      | .late => if d < b.t1 * 500 then .punctual else if b.t2 * 1000 ≤ d then .deleted else .late
      | .deleted => if d < b.t2 * 500 then .late else .deleted
    let banner : List Byte :=
      if s.tape.mode = .punctual ∧ mode = .late ∨ s.tape.mode = .deleted ∧ mode = .late then tapeLateText
      else if s.tape.mode = .late ∧ mode = .deleted then digitsDeletedText
      else []
    let text := printText mode b.threshold r.symbol r.lastPrintedWhole r.full p
    let led := s.tape.buffer ++ itemOf banner
    let fits := led.length + text.length ≤ 40
    ∃ v, exec .take s = .next (grant v) ∧ v.Posted .tickerState ∧
      OnlyPosts
        { s with
          tape :=
            { s.tape with
              queue := rest
              lateness := late
              mode := mode
              buffer := if fits then led ++ itemOf text else led
              held := if fits then [] else itemOf text }
          tbl :=
            { s.tbl with
              instruments :=
                s.tbl.instruments.set p.instr
                  { r with lastPrintedWhole := some (p.price / p.base.den), full := false } } } v) ∧
  (∀ n, n < 10 ^ 10 → IsDecimal (decimalText n) n) ∧
  (tapeLateText = [0x54, 0x41, 0x50, 0x45, 0x20, 0x4C, 0x41, 0x54, 0x45] ∧
    digitsDeletedText = [0x44, 0x49, 0x47, 0x49, 0x54, 0x53, 0x20, 0x44, 0x45, 0x4C, 0x45, 0x54, 0x45, 0x44]) ∧
  (∀ text : List Byte, (itemOf text).map (·.char) = text ∧
    ∀ (j : Nat) (x : TapeChar), (itemOf text)[j]? = some x → (x.endMark = true ↔ j + 1 = text.length)) ∧
  ∀ (mode : TapeMode) (threshold : Nat) (symbol : List Byte) (lastWhole : Option Nat) (full : Bool) (p : Print),
    let f := displayForm p.base p.price
    let short : Prop := mode = .deleted ∧ full = false ∧ ∃ v, lastWhole = some v ∧ f.whole / 10 = v / 10
    let size : List Byte :=
      if 2 ≤ p.size ∧ (mode = .punctual ∨ threshold ≤ p.size) then decimalText p.size ++ [0x40] else []
    let fraction : List Byte :=
      match f.frac with
      | none => []
      | some x =>
        [0x20] ++ decimalText x.num ++
          [if x.den = 2 then 0x68 else if x.den = 4 then 0x71 else if x.den = 8 then 0x65 else 0x73]
    let text := printText mode threshold symbol lastWhole full p
    (short → text = symbol ++ [0x20] ++ size ++ decimalText (f.whole % 10) ++ fraction) ∧
    (¬ short → text = symbol ++ [0x20] ++ size ++ decimalText f.whole ++ fraction)

/-- A step of a running ribbon at column phase 0 draws the next character, the blank after an end mark, or a blank
from an empty buffer, slides the window by it and lets held text enter when there is room for all of it; every step
presents the column of the window's last character. A step of a blank-out carries a blank; after its 480 steps the
ribbon runs if a LOAD has ended DONE since it began, and stands still otherwise. The columns of the characters are
those of para 10.8, the sixth blank. -/
def Obligations.RibbonMoves : Prop :=
  (∀ s : State, s.rst.inReset = false →
    let t := s.tape
    let stepped (t' : TickerUnit) : State :=
      { s with
        tape :=
          { t' with
            portColumn := columnAt (t'.window.getLast?.getD 0x20) t.phase
            portBrightness := s.ribbonBrightness
            phase := if t.phase = 5 then 0 else t.phase + 1
            interval := if t.mode = .punctual then t.block.baseSpeed else .fast } }
    let drawn (c : Byte) (buffer : List TapeChar) (gap : Bool) : State :=
      let enters := t.held ≠ [] ∧ buffer.length + t.held.length ≤ 40
      stepped
        { t with
          window := t.window.drop 1 ++ [c]
          gapDue := gap
          buffer := if enters then buffer ++ t.held else buffer
          held := if enters then [] else t.held }
    (t.condition = .running →
      (t.phase ≠ 0 → exec .ribbonStep s = .next (grant (stepped t))) ∧
      (t.phase = 0 → t.gapDue = true → exec .ribbonStep s = .next (grant (drawn 0x20 t.buffer false))) ∧
      (t.phase = 0 → t.gapDue = false → t.buffer = [] →
        exec .ribbonStep s = .next (grant (drawn 0x20 [] false))) ∧
      (∀ c rest, t.phase = 0 → t.gapDue = false → t.buffer = c :: rest →
        exec .ribbonStep s = .next (grant (drawn c.char rest c.endMark)))) ∧
    (∀ left, t.condition = .blanking (left + 1) →
      exec .ribbonStep s =
        .next (grant
          { s with
            tape :=
              { t with
                window := if t.phase = 0 then t.window.drop 1 ++ [0x20] else t.window
                gapDue := if t.phase = 0 then false else t.gapDue
                portColumn := 0
                portBrightness := s.ribbonBrightness
                phase := if t.phase = 5 then 0 else t.phase + 1
                condition := .blanking left } })) ∧
    (t.condition = .blanking 0 →
      (t.loadedInBlankOut = true →
        exec .blankOutEnd s =
          .next (grant
            { s with
              tape :=
                { t with
                  phase := 0
                  condition := .running
                  loadedInBlankOut := false
                  interval := if t.mode = .punctual then t.block.baseSpeed else .fast } })) ∧
      (t.loadedInBlankOut = false →
        exec .blankOutEnd s =
          .next (grant
            { s with
              tape := { t with phase := 0, condition := .still, portBrightness := s.ribbonBrightness } })))) ∧
  (∀ c : Byte, columnAt c 5 = 0) ∧
  ∀ x ∈ ([(0x20, [0x00, 0x00, 0x00, 0x00, 0x00]), (0x40, [0x32, 0x49, 0x79, 0x41, 0x3E]), (0x68, [0x20, 0x10, 0x68, 0x54, 0x48]),
      (0x71, [0x20, 0x10, 0x38, 0x24, 0x70]), (0x65, [0x20, 0x10, 0x68, 0x54, 0x68]), (0x73, [0x20, 0x10, 0x78, 0x50, 0x50]),
      (0x30, [0x3E, 0x51, 0x49, 0x45, 0x3E]), (0x31, [0x00, 0x42, 0x7F, 0x40, 0x00]), (0x32, [0x42, 0x61, 0x51, 0x49, 0x46]),
      (0x33, [0x21, 0x41, 0x45, 0x4B, 0x31]), (0x34, [0x18, 0x14, 0x12, 0x7F, 0x10]), (0x35, [0x27, 0x45, 0x45, 0x45, 0x39]),
      (0x36, [0x3C, 0x4A, 0x49, 0x49, 0x30]), (0x37, [0x01, 0x71, 0x09, 0x05, 0x03]), (0x38, [0x36, 0x49, 0x49, 0x49, 0x36]),
      (0x39, [0x06, 0x49, 0x49, 0x29, 0x1E]), (0x41, [0x7E, 0x11, 0x11, 0x11, 0x7E]), (0x42, [0x7F, 0x49, 0x49, 0x49, 0x36]),
      (0x43, [0x3E, 0x41, 0x41, 0x41, 0x22]), (0x44, [0x7F, 0x41, 0x41, 0x22, 0x1C]), (0x45, [0x7F, 0x49, 0x49, 0x49, 0x41]),
      (0x46, [0x7F, 0x09, 0x09, 0x09, 0x01]), (0x47, [0x3E, 0x41, 0x49, 0x49, 0x7A]), (0x48, [0x7F, 0x08, 0x08, 0x08, 0x7F]),
      (0x49, [0x00, 0x41, 0x7F, 0x41, 0x00]), (0x4A, [0x20, 0x40, 0x41, 0x3F, 0x01]), (0x4B, [0x7F, 0x08, 0x14, 0x22, 0x41]),
      (0x4C, [0x7F, 0x40, 0x40, 0x40, 0x40]), (0x4D, [0x7F, 0x02, 0x0C, 0x02, 0x7F]), (0x4E, [0x7F, 0x04, 0x08, 0x10, 0x7F]),
      (0x4F, [0x3E, 0x41, 0x41, 0x41, 0x3E]), (0x50, [0x7F, 0x09, 0x09, 0x09, 0x06]), (0x51, [0x3E, 0x41, 0x51, 0x21, 0x5E]),
      (0x52, [0x7F, 0x09, 0x19, 0x29, 0x46]), (0x53, [0x46, 0x49, 0x49, 0x49, 0x31]), (0x54, [0x01, 0x01, 0x7F, 0x01, 0x01]),
      (0x55, [0x3F, 0x40, 0x40, 0x40, 0x3F]), (0x56, [0x1F, 0x20, 0x40, 0x20, 0x1F]), (0x57, [0x3F, 0x40, 0x38, 0x40, 0x3F]),
      (0x58, [0x63, 0x14, 0x08, 0x14, 0x63]), (0x59, [0x07, 0x08, 0x70, 0x08, 0x07]), (0x5A, [0x61, 0x51, 0x49, 0x45, 0x43])] :
      List (Byte × List (BitVec 7))),
    (List.range 5).map (columnAt x.1) = x.2

/-! ### The terminal lines -/

/-- SET LINE ends REFUSED with BAD PARAMETER or NOT MUTED, and otherwise ends DONE: a changed rate drops what the line
was sending, receiving and queuing; rate NONE turns it OFF and takes it out of every watcher set, its message sequence
kept; class 0 mutes it, and a class of 1 to 3 makes a line of class 0 or OFF ACTIVE with a quote queued for each watched
instrument; the doze time restarts the timer of a line not DOZING. -/
def Obligations.SetLineDone : Prop :=
  ([0, 1, 2, 3, 4].map rateOfCode = [some .none, some .b1200, some .b2400, some .b4800, some .b9600] ∧
    ∀ w : Word, 4 < w.toNat → rateOfCode w = none) ∧
  ∀ (w : Word) (s : State), s.Offered w → commandCode w = 12 → s.ctl.partState ≠ .unloaded →
    let p := s.ctl.latches
    let cls := p[2].toNat
    let doze := if p[3].toNat = 0 then 0 else max 30 (min p[3].toNat 3600)
    ((15 < p[0].toNat ∨ 4 < p[1].toNat ∨ 3 < cls ∨ (p[1] = 0 ∧ cls ≠ 0)) →
      AnswersEnded .setLine s s w (some .badParameter) 0) ∧
    ∀ (n : Fin 16) (rate : Rate), p[0].toNat = n.val → rateOfCode p[1] = some rate → cls ≤ 3 →
      (rate = .none → cls = 0) →
      let l := s.lines[n]
      (l.rate ≠ rate → l.cls ≠ 0 → cls ≠ 0 → AnswersEnded .setLine s s w (some .notMuted) n.val) ∧
      (l.rate = rate ∨ l.cls = 0 ∨ cls = 0 →
        let l1 : Line :=
          if rate = l.rate then l
          else { l with transmitter := [], out := [], assembler := .hunting, badRun := 0, rate := rate }
        let l2 : Line :=
          if cls = 0 then { l1 with cls := 0, state := .muted }
          else if l1.cls = 0 ∨ l1.state = .off then { l1 with cls := cls, state := .active }.queueWatch
          else { l1 with cls := cls }
        let l3 : Line :=
          { l2 with
            doze := doze
            dozeTimer :=
              if l2.state = .active ∨ l2.state = .muted then (if doze = 0 then none else some s.ctl.timeBase)
              else l2.dozeTimer }
        ∃ v, exec .setLine s = .next (grant v) ∧ v.Posted .commandStatus ∧
          (rate ≠ .none → OnlyPosts ({ s with lines := s.lines.set n l3 }.ended w none 0) v) ∧
          (rate = .none →
            v.lines = s.lines.set n { Line.off with nextSeq := l.nextSeq } ∧
            v.tbl = { s.tbl with instruments := v.tbl.instruments } ∧
            (∀ i r, s.instrument? i = some r →
              v.instrument? i =
                some { r with watchers := if i ∈ l.watch then r.watchers.filter (· != n) else r.watchers }) ∧
            OnlyPosts ({ s with lines := v.lines, tbl := v.tbl }.ended w none 0) v))

/-- A mark on a line that is not OFF wakes it and begins an assembly; a hunting line discards any other character; an
assembling line takes one that continues its frame; an OFF line discards every character. A frame that a character
makes bad, that a mark cuts, or that 500 ms pass over is counted; the eighth in a row on an ACTIVE line makes it MUTED
at class 0 and posts LINE NOISE with its class, the cause and its rate. A character that completes a good frame is the
good-frame event of the kind received. That a frame which turns bad on a DOZING line is counted there, neither muting
nor waking it, is the model's choice (log entry 35, DESIGN CHOICE). What each character of a frame must be, and the
cause where it is not, are those of R166 and R167: BAD CHARACTER for the kind and the body, BAD LENGTH for the length,
BAD CHECK for the check. That a 7EH received with a framing fault is no mark, but a
character that R166 takes as one outside 20H to 7DH, is the model's choice (log entry 40, DESIGN CHOICE). -/
def Obligations.CharactersTaken : Prop :=
  (∀ (n : Fin 16) (s : State), s.rst.inReset = false →
    let l := s.lines[n]
    let now := s.ctl.timeBase
    let woken : Line :=
      if l.state = .dozing then
        { l with state := .active, dozeTimer := if l.doze = 0 then none else some now }
      else l
    let becomes (e : Instr) (l' : Line) : Prop :=
      ∃ v, exec e s = .next (grant v) ∧ OnlyPosts { s with lines := s.lines.set n l' } v
    let goodEvent (kind : Byte) : Instr :=
      if kind = 0x57 then .watchRequest n
      else if kind = 0x44 then .watchDrop n
      else if kind = 0x50 then .pageRequest n
      else if kind = 0x4D then .messageRequest n
      else if kind = 0x5A then .ping n
      else .goodFrameOtherKind n
    let noisy (e : Instr) (cause : BadCause) (l' : Line) : Prop :=
      AnswersFault e s { s with lines := s.lines.set n { l' with cls := 0, state := .muted } }
        .lineNoise (.line n.val) [l.cls, cause.code, l.rate.code]
    (l.state = .off →
      exec (.markReceived n) s = .next (grant s) ∧
        ∀ c : RxChar, c.isMark = false → exec (.characterReceived n c) s = .next (grant s)) ∧
    (l.state ≠ .off → l.assembler = .hunting →
      becomes (.markReceived n) { woken with assembler := .assembling [] now } ∧
        ∀ c : RxChar, c.isMark = false → exec (.characterReceived n c) s = .next (grant s)) ∧
    (∀ got t, l.state ≠ .off → l.assembler = .assembling got t →
      (∀ c : RxChar, c.isMark = false → assemble got c = .more →
        becomes (.characterReceived n c) { l with assembler := .assembling (got ++ [c.bits]) now }) ∧
      (∀ (c : RxChar) (kind : Byte) (body : List Byte), assemble got c = .good kind body →
        exec (.characterReceived n c) s = exec (goodEvent kind) s) ∧
      (∀ (e : Instr) (cause : BadCause),
        (∃ c : RxChar, (e = .badFrame n c ∨ e = .characterReceived n c) ∧ c.isMark = false ∧
            assemble got c = .bad cause) ∨
          (e = .frameAbandoned n ∧ cause = .abandoned ∧ 500 ≤ since s t) →
        let counted : Line := { l with assembler := .hunting, badRun := min 8 (l.badRun + 1) }
        (l.badRun + 1 < 8 ∨ l.state ≠ .active → becomes e counted) ∧
        (8 ≤ l.badRun + 1 → l.state = .active → s.LogRoom → noisy e cause counted)) ∧
      ∀ e : Instr, e = .markReceived n ∨ e = .badFrame n ⟨0x7E, false⟩ →
        let begun : Line := { woken with assembler := .assembling [] now, badRun := min 8 (l.badRun + 1) }
        (l.badRun + 1 < 8 ∨ woken.state ≠ .active → becomes e begun) ∧
        (8 ≤ l.badRun + 1 → woken.state = .active → s.LogRoom → noisy e .cut begun))) ∧
  ∀ c : RxChar, c.isMark = false →
    let fits : Prop := c.framingFault = false ∧ 0x20 ≤ c.bits.toNat ∧ c.bits.toNat ≤ 0x7D
    let digit (v : Nat) : Prop := c.framingFault = false ∧ IsHex c.bits v
    (fits → assemble [] c = .more) ∧ (¬ fits → assemble [] c = .bad .badCharacter) ∧
    ∀ kind : Byte,
      ((∃ v, digit v) → assemble [kind] c = .more) ∧ ((∀ v, ¬ digit v) → assemble [kind] c = .bad .badLength) ∧
      ∀ (a : Byte) (x : Nat), IsHex a x →
        (∀ y, digit y → 16 * x + y ≤ 60 → assemble [kind, a] c = .more) ∧
        ((∀ y, digit y → 60 < 16 * x + y) → assemble [kind, a] c = .bad .badLength) ∧
        ∀ (b : Byte) (y : Nat) (body : List Byte), IsHex b y →
          let got := kind :: a :: b :: body
          (body.length < 16 * x + y → (fits → assemble got c = .more) ∧ (¬ fits → assemble got c = .bad .badCharacter)) ∧
          (body.length = 16 * x + y →
            ((∃ v, digit v) → assemble got c = .more) ∧ ((∀ v, ¬ digit v) → assemble got c = .bad .badCheck) ∧
            ∀ (d : Byte) (p : Nat), IsHex d p →
              let sum := (got.map (·.toNat)).sum
              (∀ q, digit q → (sum + (16 * p + q)) % 256 = 0 → assemble (got ++ [d]) c = .good kind body) ∧
                ((∀ q, digit q → (sum + (16 * p + q)) % 256 ≠ 0) → assemble (got ++ [d]) c = .bad .badCheck))

/-- A good frame ends the run of bad ones, wakes a DOZING line (log entry 16) and restarts its timer. An ACTIVE line
acts on it: W watches the instrument and queues its quote, D drops it, P queues its page, M submits the message to the
inbox, Z and every other kind do no more; an unknown symbol, a full watch list and a busy inbox queue their
notices. The lookup finds the instrument in the Symbol Index whose symbol is exactly the body, 1 to 5 letters A to Z. The
18 words of an inbox slot hold the reading, the sequence and the line, the length, and 32 characters of seven bits each,
the most significant first, blanks after the text. An entry joins the tail of the outbound queue; a QUOTE for the same
instrument or a NOTICE of the same code keeps its place, and a PAGE takes the new instrument in its place. -/
def Obligations.GoodFramesActedOn : Prop :=
  (∀ (n : Fin 16) (kind : Byte) (body : List Byte) (got : List Byte) (t : Time) (s : State),
    s.rst.inReset = false → s.lines[n].state ≠ .off → s.lines[n].assembler = .assembling got t →
    readyFrame got = some (kind, body) →
    let l : Line :=
      { s.lines[n] with
        badRun := 0
        assembler := .hunting
        state := if s.lines[n].state = .dozing then .active else s.lines[n].state
        dozeTimer := if s.lines[n].doze = 0 then none else some s.ctl.timeBase }
    let becomes (c : Instr) (l' : Line) : Prop :=
      ∃ v, exec c s = .next (grant v) ∧ OnlyPosts { s with lines := s.lines.set n l' } v
    let watchers (i : Nat) (r : Instrument) (ws : List (Fin 16)) : InstrumentTable :=
      { s.tbl with instruments := s.tbl.instruments.set i { r with watchers := ws } }
    let queued (e : OutEntry) : Line := { l with out := queueOut e l.out }
    (∀ c : Instr,
      (c = .watchRequest n ∧ kind = 0x57) ∨ (c = .watchDrop n ∧ kind = 0x44) ∨ (c = .pageRequest n ∧ kind = 0x50) ∨
        (c = .messageRequest n ∧ kind = 0x4D) ∨ (c = .ping n ∧ kind = 0x5A) ∨
        (c = .goodFrameOtherKind n ∧ kind ∉ [0x57, 0x44, 0x50, 0x4D, 0x5A]) →
      (l.state = .muted ∨ kind ∉ [0x57, 0x44, 0x50, 0x4D] → becomes c l) ∧
      (l.state = .active → kind ∈ [0x57, 0x44, 0x50] → lookup s body = none →
        becomes c (queued (.notice .unknown)))) ∧
    (l.state = .active → ∀ i r, lookup s body = some i → s.instrument? i = some r →
      (kind = 0x57 →
        (i ∈ l.watch → becomes (.watchRequest n) l) ∧
        (i ∉ l.watch → 24 ≤ l.watch.length → becomes (.watchRequest n) (queued (.notice .full))) ∧
        (i ∉ l.watch → l.watch.length < 24 →
          ∃ v, exec (.watchRequest n) s = .next (grant v) ∧
            OnlyPosts
              { s with
                lines := s.lines.set n { queued (.quote i) with watch := l.watch ++ [i] }
                tbl := watchers i r (if n ∈ r.watchers then r.watchers else r.watchers ++ [n]) } v)) ∧
      (kind = 0x44 →
        (i ∉ l.watch → becomes (.watchDrop n) l) ∧
        (i ∈ l.watch →
          ∃ v, exec (.watchDrop n) s = .next (grant v) ∧
            OnlyPosts
              { s with
                lines :=
                  s.lines.set n
                    { l with watch := l.watch.filter (· != i), out := l.out.filter (· != .quote i) }
                tbl := watchers i r (r.watchers.filter (· != n)) } v)) ∧
      (kind = 0x50 → becomes (.pageRequest n) (queued (.page i)))) ∧
    (l.state = .active → kind = 0x4D →
      let box := s.ctl.inbox
      let room := box.nextSlot + 1 ≠ box.readIndex ∧ ackCount l.out + l.awaited.length < 4
      (¬ room → becomes (.messageRequest n) (queued (.notice .inboxBusy))) ∧
      (room →
        ∃ v, exec (.messageRequest n) s = .next (grant v) ∧
          v.Queued (.inboxSlot box.nextSlot n l.nextSeq (inboxWords s.ctl.timeBase l.nextSeq n body)) ∧
          OnlyPosts
            { s with
              lines := s.lines.set n { l with nextSeq := l.nextSeq + 1, awaited := l.awaited ++ [l.nextSeq] }
              ctl := { s.ctl with inbox := { box with nextSlot := box.nextSlot + 1 } } } v))) ∧
  (∀ (s : State) (text : List Byte),
    let letters : Prop := 1 ≤ text.length ∧ text.length ≤ 5 ∧ ∀ c ∈ text, 0x41 ≤ c.toNat ∧ c.toNat ≤ 0x5A
    (∀ i, lookup s text = some i →
      letters ∧ i ∈ s.tbl.symbolIndex ∧ ∃ r, s.instrument? i = some r ∧ r.symbol = text) ∧
    (lookup s text = none →
      letters → ∀ i ∈ s.tbl.symbolIndex, ∀ r, s.instrument? i = some r → r.symbol ≠ text)) ∧
  (∀ (got : List Byte) (kind : Byte) (body : List Byte), readyFrame got = some (kind, body) ↔
    ∃ c : Byte, assemble got ⟨c, false⟩ = .good kind body) ∧
  (∀ (q : List OutEntry) (i : Nat) (x : Byte) (c : Notice),
    queueOut (.quote i) q = (if .quote i ∈ q then q else q ++ [.quote i]) ∧ queueOut (.ack x) q = q ++ [.ack x] ∧
    queueOut (.notice c) q = (if .notice c ∈ q then q else q ++ [.notice c]) ∧
    ((∀ j, .page j ∉ q) → queueOut (.page i) q = q ++ [.page i]) ∧
    (∀ a j b, q = a ++ .page j :: b → (∀ j', .page j' ∉ a) → queueOut (.page i) q = a ++ .page i :: b) ∧
    ackCount [] = 0 ∧
    ∀ e, ackCount (e :: q) = ackCount q + match e with
      | .ack _ => 1
      | _ => 0) ∧
  ∀ (time : Time) (seq : Byte) (n : Fin 16) (text : List Byte),
    let ws := inboxWords time seq n text
    ws.length = 18 ∧ numAt ws 0 * 65536 + numAt ws 1 = time.toNat ∧
      numAt ws 2 = 256 * seq.toNat + n.val ∧ numAt ws 3 = min 32 text.length ∧
      ∀ j < 32, ∀ b < 7,
        (ws.getD (4 + (7 * j + b) / 16) 0).getLsbD (15 - (7 * j + b) % 16) = (text.getD j 0x20).getLsbD (6 - b)

/-- The line service arbiter takes the highest class with a qualifying line, and in it the next line after the last
one served; the line's head entry is built into its transmitter, a page taking its instrument's quote with it. An
emptied transmitter is empty, and a doze timer that has run out puts an ACTIVE line into DOZING. Every step, of these
and of every other command, keeps the laws of the lines: a watch list of at most 24 instruments and none twice, in
agreement with the watcher sets; an outbound queue of at most 32 entries, a QUOTE entry only for a watched instrument
and one for each, one PAGE, one NOTICE for each code, four messages queued for acknowledgement or awaited. -/
def Obligations.LinesServed : Prop :=
  (∀ s : State,
    let ready (cls : Nat) (n : Fin 16) : Prop :=
      s.lines[n].state = .active ∧ s.lines[n].out ≠ [] ∧ s.lines[n].transmitter = [] ∧ s.lines[n].cls = cls
    (s.rst.inReset = false → ∀ (n : Fin 16) (cls : Nat) e rest, 1 ≤ cls → cls ≤ 3 → ready cls n →
      (∀ cls' m, cls < cls' → cls' ≤ 3 → ¬ ready cls' m) →
      (∀ m, m - s.service.place cls - 1 < n - s.service.place cls - 1 → ¬ ready cls m) →
      s.lines[n].out = e :: rest →
      ∃ v, exec .lineService s = .next (grant v) ∧
        OnlyPosts
          { s with
            lines :=
              s.lines.set n
                { s.lines[n] with
                  transmitter := buildEntry s e
                  out := match e with
                    | .page i => rest.filter (· != .quote i)
                    | _ => rest }
            service := s.service.set cls n } v) ∧
    (s.rst.inReset = false → (∀ cls n, 1 ≤ cls → cls ≤ 3 → ¬ ready cls n) →
      exec .lineService s = .next (grant s)) ∧
    (∀ n : Fin 16,
      (∃ v, exec (.transmitterEmpty n) s = .next (grant v) ∧
        OnlyPosts { s with lines := s.lines.set n { s.lines[n] with transmitter := [] } } v) ∧
      ∀ t, s.lines[n].dozeTimer = some t → s.rst.inReset = false → s.lines[n].doze * 1000 ≤ since s t →
        ∃ v, exec (.dozeExpiry n) s = .next (grant v) ∧
          OnlyPosts
            { s with
              lines :=
                s.lines.set n
                  { s.lines[n] with
                    dozeTimer := none
                    state := if s.lines[n].state = .active then .dozing else s.lines[n].state } } v ∧
          (s.lines[n].state = .active → v.Posted (.lineWord n)))) ∧
  ∀ s t : State, s.LinesLawful → step s = .next t → t.LinesLawful

/-! ### Headline results -/

/-- What the Frame Builder sends the assembler reads back: every frame of a printable kind and a printable body of at
most 60 characters begins with the mark and goes through the assembler character by character to the same kind and
body. The bodies are those of the spec: Q with the symbol of five characters, the tick, the flags H, F and O, and last,
change, bid and ask between three commas; G with the symbol and then high, low, close, the volume and the last size
between four; N with the notice's words; K with the sequence as two hexadecimal digits. A price is its whole part, its
denominator mark and its numerator, an absent one nothing; the longest Q body has 57 characters and the longest G body
56. A frame is the mark, the kind, the length as two capital hexadecimal digits, the body, and the check value, which is
256 less the sum of what stands between the mark and it, modulo 256, as two more. -/
def Obligations.FrameRoundTrip : Prop :=
  (∀ (kind : Byte) (body : List Byte), printable kind = true → (∀ c ∈ body, printable c = true) → body.length ≤ 60 →
    ∃ chars last, frameChars kind body = 0x7E :: (chars ++ [last]) ∧
      (∀ a c b, chars = a ++ c :: b → c ≠ 0x7E ∧ assemble a ⟨c, false⟩ = .more) ∧
      last ≠ 0x7E ∧ assemble chars ⟨last, false⟩ = .good kind body) ∧
  (∀ (kind : Byte) (body : List Byte), body.length ≤ 60 →
    ∃ a b c d : Byte, frameChars kind body = [0x7E, kind, a, b] ++ body ++ [c, d] ∧
      IsHex a (body.length / 16) ∧ IsHex b (body.length % 16) ∧
      let sum := ((kind :: a :: b :: body).map (·.toNat)).sum
      let check := (256 - sum % 256) % 256
      IsHex c (check / 16) ∧ IsHex d (check % 16)) ∧
  ∀ (s : State) (i : Nat) (r : Instrument), s.instrument? i = some r →
    let symbol := r.symbol ++ List.replicate (5 - r.symbol.length) 0x20
    let text (q : Nat) : List Byte :=
      let f := displayForm r.base q
      decimalText f.whole ++
        match f.frac with
        | none => []
        | some x =>
          (if x.den = 2 then 0x68 else if x.den = 4 then 0x71 else if x.den = 8 then 0x65 else 0x73) ::
            decimalText x.num
    let field (v : Option Nat) : List Byte :=
      match v with
      | none => []
      | some q => text q
    let change : List Byte :=
      match r.close, r.last with
      | some c, some l => (if c < l then [0x2B] else if l < c then [0x2D] else []) ++ text (((l : Int) - c).natAbs)
      | _, _ => []
    let tick : Byte :=
      match r.tick with
      | .none => 0x20
      | .up => 0x55
      | .down => 0x44
      | .zeroUp => 0x75
      | .zeroDown => 0x64
    let flags : List Byte :=
      [if r.halted then 0x48 else 0x20, if r.fast then 0x46 else 0x20, if r.offIncrement then 0x4F else 0x20]
    let volume : List Byte := if r.volume ≤ 99999999 then decimalText r.volume else decimalText 99999999 ++ [0x2B]
    let quote := symbol ++ [tick] ++ flags ++ field r.last ++ [0x2C] ++ change ++ [0x2C] ++ field r.bid ++ [0x2C] ++
      field r.ask
    let page := symbol ++ field r.high ++ [0x2C] ++ field r.low ++ [0x2C] ++ field r.close ++ [0x2C] ++ volume ++
      [0x2C] ++ decimalText r.lastSize
    let inRange (v : Option Nat) : Prop := ∀ q, v = some q → PriceInRange r.base q
    buildEntry s (.quote i) = frameChars 0x51 quote ∧
    buildEntry s (.page i) = frameChars 0x51 quote ++ frameChars 0x47 page ∧
    (∀ c, buildEntry s (.notice c) = frameChars 0x4E (match c with
      | .unknown => [0x55, 0x4E, 0x4B, 0x4E, 0x4F, 0x57, 0x4E]
      | .full => [0x46, 0x55, 0x4C, 0x4C]
      | .inboxBusy => [0x49, 0x4E, 0x42, 0x4F, 0x58, 0x20, 0x42, 0x55, 0x53, 0x59])) ∧
    (∀ q : Byte, ∃ h l, buildEntry s (.ack q) = frameChars 0x4B [h, l] ∧
      hexValue h = some (q.toNat / 16) ∧ hexValue l = some (q.toNat % 16)) ∧
    (r.symbol.length ≤ 5 → (∀ c ∈ r.symbol, 0x41 ≤ c.toNat ∧ c.toNat ≤ 0x5A) → inRange r.last → inRange r.close →
      (inRange r.bid → inRange r.ask → quote.length ≤ 57 ∧ ∀ c ∈ quote, printable c = true) ∧
      (inRange r.high → inRange r.low → r.lastSize ≤ 65535 → page.length ≤ 56 ∧ ∀ c ∈ page, printable c = true))

/-- Every command keeps the canonical form of the RAM: addresses strictly rising, no word listed that reads so
unlisted. That form is the model's own (log entry 22, DESIGN CHOICE). -/
def Obligations.MemoryCanonicalKept : Prop :=
  ∀ s t : State, s.MemoryCanonical → step s = .next t → t.MemoryCanonical

/-- Every command keeps the bounds of the Memory Path and of the Capture Unit: at most 8 postponed refreshes, no part
cycle that counts more than 16 grants past it, at most one part cycle of each of the four blocks and four in all; at
most 16 staging slots and one for each instrument, and one Fetch Queue entry for each instrument. -/
def Obligations.PortBoundsKept : Prop :=
  (∀ s t : State, s.PortBounded → step s = .next t → t.PortBounded) ∧
    ∀ s t : State, s.CaptureBounded → step s = .next t → t.CaptureBounded

/-- Every command keeps the bounds of the Ticker Unit and the laws of the Instrument Records: at most 128 prints, 40
characters of text and 24 of held text; low ≤ last ≤ high, high and low present together, and no hold on a halted
instrument. -/
def Obligations.TapeBoundsKept : Prop :=
  (∀ s t : State, s.TapeBounded → step s = .next t → t.TapeBounded) ∧
    ∀ s t : State, s.RecordsLawful → step s = .next t → t.RecordsLawful

/-- The invariants hold in the reset state. -/
def Obligations.InvariantsAtReset : Prop :=
  State.reset.MemoryCanonical ∧ State.reset.PortBounded ∧ State.reset.CaptureBounded ∧ State.reset.TapeBounded ∧
    State.reset.RecordsLawful ∧ State.reset.TargetsLawful ∧ State.reset.LinesLawful
end

