-- ==== Sys2Proof/Laws/State.lean ====
section
/-! SUPPORT. One lemma for each field of State and each update of one part of it, so that no proof unfolds a record
update. -/

namespace Sys2Proof.Machine

open Sys2Proof

variable (s : State)

@[simp] theorem popHanded_mem : (popHanded s).mem = s.mem := rfl
@[simp] theorem popHanded_rst : (popHanded s).rst = s.rst := rfl
@[simp] theorem popHanded_ctl : (popHanded s).ctl = s.ctl := rfl
@[simp] theorem popHanded_handed : (popHanded s).handed = s.handed.drop 1 := rfl
@[simp] theorem popHanded_tbl : (popHanded s).tbl = s.tbl := rfl
@[simp] theorem popHanded_load : (popHanded s).load = s.load := rfl
@[simp] theorem popHanded_cap : (popHanded s).cap = s.cap := rfl
@[simp] theorem popHanded_links : (popHanded s).links = s.links := rfl
@[simp] theorem popHanded_flashTime : (popHanded s).flashTime = s.flashTime := rfl
@[simp] theorem popHanded_drive : (popHanded s).drive = s.drive := rfl
@[simp] theorem popHanded_tape : (popHanded s).tape = s.tape := rfl
@[simp] theorem popHanded_lines : (popHanded s).lines = s.lines := rfl
@[simp] theorem popHanded_service : (popHanded s).service = s.service := rfl
@[simp] theorem popHanded_pending : (popHanded s).pending = s.pending := rfl

@[simp] theorem setCommand_mem (c : CommandRecord) : (setCommand c s).mem = s.mem := rfl
@[simp] theorem setCommand_rst (c : CommandRecord) : (setCommand c s).rst = s.rst := rfl
@[simp] theorem setCommand_ctl (c : CommandRecord) : (setCommand c s).ctl = { s.ctl with command := c } := rfl
@[simp] theorem setCommand_handed (c : CommandRecord) : (setCommand c s).handed = s.handed := rfl
@[simp] theorem setCommand_tbl (c : CommandRecord) : (setCommand c s).tbl = s.tbl := rfl
@[simp] theorem setCommand_load (c : CommandRecord) : (setCommand c s).load = s.load := rfl
@[simp] theorem setCommand_cap (c : CommandRecord) : (setCommand c s).cap = s.cap := rfl
@[simp] theorem setCommand_links (c : CommandRecord) : (setCommand c s).links = s.links := rfl
@[simp] theorem setCommand_flashTime (c : CommandRecord) : (setCommand c s).flashTime = s.flashTime := rfl
@[simp] theorem setCommand_drive (c : CommandRecord) : (setCommand c s).drive = s.drive := rfl
@[simp] theorem setCommand_tape (c : CommandRecord) : (setCommand c s).tape = s.tape := rfl
@[simp] theorem setCommand_lines (c : CommandRecord) : (setCommand c s).lines = s.lines := rfl
@[simp] theorem setCommand_service (c : CommandRecord) : (setCommand c s).service = s.service := rfl
@[simp] theorem setCommand_pending (c : CommandRecord) : (setCommand c s).pending = s.pending := rfl

@[simp] theorem setCommandCause_mem (b : Bool) : (setCommandCause b s).mem = s.mem := rfl
@[simp] theorem setCommandCause_rst (b : Bool) : (setCommandCause b s).rst = s.rst := rfl
@[simp] theorem setCommandCause_ctl (b : Bool) : (setCommandCause b s).ctl = { s.ctl with alert := { s.ctl.alert with commandCause := b } } := rfl
@[simp] theorem setCommandCause_handed (b : Bool) : (setCommandCause b s).handed = s.handed := rfl
@[simp] theorem setCommandCause_tbl (b : Bool) : (setCommandCause b s).tbl = s.tbl := rfl
@[simp] theorem setCommandCause_load (b : Bool) : (setCommandCause b s).load = s.load := rfl
@[simp] theorem setCommandCause_cap (b : Bool) : (setCommandCause b s).cap = s.cap := rfl
@[simp] theorem setCommandCause_links (b : Bool) : (setCommandCause b s).links = s.links := rfl
@[simp] theorem setCommandCause_flashTime (b : Bool) : (setCommandCause b s).flashTime = s.flashTime := rfl
@[simp] theorem setCommandCause_drive (b : Bool) : (setCommandCause b s).drive = s.drive := rfl
@[simp] theorem setCommandCause_tape (b : Bool) : (setCommandCause b s).tape = s.tape := rfl
@[simp] theorem setCommandCause_lines (b : Bool) : (setCommandCause b s).lines = s.lines := rfl
@[simp] theorem setCommandCause_service (b : Bool) : (setCommandCause b s).service = s.service := rfl
@[simp] theorem setCommandCause_pending (b : Bool) : (setCommandCause b s).pending = s.pending := rfl

@[simp] theorem setLog_mem (g : FaultLog) : (setLog g s).mem = s.mem := rfl
@[simp] theorem setLog_rst (g : FaultLog) : (setLog g s).rst = s.rst := rfl
@[simp] theorem setLog_ctl (g : FaultLog) : (setLog g s).ctl = { s.ctl with log := g } := rfl
@[simp] theorem setLog_handed (g : FaultLog) : (setLog g s).handed = s.handed := rfl
@[simp] theorem setLog_tbl (g : FaultLog) : (setLog g s).tbl = s.tbl := rfl
@[simp] theorem setLog_load (g : FaultLog) : (setLog g s).load = s.load := rfl
@[simp] theorem setLog_cap (g : FaultLog) : (setLog g s).cap = s.cap := rfl
@[simp] theorem setLog_links (g : FaultLog) : (setLog g s).links = s.links := rfl
@[simp] theorem setLog_flashTime (g : FaultLog) : (setLog g s).flashTime = s.flashTime := rfl
@[simp] theorem setLog_drive (g : FaultLog) : (setLog g s).drive = s.drive := rfl
@[simp] theorem setLog_tape (g : FaultLog) : (setLog g s).tape = s.tape := rfl
@[simp] theorem setLog_lines (g : FaultLog) : (setLog g s).lines = s.lines := rfl
@[simp] theorem setLog_service (g : FaultLog) : (setLog g s).service = s.service := rfl
@[simp] theorem setLog_pending (g : FaultLog) : (setLog g s).pending = s.pending := rfl

@[simp] theorem setWaiting_mem (q : List WbEntry) : (setWaiting q s).mem = s.mem := rfl
@[simp] theorem setWaiting_rst (q : List WbEntry) : (setWaiting q s).rst = s.rst := rfl
@[simp] theorem setWaiting_ctl (q : List WbEntry) : (setWaiting q s).ctl = { s.ctl with writeBack := { s.ctl.writeBack with queue := q } } := rfl
@[simp] theorem setWaiting_handed (q : List WbEntry) : (setWaiting q s).handed = s.handed := rfl
@[simp] theorem setWaiting_tbl (q : List WbEntry) : (setWaiting q s).tbl = s.tbl := rfl
@[simp] theorem setWaiting_load (q : List WbEntry) : (setWaiting q s).load = s.load := rfl
@[simp] theorem setWaiting_cap (q : List WbEntry) : (setWaiting q s).cap = s.cap := rfl
@[simp] theorem setWaiting_links (q : List WbEntry) : (setWaiting q s).links = s.links := rfl
@[simp] theorem setWaiting_flashTime (q : List WbEntry) : (setWaiting q s).flashTime = s.flashTime := rfl
@[simp] theorem setWaiting_drive (q : List WbEntry) : (setWaiting q s).drive = s.drive := rfl
@[simp] theorem setWaiting_tape (q : List WbEntry) : (setWaiting q s).tape = s.tape := rfl
@[simp] theorem setWaiting_lines (q : List WbEntry) : (setWaiting q s).lines = s.lines := rfl
@[simp] theorem setWaiting_service (q : List WbEntry) : (setWaiting q s).service = s.service := rfl
@[simp] theorem setWaiting_pending (q : List WbEntry) : (setWaiting q s).pending = s.pending := rfl

@[simp] theorem setCauses_mem (c : ResetCauses) : (setCauses c s).mem = s.mem := rfl
@[simp] theorem setCauses_rst (c : ResetCauses) : (setCauses c s).rst = s.rst := rfl
@[simp] theorem setCauses_ctl (c : ResetCauses) : (setCauses c s).ctl = { s.ctl with causes := c } := rfl
@[simp] theorem setCauses_handed (c : ResetCauses) : (setCauses c s).handed = s.handed := rfl
@[simp] theorem setCauses_tbl (c : ResetCauses) : (setCauses c s).tbl = s.tbl := rfl
@[simp] theorem setCauses_load (c : ResetCauses) : (setCauses c s).load = s.load := rfl
@[simp] theorem setCauses_cap (c : ResetCauses) : (setCauses c s).cap = s.cap := rfl
@[simp] theorem setCauses_links (c : ResetCauses) : (setCauses c s).links = s.links := rfl
@[simp] theorem setCauses_flashTime (c : ResetCauses) : (setCauses c s).flashTime = s.flashTime := rfl
@[simp] theorem setCauses_drive (c : ResetCauses) : (setCauses c s).drive = s.drive := rfl
@[simp] theorem setCauses_tape (c : ResetCauses) : (setCauses c s).tape = s.tape := rfl
@[simp] theorem setCauses_lines (c : ResetCauses) : (setCauses c s).lines = s.lines := rfl
@[simp] theorem setCauses_service (c : ResetCauses) : (setCauses c s).service = s.service := rfl
@[simp] theorem setCauses_pending (c : ResetCauses) : (setCauses c s).pending = s.pending := rfl

@[simp] theorem setActive_mem (a : Option (WbEntry × Nat)) : (setActive a s).mem = s.mem := rfl
@[simp] theorem setActive_rst (a : Option (WbEntry × Nat)) : (setActive a s).rst = s.rst := rfl
@[simp] theorem setActive_ctl (a : Option (WbEntry × Nat)) : (setActive a s).ctl = { s.ctl with writeBack := { s.ctl.writeBack with active := a } } := rfl
@[simp] theorem setActive_handed (a : Option (WbEntry × Nat)) : (setActive a s).handed = s.handed := rfl
@[simp] theorem setActive_tbl (a : Option (WbEntry × Nat)) : (setActive a s).tbl = s.tbl := rfl
@[simp] theorem setActive_load (a : Option (WbEntry × Nat)) : (setActive a s).load = s.load := rfl
@[simp] theorem setActive_cap (a : Option (WbEntry × Nat)) : (setActive a s).cap = s.cap := rfl
@[simp] theorem setActive_links (a : Option (WbEntry × Nat)) : (setActive a s).links = s.links := rfl
@[simp] theorem setActive_flashTime (a : Option (WbEntry × Nat)) : (setActive a s).flashTime = s.flashTime := rfl
@[simp] theorem setActive_drive (a : Option (WbEntry × Nat)) : (setActive a s).drive = s.drive := rfl
@[simp] theorem setActive_tape (a : Option (WbEntry × Nat)) : (setActive a s).tape = s.tape := rfl
@[simp] theorem setActive_lines (a : Option (WbEntry × Nat)) : (setActive a s).lines = s.lines := rfl
@[simp] theorem setActive_service (a : Option (WbEntry × Nat)) : (setActive a s).service = s.service := rfl
@[simp] theorem setActive_pending (a : Option (WbEntry × Nat)) : (setActive a s).pending = s.pending := rfl

@[simp] theorem freePort_mem : (freePort s).mem = { s.mem with port := none } := rfl
@[simp] theorem freePort_rst : (freePort s).rst = s.rst := rfl
@[simp] theorem freePort_ctl : (freePort s).ctl = s.ctl := rfl
@[simp] theorem freePort_handed : (freePort s).handed = s.handed := rfl
@[simp] theorem freePort_tbl : (freePort s).tbl = s.tbl := rfl
@[simp] theorem freePort_load : (freePort s).load = s.load := rfl
@[simp] theorem freePort_cap : (freePort s).cap = s.cap := rfl
@[simp] theorem freePort_links : (freePort s).links = s.links := rfl
@[simp] theorem freePort_flashTime : (freePort s).flashTime = s.flashTime := rfl
@[simp] theorem freePort_drive : (freePort s).drive = s.drive := rfl
@[simp] theorem freePort_tape : (freePort s).tape = s.tape := rfl
@[simp] theorem freePort_lines : (freePort s).lines = s.lines := rfl
@[simp] theorem freePort_service : (freePort s).service = s.service := rfl
@[simp] theorem freePort_pending : (freePort s).pending = s.pending := rfl

@[simp] theorem placePart_mem (f : PartSource) (a : Nat) (w : Option Word) : (placePart f a w s).mem = { s.mem with parts := s.mem.parts ++ [⟨f, a, w, 0⟩] } := rfl
@[simp] theorem placePart_rst (f : PartSource) (a : Nat) (w : Option Word) : (placePart f a w s).rst = s.rst := rfl
@[simp] theorem placePart_ctl (f : PartSource) (a : Nat) (w : Option Word) : (placePart f a w s).ctl = s.ctl := rfl
@[simp] theorem placePart_handed (f : PartSource) (a : Nat) (w : Option Word) : (placePart f a w s).handed = s.handed := rfl
@[simp] theorem placePart_tbl (f : PartSource) (a : Nat) (w : Option Word) : (placePart f a w s).tbl = s.tbl := rfl
@[simp] theorem placePart_load (f : PartSource) (a : Nat) (w : Option Word) : (placePart f a w s).load = s.load := rfl
@[simp] theorem placePart_cap (f : PartSource) (a : Nat) (w : Option Word) : (placePart f a w s).cap = s.cap := rfl
@[simp] theorem placePart_links (f : PartSource) (a : Nat) (w : Option Word) : (placePart f a w s).links = s.links := rfl
@[simp] theorem placePart_flashTime (f : PartSource) (a : Nat) (w : Option Word) : (placePart f a w s).flashTime = s.flashTime := rfl
@[simp] theorem placePart_drive (f : PartSource) (a : Nat) (w : Option Word) : (placePart f a w s).drive = s.drive := rfl
@[simp] theorem placePart_tape (f : PartSource) (a : Nat) (w : Option Word) : (placePart f a w s).tape = s.tape := rfl
@[simp] theorem placePart_lines (f : PartSource) (a : Nat) (w : Option Word) : (placePart f a w s).lines = s.lines := rfl
@[simp] theorem placePart_service (f : PartSource) (a : Nat) (w : Option Word) : (placePart f a w s).service = s.service := rfl
@[simp] theorem placePart_pending (f : PartSource) (a : Nat) (w : Option Word) : (placePart f a w s).pending = s.pending := rfl

@[simp] theorem writeRam_mem (a : Nat) (w : Word) : (writeRam a w s).mem = { s.mem with ram := s.mem.ram.write a w } := rfl
@[simp] theorem writeRam_rst (a : Nat) (w : Word) : (writeRam a w s).rst = s.rst := rfl
@[simp] theorem writeRam_ctl (a : Nat) (w : Word) : (writeRam a w s).ctl = s.ctl := rfl
@[simp] theorem writeRam_handed (a : Nat) (w : Word) : (writeRam a w s).handed = s.handed := rfl
@[simp] theorem writeRam_tbl (a : Nat) (w : Word) : (writeRam a w s).tbl = s.tbl := rfl
@[simp] theorem writeRam_load (a : Nat) (w : Word) : (writeRam a w s).load = s.load := rfl
@[simp] theorem writeRam_cap (a : Nat) (w : Word) : (writeRam a w s).cap = s.cap := rfl
@[simp] theorem writeRam_links (a : Nat) (w : Word) : (writeRam a w s).links = s.links := rfl
@[simp] theorem writeRam_flashTime (a : Nat) (w : Word) : (writeRam a w s).flashTime = s.flashTime := rfl
@[simp] theorem writeRam_drive (a : Nat) (w : Word) : (writeRam a w s).drive = s.drive := rfl
@[simp] theorem writeRam_tape (a : Nat) (w : Word) : (writeRam a w s).tape = s.tape := rfl
@[simp] theorem writeRam_lines (a : Nat) (w : Word) : (writeRam a w s).lines = s.lines := rfl
@[simp] theorem writeRam_service (a : Nat) (w : Word) : (writeRam a w s).service = s.service := rfl
@[simp] theorem writeRam_pending (a : Nat) (w : Word) : (writeRam a w s).pending = s.pending := rfl

@[simp] theorem endHost_mem (e : Ending) (d : Option RamWord) : (endHost e d s).mem = { s.mem with bus := some ⟨e, d⟩ } := rfl
@[simp] theorem endHost_rst (e : Ending) (d : Option RamWord) : (endHost e d s).rst = s.rst := rfl
@[simp] theorem endHost_ctl (e : Ending) (d : Option RamWord) : (endHost e d s).ctl = s.ctl := rfl
@[simp] theorem endHost_handed (e : Ending) (d : Option RamWord) : (endHost e d s).handed = s.handed := rfl
@[simp] theorem endHost_tbl (e : Ending) (d : Option RamWord) : (endHost e d s).tbl = s.tbl := rfl
@[simp] theorem endHost_load (e : Ending) (d : Option RamWord) : (endHost e d s).load = s.load := rfl
@[simp] theorem endHost_cap (e : Ending) (d : Option RamWord) : (endHost e d s).cap = s.cap := rfl
@[simp] theorem endHost_links (e : Ending) (d : Option RamWord) : (endHost e d s).links = s.links := rfl
@[simp] theorem endHost_flashTime (e : Ending) (d : Option RamWord) : (endHost e d s).flashTime = s.flashTime := rfl
@[simp] theorem endHost_drive (e : Ending) (d : Option RamWord) : (endHost e d s).drive = s.drive := rfl
@[simp] theorem endHost_tape (e : Ending) (d : Option RamWord) : (endHost e d s).tape = s.tape := rfl
@[simp] theorem endHost_lines (e : Ending) (d : Option RamWord) : (endHost e d s).lines = s.lines := rfl
@[simp] theorem endHost_service (e : Ending) (d : Option RamWord) : (endHost e d s).service = s.service := rfl
@[simp] theorem endHost_pending (e : Ending) (d : Option RamWord) : (endHost e d s).pending = s.pending := rfl

@[simp] theorem setRefresh_mem (r : Refresh) : (setRefresh r s).mem = { s.mem with refresh := r } := rfl
@[simp] theorem setRefresh_rst (r : Refresh) : (setRefresh r s).rst = s.rst := rfl
@[simp] theorem setRefresh_ctl (r : Refresh) : (setRefresh r s).ctl = s.ctl := rfl
@[simp] theorem setRefresh_handed (r : Refresh) : (setRefresh r s).handed = s.handed := rfl
@[simp] theorem setRefresh_tbl (r : Refresh) : (setRefresh r s).tbl = s.tbl := rfl
@[simp] theorem setRefresh_load (r : Refresh) : (setRefresh r s).load = s.load := rfl
@[simp] theorem setRefresh_cap (r : Refresh) : (setRefresh r s).cap = s.cap := rfl
@[simp] theorem setRefresh_links (r : Refresh) : (setRefresh r s).links = s.links := rfl
@[simp] theorem setRefresh_flashTime (r : Refresh) : (setRefresh r s).flashTime = s.flashTime := rfl
@[simp] theorem setRefresh_drive (r : Refresh) : (setRefresh r s).drive = s.drive := rfl
@[simp] theorem setRefresh_tape (r : Refresh) : (setRefresh r s).tape = s.tape := rfl
@[simp] theorem setRefresh_lines (r : Refresh) : (setRefresh r s).lines = s.lines := rfl
@[simp] theorem setRefresh_service (r : Refresh) : (setRefresh r s).service = s.service := rfl
@[simp] theorem setRefresh_pending (r : Refresh) : (setRefresh r s).pending = s.pending := rfl

@[simp] theorem setInstrument_mem (i : Nat) (r : Instrument) : (setInstrument i r s).mem = s.mem := rfl
@[simp] theorem setInstrument_rst (i : Nat) (r : Instrument) : (setInstrument i r s).rst = s.rst := rfl
@[simp] theorem setInstrument_ctl (i : Nat) (r : Instrument) : (setInstrument i r s).ctl = s.ctl := rfl
@[simp] theorem setInstrument_handed (i : Nat) (r : Instrument) : (setInstrument i r s).handed = s.handed := rfl
@[simp] theorem setInstrument_tbl (i : Nat) (r : Instrument) : (setInstrument i r s).tbl = { s.tbl with instruments := s.tbl.instruments.set i r } := rfl
@[simp] theorem setInstrument_load (i : Nat) (r : Instrument) : (setInstrument i r s).load = s.load := rfl
@[simp] theorem setInstrument_cap (i : Nat) (r : Instrument) : (setInstrument i r s).cap = s.cap := rfl
@[simp] theorem setInstrument_links (i : Nat) (r : Instrument) : (setInstrument i r s).links = s.links := rfl
@[simp] theorem setInstrument_flashTime (i : Nat) (r : Instrument) : (setInstrument i r s).flashTime = s.flashTime := rfl
@[simp] theorem setInstrument_drive (i : Nat) (r : Instrument) : (setInstrument i r s).drive = s.drive := rfl
@[simp] theorem setInstrument_tape (i : Nat) (r : Instrument) : (setInstrument i r s).tape = s.tape := rfl
@[simp] theorem setInstrument_lines (i : Nat) (r : Instrument) : (setInstrument i r s).lines = s.lines := rfl
@[simp] theorem setInstrument_service (i : Nat) (r : Instrument) : (setInstrument i r s).service = s.service := rfl
@[simp] theorem setInstrument_pending (i : Nat) (r : Instrument) : (setInstrument i r s).pending = s.pending := rfl

@[simp] theorem setLink_mem (k : Fin 8) (l : Link) : (setLink k l s).mem = s.mem := rfl
@[simp] theorem setLink_rst (k : Fin 8) (l : Link) : (setLink k l s).rst = s.rst := rfl
@[simp] theorem setLink_ctl (k : Fin 8) (l : Link) : (setLink k l s).ctl = s.ctl := rfl
@[simp] theorem setLink_handed (k : Fin 8) (l : Link) : (setLink k l s).handed = s.handed := rfl
@[simp] theorem setLink_tbl (k : Fin 8) (l : Link) : (setLink k l s).tbl = s.tbl := rfl
@[simp] theorem setLink_load (k : Fin 8) (l : Link) : (setLink k l s).load = s.load := rfl
@[simp] theorem setLink_cap (k : Fin 8) (l : Link) : (setLink k l s).cap = s.cap := rfl
@[simp] theorem setLink_links (k : Fin 8) (l : Link) : (setLink k l s).links = s.links.set k l := rfl
@[simp] theorem setLink_flashTime (k : Fin 8) (l : Link) : (setLink k l s).flashTime = s.flashTime := rfl
@[simp] theorem setLink_drive (k : Fin 8) (l : Link) : (setLink k l s).drive = s.drive := rfl
@[simp] theorem setLink_tape (k : Fin 8) (l : Link) : (setLink k l s).tape = s.tape := rfl
@[simp] theorem setLink_lines (k : Fin 8) (l : Link) : (setLink k l s).lines = s.lines := rfl
@[simp] theorem setLink_service (k : Fin 8) (l : Link) : (setLink k l s).service = s.service := rfl
@[simp] theorem setLink_pending (k : Fin 8) (l : Link) : (setLink k l s).pending = s.pending := rfl

@[simp] theorem setTape_mem (t : TickerUnit) : (setTape t s).mem = s.mem := rfl
@[simp] theorem setTape_rst (t : TickerUnit) : (setTape t s).rst = s.rst := rfl
@[simp] theorem setTape_ctl (t : TickerUnit) : (setTape t s).ctl = s.ctl := rfl
@[simp] theorem setTape_handed (t : TickerUnit) : (setTape t s).handed = s.handed := rfl
@[simp] theorem setTape_tbl (t : TickerUnit) : (setTape t s).tbl = s.tbl := rfl
@[simp] theorem setTape_load (t : TickerUnit) : (setTape t s).load = s.load := rfl
@[simp] theorem setTape_cap (t : TickerUnit) : (setTape t s).cap = s.cap := rfl
@[simp] theorem setTape_links (t : TickerUnit) : (setTape t s).links = s.links := rfl
@[simp] theorem setTape_flashTime (t : TickerUnit) : (setTape t s).flashTime = s.flashTime := rfl
@[simp] theorem setTape_drive (t : TickerUnit) : (setTape t s).drive = s.drive := rfl
@[simp] theorem setTape_tape (t : TickerUnit) : (setTape t s).tape = t := rfl
@[simp] theorem setTape_lines (t : TickerUnit) : (setTape t s).lines = s.lines := rfl
@[simp] theorem setTape_service (t : TickerUnit) : (setTape t s).service = s.service := rfl
@[simp] theorem setTape_pending (t : TickerUnit) : (setTape t s).pending = s.pending := rfl

@[simp] theorem setDrive_mem (d : DriveUnit) : (setDrive d s).mem = s.mem := rfl
@[simp] theorem setDrive_rst (d : DriveUnit) : (setDrive d s).rst = s.rst := rfl
@[simp] theorem setDrive_ctl (d : DriveUnit) : (setDrive d s).ctl = s.ctl := rfl
@[simp] theorem setDrive_handed (d : DriveUnit) : (setDrive d s).handed = s.handed := rfl
@[simp] theorem setDrive_tbl (d : DriveUnit) : (setDrive d s).tbl = s.tbl := rfl
@[simp] theorem setDrive_load (d : DriveUnit) : (setDrive d s).load = s.load := rfl
@[simp] theorem setDrive_cap (d : DriveUnit) : (setDrive d s).cap = s.cap := rfl
@[simp] theorem setDrive_links (d : DriveUnit) : (setDrive d s).links = s.links := rfl
@[simp] theorem setDrive_flashTime (d : DriveUnit) : (setDrive d s).flashTime = s.flashTime := rfl
@[simp] theorem setDrive_drive (d : DriveUnit) : (setDrive d s).drive = d := rfl
@[simp] theorem setDrive_tape (d : DriveUnit) : (setDrive d s).tape = s.tape := rfl
@[simp] theorem setDrive_lines (d : DriveUnit) : (setDrive d s).lines = s.lines := rfl
@[simp] theorem setDrive_service (d : DriveUnit) : (setDrive d s).service = s.service := rfl
@[simp] theorem setDrive_pending (d : DriveUnit) : (setDrive d s).pending = s.pending := rfl

@[simp] theorem setCap_mem (c : CaptureUnit) : (setCap c s).mem = s.mem := rfl
@[simp] theorem setCap_rst (c : CaptureUnit) : (setCap c s).rst = s.rst := rfl
@[simp] theorem setCap_ctl (c : CaptureUnit) : (setCap c s).ctl = s.ctl := rfl
@[simp] theorem setCap_handed (c : CaptureUnit) : (setCap c s).handed = s.handed := rfl
@[simp] theorem setCap_tbl (c : CaptureUnit) : (setCap c s).tbl = s.tbl := rfl
@[simp] theorem setCap_load (c : CaptureUnit) : (setCap c s).load = s.load := rfl
@[simp] theorem setCap_cap (c : CaptureUnit) : (setCap c s).cap = c := rfl
@[simp] theorem setCap_links (c : CaptureUnit) : (setCap c s).links = s.links := rfl
@[simp] theorem setCap_flashTime (c : CaptureUnit) : (setCap c s).flashTime = s.flashTime := rfl
@[simp] theorem setCap_drive (c : CaptureUnit) : (setCap c s).drive = s.drive := rfl
@[simp] theorem setCap_tape (c : CaptureUnit) : (setCap c s).tape = s.tape := rfl
@[simp] theorem setCap_lines (c : CaptureUnit) : (setCap c s).lines = s.lines := rfl
@[simp] theorem setCap_service (c : CaptureUnit) : (setCap c s).service = s.service := rfl
@[simp] theorem setCap_pending (c : CaptureUnit) : (setCap c s).pending = s.pending := rfl

end Sys2Proof.Machine
end

