-- ==== Sys2Proof/Laws/Ops.lean ====
section
/-! SUPPORT. What each shared operation can do, said once: which parts of the state it may change. -/

namespace Sys2Proof.Machine

open Sys2Proof

/-! ### The arbiter -/

/-- A grant changes nothing but what waits for the port and what is on it. -/
theorem grant_eq (s : State) :
    grant s =
      { s with
        mem :=
          { s.mem with
            waiting := (grant s).mem.waiting
            parts := (grant s).mem.parts
            port := (grant s).mem.port } } := by
  unfold grant
  split
  · rfl
  · split
    · rfl
    · rename_i g _
      cases g <;> rfl

/-- A busy port grants nothing. -/
theorem grant_busy (s : State) (h : s.mem.port.isSome = true) : grant s = s := by
  unfold grant
  split
  · rfl
  · simp_all

/-- Every meaning answers a next state. -/
theorem answer_eq (s : State) : answer s = .next (grant s) := rfl

@[simp] theorem grant_rst (s : State) : (grant s).rst = s.rst := by rw [grant_eq]
@[simp] theorem grant_ctl (s : State) : (grant s).ctl = s.ctl := by rw [grant_eq]
@[simp] theorem grant_handed (s : State) : (grant s).handed = s.handed := by rw [grant_eq]
@[simp] theorem grant_tbl (s : State) : (grant s).tbl = s.tbl := by rw [grant_eq]
@[simp] theorem grant_load (s : State) : (grant s).load = s.load := by rw [grant_eq]
@[simp] theorem grant_cap (s : State) : (grant s).cap = s.cap := by rw [grant_eq]
@[simp] theorem grant_links (s : State) : (grant s).links = s.links := by rw [grant_eq]
@[simp] theorem grant_flashTime (s : State) : (grant s).flashTime = s.flashTime := by rw [grant_eq]
@[simp] theorem grant_drive (s : State) : (grant s).drive = s.drive := by rw [grant_eq]
@[simp] theorem grant_tape (s : State) : (grant s).tape = s.tape := by rw [grant_eq]
@[simp] theorem grant_lines (s : State) : (grant s).lines = s.lines := by rw [grant_eq]
@[simp] theorem grant_service (s : State) : (grant s).service = s.service := by rw [grant_eq]
@[simp] theorem grant_pending (s : State) : (grant s).pending = s.pending := by rw [grant_eq]
@[simp] theorem grant_ram (s : State) : (grant s).mem.ram = s.mem.ram := by rw [grant_eq]
@[simp] theorem grant_installed (s : State) : (grant s).mem.installed = s.mem.installed := by rw [grant_eq]
@[simp] theorem grant_refresh (s : State) : (grant s).mem.refresh = s.mem.refresh := by rw [grant_eq]
@[simp] theorem grant_guards (s : State) : (grant s).mem.guards = s.mem.guards := by rw [grant_eq]
@[simp] theorem grant_guardLock (s : State) : (grant s).mem.guardLock = s.mem.guardLock := by rw [grant_eq]
@[simp] theorem grant_trap (s : State) : (grant s).mem.trap = s.mem.trap := by rw [grant_eq]
@[simp] theorem grant_bus (s : State) : (grant s).mem.bus = s.mem.bus := by rw [grant_eq]

/-! ### Posting -/

theorem WbEntry.Stands.refl (x : WbEntry) : x.Stands x := .inl rfl

theorem WbEntry.Stands.trans {x y z : WbEntry} (h1 : x.Stands y) (h2 : y.Stands z) : x.Stands z := by
  rcases h1 with rfl | ⟨w, old, mid, rfl, rfl⟩
  · exact h2
  · rcases h2 with rfl | ⟨w', _, new, h, rfl⟩
    · exact .inr ⟨w, old, mid, rfl, rfl⟩
    · obtain ⟨rfl, -⟩ : w = w' ∧ _ := by simpa using h
      exact .inr ⟨w, old, new, rfl, rfl⟩

/-- Every entry of a list stands in its place. -/
theorem stand_refl (l : List WbEntry) : List.Forall₂ WbEntry.Stands l l := by
  induction l with
  | nil => exact .nil
  | cons x l ih => exact .cons (.refl x) ih

theorem stand_trans {l m n : List WbEntry} (h1 : List.Forall₂ WbEntry.Stands l m)
    (h2 : List.Forall₂ WbEntry.Stands m n) : List.Forall₂ WbEntry.Stands l n := by
  induction h1 generalizing n with
  | nil => cases h2; exact .nil
  | cons hx _ ih =>
    cases h2 with
    | cons hy h2 => exact .cons (hx.trans hy) (ih h2)

/-- A list whose front stands for another is cut where the other is cut. -/
theorem stand_append {l m n : List WbEntry} (h : List.Forall₂ WbEntry.Stands (l ++ m) n) :
    ∃ a b, n = a ++ b ∧ List.Forall₂ WbEntry.Stands l a := by
  induction l generalizing n with
  | nil => exact ⟨[], n, rfl, .nil⟩
  | cons x l ih =>
    cases h with
    | cons hx h =>
      obtain ⟨a, b, rfl, ha⟩ := ih h
      exact ⟨_ :: a, b, rfl, .cons hx ha⟩

theorem WriteBack.Kept.refl (a : WriteBack) : a.Kept a :=
  ⟨fun _ _ h => h, fun h e n h' => by simp [h] at h', a.entries, [], by simp, stand_refl _⟩

theorem WriteBack.Kept.trans {a b c : WriteBack} (h1 : a.Kept b) (h2 : b.Kept c) : a.Kept c := by
  refine ⟨fun e n h => h2.writing e n (h1.writing e n h), ?_, ?_⟩
  · intro ha e n hc
    cases hb : b.active with
    | none => exact h2.takenUp hb e n hc
    | some x =>
      obtain ⟨e', n'⟩ := x
      have h := h2.writing e' n' hb
      rw [hc] at h
      obtain ⟨rfl, rfl⟩ : e = e' ∧ n = n' := by simpa using h
      exact h1.takenUp ha e n hb
  · obtain ⟨f1, t1, e1, p1⟩ := h1.order
    obtain ⟨f2, t2, e2, p2⟩ := h2.order
    rw [e1] at p2
    obtain ⟨x, y, rfl, px⟩ := stand_append p2
    exact ⟨x, y ++ t2, by rw [e2, List.append_assoc], stand_trans p1 px⟩

/-- What waits is changed: every entry stands in its place and what has joined stands behind them. -/
theorem WriteBack.Kept.queue {b : WriteBack} {q front behind : List WbEntry} (hq : q = front ++ behind)
    (h : List.Forall₂ WbEntry.Stands b.queue front) : b.Kept { b with queue := q } := by
  refine ⟨fun _ _ h => h, fun h e n h' => by simp [h] at h', (b.active.map Prod.fst).toList ++ front, behind, ?_, ?_⟩
  · simp [WriteBack.entries, hq]
  · unfold WriteBack.entries
    cases b.active with
    | none => simpa using h
    | some x => simpa using List.Forall₂.cons (WbEntry.Stands.refl x.1) h

/-- A table value takes the place of the entry of its word, or stands behind every other (R28). -/
theorem joinTable_stand (t : TableWord) (ws : List Word) (q : List WbEntry) :
    ∃ front behind, joinTable t ws q = front ++ behind ∧ List.Forall₂ WbEntry.Stands q front := by
  induction q with
  | nil => exact ⟨[], [.table t ws], rfl, .nil⟩
  | cons e rest ih =>
    obtain ⟨f, b, h, hp⟩ := ih
    cases e with
    | table t' ws' =>
      by_cases ht : t' = t
      · exact ⟨.table t ws :: rest, [], by simp [joinTable, ht], .cons (.inr ⟨t, ws', ws, by rw [ht], rfl⟩) (stand_refl _)⟩
      · exact ⟨.table t' ws' :: f, b, by simp [joinTable, ht, h], .cons (.refl _) hp⟩
    | faultRecord n w => exact ⟨.faultRecord n w :: f, b, by simp [joinTable, h], .cons (.refl _) hp⟩
    | inboxSlot n l q w => exact ⟨.inboxSlot n l q w :: f, b, by simp [joinTable, h], .cons (.refl _) hp⟩

/-- What waits after a table value has joined waited before, or is that value. -/
theorem of_mem_joinTable {t : TableWord} {ws : List Word} {e : WbEntry} {q : List WbEntry}
    (h : e ∈ joinTable t ws q) : e ∈ q ∨ e = .table t ws := by
  induction q with
  | nil => exact .inr (by simpa [joinTable] using h)
  | cons d rest ih =>
    have key : ∀ {x}, e ∈ x :: joinTable t ws rest → e ∈ x :: rest ∨ e = .table t ws := by
      intro x hx
      rcases List.mem_cons.mp hx with rfl | hr
      · exact .inl (by simp)
      · rcases ih hr with h | h
        · exact .inl (by simp [h])
        · exact .inr h
    cases d with
    | table t' ws' =>
      by_cases ht : t' = t
      · simp only [joinTable, ht, if_true, List.mem_cons] at h
        rcases h with h | h
        · exact .inr h
        · exact .inl (by simp [h])
      · simp only [joinTable, ht, if_false] at h
        exact key h
    | faultRecord n w => exact key h
    | inboxSlot n l q w => exact key h

theorem OnlyPosts.refl (s : State) : OnlyPosts s s :=
  ⟨rfl, rfl, rfl, ⟨[], by simp, by simp⟩, .refl _, fun _ _ _ h => .inl h⟩

/-- A posted state is the first but for the part cycle queue and the write-back queue. -/
theorem OnlyPosts.eq {a b : State} (h : OnlyPosts a b) :
    b = { a with mem := { a.mem with parts := b.mem.parts }, ctl := { a.ctl with writeBack := b.ctl.writeBack } } := by
  have hr := h.rest
  have hp := h.port
  have hw := h.waiting
  obtain ⟨bm, br, bc, bh, bt, bl, bcap, blk, bf, bd, btp, bln, bsv, bpd⟩ := b
  obtain ⟨am, ar, ac, ah, at', al, acap, alk, af, ad, atp, aln, asv, apd⟩ := a
  obtain ⟨_, _, _, _, _, _, _, _, _, _⟩ := bm
  obtain ⟨_, _, _, _, _, _, _, _, _, _⟩ := am
  obtain ⟨_, _, _, _, _, _, _, _, _, _⟩ := bc
  obtain ⟨_, _, _, _, _, _, _, _, _, _⟩ := ac
  simp only [State.atRest, State.mk.injEq, MemoryPath.mk.injEq, ControlUnit.mk.injEq] at hr hp hw ⊢
  simp_all

/-- The values of the table words do not depend on what is posted. -/
theorem OnlyPosts.tableWords {a b : State} (h : OnlyPosts a b) (t : TableWord) : b.tableWords t = a.tableWords t := by
  rw [h.eq]
  cases t <;> rfl

theorem OnlyPosts.trans {a b c : State} (h1 : OnlyPosts a b) (h2 : OnlyPosts b c) : OnlyPosts a c := by
  obtain ⟨l1, e1, p1⟩ := h1.parts
  obtain ⟨l2, e2, p2⟩ := h2.parts
  refine ⟨h2.rest.trans h1.rest, h2.port.trans h1.port, h2.waiting.trans h1.waiting, ⟨l1 ++ l2, ?_, ?_⟩,
    h1.kept.trans h2.kept, ?_⟩
  · rw [e2, e1, List.append_assoc]
  · intro p hp
    rcases List.mem_append.mp hp with h | h
    · exact p1 p h
    · exact p2 p h
  · intro w ws hw h
    rcases h2.present w ws hw h with h | h
    · rcases h1.present w ws hw h with h | h
      · exact .inl h
      · exact .inr (h.trans (h2.tableWords w).symm)
    · exact .inr h

/-- Taking up the head of the write-back queue posts and no more. -/
theorem pumpWriteBack_onlyPosts (s : State) : OnlyPosts s (pumpWriteBack s) := by
  unfold pumpWriteBack
  split
  · rename_i e rest ha hq
    split
    · exact .refl s
    · refine ⟨rfl, rfl, rfl, ⟨[⟨.writeBack, _, _, 0⟩], rfl, by simp⟩, ⟨?_, ?_, ?_⟩, ?_⟩
      · intro e' n h
        simp [ha] at h
      · intro _ e' n h
        exact (by simpa [placeWriteBack, placePart] using h : e = e' ∧ 0 = n).2.symm
      · exact ⟨e :: rest, [], by simp [WriteBack.entries, placeWriteBack, placePart],
          by rw [WriteBack.entries, ha, hq]; exact stand_refl _⟩
      · intro w ws _ h
        exact .inl (by rw [hq]; exact List.mem_cons_of_mem _ h)
  · exact .refl s

/-- Posting a table word posts and no more. -/
theorem post_onlyPosts (t : TableWord) (s : State) : OnlyPosts s (post t s) := by
  obtain ⟨f, b, h, hp⟩ := joinTable_stand t (s.tableWords t) s.ctl.writeBack.queue
  refine OnlyPosts.trans (b := setWaiting (joinTable t (s.tableWords t) s.ctl.writeBack.queue) s)
    ⟨rfl, rfl, rfl, ⟨[], by simp [setWaiting], by simp⟩, .queue h hp, ?_⟩ (pumpWriteBack_onlyPosts _)
  intro w ws _ hm
  rcases of_mem_joinTable hm with h | h
  · exact .inl h
  · obtain ⟨rfl, rfl⟩ : w = t ∧ ws = s.tableWords t := by simpa using h
    exact .inr (by cases w <;> rfl)

/-- Posting a record entry, which no table word's is, posts and no more. -/
theorem postRecord_onlyPosts (e : WbEntry) (s : State) (he : ∀ w ws, e ≠ .table w ws) :
    OnlyPosts s (postRecord e s) := by
  refine OnlyPosts.trans (b := setWaiting (s.ctl.writeBack.queue ++ [e]) s)
    ⟨rfl, rfl, rfl, ⟨[], by simp [setWaiting], by simp⟩, .queue rfl (stand_refl _), ?_⟩ (pumpWriteBack_onlyPosts _)
  intro w ws _ hm
  rcases List.mem_append.mp hm with h | h
  · exact .inl h
  · exact absurd (List.mem_singleton.mp h).symm (he w ws)

/-- Posting several table words posts and no more. -/
theorem postAll_onlyPosts (ts : List TableWord) (s : State) : OnlyPosts s (postAll ts s) := by
  unfold postAll
  induction ts generalizing s with
  | nil => exact .refl s
  | cons t ts ih => exact (post_onlyPosts t s).trans (ih (post t s))

/-- Posting the table words that have changed posts and no more. -/
theorem postChanged_onlyPosts (old : State) (ts : List TableWord) (s : State) : OnlyPosts s (postChanged old ts s) := by
  unfold postChanged
  induction ts generalizing s with
  | nil => exact .refl s
  | cons t ts ih =>
    simp only [List.foldl_cons]
    split
    · exact ih s
    · exact (post_onlyPosts t s).trans (ih (post t s))

/-- A value joins the queue under its own word. -/
theorem joinTable_mem (t : TableWord) (ws : List Word) (q : List WbEntry) : .table t ws ∈ joinTable t ws q := by
  induction q with
  | nil => simp [joinTable]
  | cons e rest ih =>
    cases e with
    | table t' ws' =>
      by_cases h : t' = t <;> simp [joinTable, h, ih]
    | faultRecord n w => simp [joinTable, ih]
    | inboxSlot n l q w => simp [joinTable, ih]

/-- An entry for another word stays in the queue. -/
theorem mem_joinTable {t : TableWord} {ws : List Word} {e : WbEntry} {q : List WbEntry} (h : e ∈ q)
    (hne : ∀ ws', e ≠ .table t ws') : e ∈ joinTable t ws q := by
  induction q with
  | nil => cases h
  | cons d rest ih =>
    rcases List.mem_cons.mp h with rfl | hr
    · cases e with
      | table t' ws' =>
        have : t' ≠ t := fun hh => hne ws' (by rw [hh])
        simp [joinTable, this]
      | faultRecord n w => simp [joinTable]
      | inboxSlot n l q w => simp [joinTable]
    · cases d with
      | table t' ws' =>
        by_cases h' : t' = t <;> simp [joinTable, h', ih hr, hr]
      | faultRecord n w => simp [joinTable, ih hr]
      | inboxSlot n l q w => simp [joinTable, ih hr]

/-- An entry that waits goes on waiting when the head of the queue is taken up. -/
theorem queued_pump {e : WbEntry} {s : State} (h : s.Queued e) : (pumpWriteBack s).Queued e := by
  unfold pumpWriteBack
  split
  · rename_i d rest ha hq
    split
    · exact h
    · rcases h with h | h
      · simp [ha] at h
      · rw [hq] at h
        rcases List.mem_cons.mp h with rfl | hr
        · exact .inl rfl
        · exact .inr hr
  · exact h

/-- After a post, the present value of the word waits. -/
theorem post_posted (t : TableWord) (s : State) : (post t s).Posted t := by
  have h : (post t s).Queued (.table t (s.tableWords t)) := queued_pump (.inr (joinTable_mem _ _ _))
  rwa [← (post_onlyPosts t s).tableWords t] at h

/-- An entry of another word goes on waiting through a post. -/
theorem queued_post {e : WbEntry} {t : TableWord} {s : State} (h : s.Queued e) (hne : ∀ ws, e ≠ .table t ws) :
    (post t s).Queued e := by
  apply queued_pump
  rcases h with h | h
  · exact .inl h
  · exact .inr (mem_joinTable h hne)

/-- The present value of a word goes on waiting through a post of another. -/
theorem posted_post {t u : TableWord} {s : State} (h : s.Posted u) (hne : u ≠ t) : (post t s).Posted u := by
  have h' : s.Queued (.table u (s.tableWords u)) := h
  have := queued_post (t := t) h' (by intro ws; simp [hne])
  rwa [← (post_onlyPosts t s).tableWords u] at this

/-- The present value of a word goes on waiting through any post. -/
theorem posted_anyPost {u : TableWord} {s : State} (h : s.Posted u) (t : TableWord) : (post t s).Posted u := by
  by_cases hne : u = t
  · exact hne ▸ post_posted u s
  · exact posted_post h hne

/-- The present value of a word goes on waiting through a posting of changed words. -/
theorem posted_postChanged {u : TableWord} {old s : State} (h : s.Posted u) (ts : List TableWord) :
    (postChanged old ts s).Posted u := by
  unfold Machine.postChanged
  induction ts generalizing s with
  | nil => exact h
  | cons t ts ih =>
    simp only [List.foldl_cons]
    split
    · exact ih h
    · exact ih (posted_anyPost h t)

/-- A posting of changed words leaves each of them waiting that has changed since `old`. -/
theorem postChanged_posted {u : TableWord} {old s : State} {ts : List TableWord} (hm : u ∈ ts)
    (hne : s.tableWords u ≠ old.tableWords u) : (postChanged old ts s).Posted u := by
  unfold Machine.postChanged
  induction ts generalizing s with
  | nil => cases hm
  | cons t ts ih =>
    simp only [List.foldl_cons]
    by_cases htu : u = t
    · subst htu
      rw [if_neg hne]
      exact posted_postChanged (post_posted u s) ts
    · have hm' : u ∈ ts := (List.mem_cons.mp hm).resolve_left htu
      split
      · exact ih hm' hne
      · exact ih hm' (by rwa [(post_onlyPosts t s).tableWords u])

/-- After a record is posted, it waits. -/
theorem postRecord_queued (e : WbEntry) (s : State) : (postRecord e s).Queued e :=
  queued_pump (.inr (by simp [setWaiting]))

/-! ### Faults -/

/-- A fault with room in the log takes its slot, and its record waits (R31). -/
theorem postFault_room {k : FaultKind} {subj : Subject} {d : List Nat} {s : State} (h : s.LogRoom) :
    OnlyPosts s.slotTaken (postFault k subj d s) ∧ (postFault k subj d s).Queued (s.faultEntry k subj d) := by
  obtain ⟨h1, h2⟩ := h
  unfold postFault
  simp only [h1, h2, if_false, Bool.false_eq_true]
  exact ⟨postRecord_onlyPosts _ _ (by simp), postRecord_queued _ _⟩

/-- A fault changes the fault log and posts, and does no more. -/
theorem postFault_onlyPosts (k : FaultKind) (subj : Subject) (d : List Nat) (s : State) :
    OnlyPosts (setLog (postFault k subj d s).ctl.log s) (postFault k subj d s) := by
  have aux : ∀ g t, OnlyPosts (setLog g s) t → OnlyPosts (setLog t.ctl.log s) t := by
    intro g t ht
    have : t.ctl.log = g := by rw [ht.eq]; rfl
    rw [this]; exact ht
  unfold postFault
  split
  · exact aux s.ctl.log _ (.refl _)
  · simp only
    split
    · split
      · exact aux _ _ (.refl _)
      · exact aux _ _ (post_onlyPosts _ _)
    · exact aux _ _ (postRecord_onlyPosts _ _ (by simp))

/-! ### Commands -/

/-- The end of a running command: its record, the COMMAND cause, and the post of the command status. -/
theorem endCommand_onlyPosts (code : Option ResultCode) (detail : Nat) (s : State) :
    OnlyPosts (s.runEnded code detail) (endCommand code detail s) ∧ (endCommand code detail s).Posted .commandStatus := by
  have h := post_onlyPosts .commandStatus
    (setCommand { s.ctl.command with state := if code.isSome then .refused else .done, result := code, detail := detail } s)
  constructor
  · refine ⟨?_, h.port, h.waiting, h.parts, h.kept, ?_⟩
    · have hr := h.eq
      unfold endCommand
      rw [hr]
      rfl
    · intro w ws hw hm
      rcases h.present w ws hw hm with h' | h'
      · exact .inl h'
      · exact .inr (h'.trans (by cases w <;> rfl))
  · exact post_posted _ _

/-- What an offered command comes to when it is carried out. -/
theorem onCommand_offered {s : State} {w : Word} {codes : Nat → Bool} {owning : State → State} (h : s.Offered w)
    (hc : codes (commandCode w) = true) :
    onCommand codes owning s = examine w owning (takeCommand w (setCommandCause false (popHanded s))) := by
  obtain ⟨h1, h2, h3⟩ := h
  unfold onCommand
  match hh : s.handed with
  | [] => simp [hh] at h2
  | x :: rest =>
    rw [hh] at h2
    obtain rfl : x = .control 0 w := by simpa using h2
    simp [h1, hc, arrive, h3]

/-- The taking of an offered command: it is RUNNING, and nothing else but posting has been done. -/
theorem takeCommand_onlyPosts (w : Word) (s : State) :
    OnlyPosts (s.begun w) (takeCommand w (setCommandCause false (popHanded s))) := post_onlyPosts _ _

/-! ### Links, lines, tape and drive -/

/-- A free link's choice changes the links alone. -/
theorem chooseFrame_eq (k : Fin 8) (s : State) : chooseFrame k s = { s with links := (chooseFrame k s).links } := by
  unfold chooseFrame
  simp only
  split
  · split <;> rfl
  · rfl

/-- The choices of all links change the links alone. -/
theorem chooseAll_eq (s : State) : chooseAll s = { s with links := (chooseAll s).links } := by
  unfold chooseAll
  generalize all8 = ks
  induction ks generalizing s with
  | nil => rfl
  | cons k ks ih =>
    simp only [List.foldl_cons]
    rw [ih, chooseFrame_eq]

/-- A recomputation of target images changes the links alone. -/
theorem recomputeBoards_eq (which : Nat → Bool) (s : State) :
    recomputeBoards which s = { s with links := (recomputeBoards which s).links } := by
  unfold recomputeBoards
  generalize all8 = ks
  induction ks generalizing s with
  | nil => rfl
  | cons k ks ih =>
    simp only [List.foldl_cons]
    rw [ih]
    unfold recomputeLink
    split <;> rfl

/-- A change of a line changes that line and posts. -/
theorem setLine_onlyPosts (n : Fin 16) (l : Line) (s : State) :
    OnlyPosts { s with lines := s.lines.set n l } (setLine n l s) := postChanged_onlyPosts _ _ _

/-- A change of the Ticker Unit's state changes it and posts. -/
theorem updateTape_onlyPosts (t : TickerUnit) (s : State) : OnlyPosts { s with tape := t } (updateTape t s) :=
  postChanged_onlyPosts _ _ _

/-- What follows a change of the Drive Protection Unit's state: the log takes the reasons that hold, a still ribbon
presents its brightness, and words are posted. -/
theorem driveSettle_onlyPosts (old s : State) : OnlyPosts (presentStill (logReasons s)) (driveSettle old s) :=
  postChanged_onlyPosts _ _ _

/-! ### Working under a post -/

/-- The state with another part cycle queue and another write-back: all that posting can have changed. -/
def withPosts (a : State) (parts : List PartCycle) (wb : WriteBack) : State :=
  { a with mem := { a.mem with parts := parts }, ctl := { a.ctl with writeBack := wb } }

/-- A posted state is the first with another part cycle queue and another write-back. -/
theorem OnlyPosts.eq_withPosts {a b : State} (h : OnlyPosts a b) : b = withPosts a b.mem.parts b.ctl.writeBack := h.eq

/-- A change that does not look at what is posted, nor touches the value of a table word but the command status, can be
made before the posting. -/
theorem OnlyPosts.map {a b : State} (h : OnlyPosts a b) (f : State → State)
    (hf : ∀ parts wb, f (withPosts a parts wb) = withPosts (f a) parts wb)
    (hw : ∀ w, w ≠ .commandStatus → (f b).tableWords w = b.tableWords w) : OnlyPosts (f a) (f b) := by
  have hb : f b = withPosts (f a) b.mem.parts b.ctl.writeBack := by
    conv_lhs => rw [h.eq_withPosts]
    exact hf _ _
  have ha : f a = withPosts (f a) a.mem.parts a.ctl.writeBack := hf a.mem.parts a.ctl.writeBack
  have hp : (f a).mem.parts = a.mem.parts := by rw [ha]; rfl
  have hwb : (f a).ctl.writeBack = a.ctl.writeBack := by rw [ha]; rfl
  have hwb' : (f b).ctl.writeBack = b.ctl.writeBack := by rw [hb]; rfl
  obtain ⟨l, e, q⟩ := h.parts
  refine ⟨by rw [hb]; rfl, by rw [hb]; rfl, by rw [hb]; rfl, ⟨l, by rw [hb, hp, ← e]; rfl, q⟩, ?_, ?_⟩
  · rw [hwb, hwb']; exact h.kept
  · rw [hwb, hwb']
    intro w ws hne hm
    exact (h.present w ws hne hm).imp id (fun h' => h'.trans (hw w hne).symm)

/-- The end of a running command, after posting. -/
theorem OnlyPosts.endCommand {a b : State} (h : OnlyPosts a b) (code : Option ResultCode) (d : Nat) :
    OnlyPosts (a.runEnded code d) (endCommand code d b) :=
  (h.map (fun s => s.runEnded code d) (fun _ _ => rfl)
    (fun w hw => by cases w <;> first | rfl | exact absurd rfl hw)).trans (endCommand_onlyPosts code d b).1

/-- An offered command that passes the examination is carried out by its owning rule. -/
theorem onCommand_taken {s : State} {w : Word} {codes : Nat → Bool} {owning : State → State} (h : s.Offered w)
    (hc : codes (commandCode w) = true) (hu : unknownCode (commandCode w) = false)
    (hl : s.ctl.partState = .unloaded → takenUnloaded (commandCode w) = true) :
    onCommand codes owning s = owning (takeCommand w (setCommandCause false (popHanded s))) := by
  rw [onCommand_offered h hc]
  unfold examine
  have hp : (takeCommand w (setCommandCause false (popHanded s))).ctl.partState = s.ctl.partState := by
    rw [(takeCommand_onlyPosts w s).eq]; rfl
  rw [hp]
  simp only [hu]
  by_cases h' : s.ctl.partState = .unloaded
  · simp [h', hl h']
  · simp [h']

/-- A taken command reads the latches as they stood when it arrived. -/
theorem takeCommand_param (w : Word) (s : State) (n : Fin 6) :
    (takeCommand w (setCommandCause false (popHanded s))).param n = s.ctl.latches[n] := by
  unfold State.param
  rw [(takeCommand_onlyPosts w s).eq]; rfl

/-- The start and the end of a command, with nothing but posting between, are the command ended. -/
theorem runEnded_begun (s : State) (w : Word) (code : Option ResultCode) (d : Nat) :
    (s.begun w).runEnded code d = s.ended w code d := rfl

end Sys2Proof.Machine
end

