-- ==== Sys2Proof/Laws/Ram.lean ====
section
/-! SUPPORT. The RAM: reads after writes, and the canonical form that every RAM operation keeps. -/

namespace Sys2Proof.Machine

open Sys2Proof

/-! ### The list of cells -/

/-- Rising, told from the head: every later address is above the first. -/
theorem risingCells_cons (c : Nat × RamWord) (l : List (Nat × RamWord)) :
    risingCells (c :: l) = true ↔ (∀ d ∈ l, c.1 < d.1) ∧ risingCells l = true := by
  induction l generalizing c with
  | nil => simp [risingCells]
  | cons d l ih =>
    obtain ⟨a, v⟩ := c
    obtain ⟨b, w⟩ := d
    have hd := ih (b, w)
    simp only [risingCells, Bool.and_eq_true, decide_eq_true_eq, List.mem_cons, forall_eq_or_imp, hd]
    constructor
    · rintro ⟨h1, h2, h3⟩
      exact ⟨⟨h1, fun x hx => lt_trans h1 (h2 x hx)⟩, h2, h3⟩
    · rintro ⟨⟨h1, _⟩, h2, h3⟩
      exact ⟨h1, h2, h3⟩

theorem mem_cellsPut {a : Nat} {v : RamWord} {l : List (Nat × RamWord)} {x : Nat × RamWord}
    (h : x ∈ cellsPut l a v) : x = (a, v) ∨ x ∈ l := by
  induction l with
  | nil => simpa [cellsPut] using h
  | cons c l ih =>
    obtain ⟨b, w⟩ := c
    simp only [cellsPut] at h
    split at h
    · simpa using h
    · split at h
      · simp only [List.mem_cons] at h ⊢; tauto
      · simp only [List.mem_cons] at h ⊢
        rcases h with h | h
        · exact .inr (.inl h)
        · rcases ih h with h | h <;> tauto

theorem mem_cellsDrop {a : Nat} {l : List (Nat × RamWord)} {x : Nat × RamWord} (h : x ∈ cellsDrop l a) : x ∈ l := by
  induction l with
  | nil => simp [cellsDrop] at h
  | cons c l ih =>
    obtain ⟨b, w⟩ := c
    simp only [cellsDrop] at h
    split at h
    · exact List.mem_cons_of_mem _ h
    · rcases List.mem_cons.mp h with h | h
      · simp [h]
      · exact List.mem_cons_of_mem _ (ih h)

theorem risingCells_put (l : List (Nat × RamWord)) (a : Nat) (v : RamWord) (h : risingCells l = true) :
    risingCells (cellsPut l a v) = true := by
  induction l with
  | nil => rfl
  | cons c l ih =>
    obtain ⟨b, w⟩ := c
    have hc := (risingCells_cons (b, w) l).mp h
    simp only [cellsPut]
    split
    · rename_i hab
      refine (risingCells_cons _ _).mpr ⟨?_, h⟩
      intro d hd
      rcases List.mem_cons.mp hd with rfl | hd
      · exact hab
      · exact lt_trans hab (hc.1 d hd)
    · split
      · rename_i hab
        exact (risingCells_cons _ _).mpr ⟨fun d hd => hab ▸ hc.1 d hd, hc.2⟩
      · rename_i h1 h2
        refine (risingCells_cons _ _).mpr ⟨?_, ih hc.2⟩
        intro d hd
        rcases mem_cellsPut hd with rfl | hd
        · simp only; omega
        · exact hc.1 d hd

theorem risingCells_drop (l : List (Nat × RamWord)) (a : Nat) (h : risingCells l = true) :
    risingCells (cellsDrop l a) = true := by
  induction l with
  | nil => rfl
  | cons c l ih =>
    obtain ⟨b, w⟩ := c
    have hc := (risingCells_cons (b, w) l).mp h
    simp only [cellsDrop]
    split
    · exact hc.2
    · exact (risingCells_cons _ _).mpr ⟨fun d hd => hc.1 d (mem_cellsDrop hd), ih hc.2⟩

theorem cellsGet_put_same (l : List (Nat × RamWord)) (a : Nat) (v : RamWord) : cellsGet (cellsPut l a v) a = some v := by
  induction l with
  | nil => simp [cellsPut, cellsGet]
  | cons c l ih =>
    obtain ⟨b, w⟩ := c
    simp only [cellsPut]
    split
    · simp [cellsGet]
    · split
      · simp [cellsGet]
      · rename_i h2
        have h3 : b ≠ a := fun h => h2 h.symm
        simp [cellsGet, h3, ih]

theorem cellsGet_put_other (l : List (Nat × RamWord)) (a b : Nat) (v : RamWord) (h : b ≠ a) :
    cellsGet (cellsPut l a v) b = cellsGet l b := by
  induction l with
  | nil => simp [cellsPut, cellsGet, h.symm]
  | cons c l ih =>
    obtain ⟨d, w⟩ := c
    simp only [cellsPut]
    split
    · simp [cellsGet, h.symm]
    · split
      · rename_i hd
        simp [cellsGet, h.symm, ← hd]
      · simp [cellsGet, ih]

theorem cellsGet_none {l : List (Nat × RamWord)} {a : Nat} (h : ∀ d ∈ l, a < d.1) : cellsGet l a = none := by
  induction l with
  | nil => rfl
  | cons c l ih =>
    obtain ⟨b, w⟩ := c
    have hb : a < b := h (b, w) (by simp)
    simp only [cellsGet, show b ≠ a by omega, if_false]
    exact ih (fun d hd => h d (List.mem_cons_of_mem _ hd))

theorem cellsGet_drop_same {l : List (Nat × RamWord)} {a : Nat} (h : risingCells l = true) :
    cellsGet (cellsDrop l a) a = none := by
  induction l with
  | nil => rfl
  | cons c l ih =>
    obtain ⟨b, w⟩ := c
    have hc := (risingCells_cons (b, w) l).mp h
    simp only [cellsDrop]
    split
    · rename_i hb
      exact cellsGet_none (fun d hd => hb ▸ hc.1 d hd)
    · rename_i hb
      simp [cellsGet, hb, ih hc.2]

theorem cellsGet_drop_other (l : List (Nat × RamWord)) (a b : Nat) (h : b ≠ a) :
    cellsGet (cellsDrop l a) b = cellsGet l b := by
  induction l with
  | nil => rfl
  | cons c l ih =>
    obtain ⟨d, w⟩ := c
    simp only [cellsDrop]
    split
    · rename_i hd
      simp [cellsGet, hd, h.symm]
    · simp [cellsGet, ih]

theorem ne_of_mem_drop {l : List (Nat × RamWord)} {a : Nat} (h : risingCells l = true) {x : Nat × RamWord}
    (hx : x ∈ cellsDrop l a) : x.1 ≠ a := by
  induction l with
  | nil => simp [cellsDrop] at hx
  | cons c l ih =>
    obtain ⟨b, w⟩ := c
    have hc := (risingCells_cons (b, w) l).mp h
    simp only [cellsDrop] at hx
    split at hx
    · rename_i hb
      have : b < x.1 := hc.1 x hx
      omega
    · rename_i hb
      rcases List.mem_cons.mp hx with rfl | hx
      · exact hb
      · exact ih hc.2 hx

/-! ### Reads after writes -/

/-- A read of the address just written gives what was written. -/
theorem Ram.read_put_same (r : Ram) (a : Nat) (v : RamWord) (h : r.wf = true) : (r.put a v).read a = v := by
  have hr : risingCells r.cells = true := by simp only [Ram.wf, Bool.and_eq_true] at h; exact h.1
  unfold Ram.put Ram.read
  split
  · rename_i hc
    simp only [cellsGet_drop_same hr, Option.getD_none, Ram.unlisted, Ram.cleared] at hc ⊢
    simp [hc.1, hc.2]
  · simp [cellsGet_put_same]

/-- A read of any other address gives what it gave. -/
theorem Ram.read_put_other (r : Ram) (a b : Nat) (v : RamWord) (h : b ≠ a) : (r.put a v).read b = r.read b := by
  unfold Ram.put Ram.read
  split
  · simp only [cellsGet_drop_other _ _ _ h]; rfl
  · simp only [cellsGet_put_other _ _ _ _ h]; rfl

/-- A word written with fresh parity reads so. -/
theorem Ram.read_write_same (r : Ram) (a : Nat) (w : Word) (h : r.wf = true) : (r.write a w).read a = freshWord w :=
  Ram.read_put_same r a _ h

/-- A write leaves every other address alone. -/
theorem Ram.read_write_other (r : Ram) (a b : Nat) (w : Word) (h : b ≠ a) : (r.write a w).read b = r.read b :=
  Ram.read_put_other r a b _ h

/-! ### The canonical form -/

theorem Ram.wf_put (r : Ram) (a : Nat) (v : RamWord) (h : r.wf = true) : (r.put a v).wf = true := by
  simp only [Ram.wf, Bool.and_eq_true, List.all_eq_true] at h
  unfold Ram.put
  split
  · simp only [Ram.wf, Bool.and_eq_true, List.all_eq_true]
    exact ⟨risingCells_drop _ _ h.1, fun x hx => h.2 x (mem_cellsDrop hx)⟩
  · rename_i hc
    simp only [Ram.wf, Bool.and_eq_true, List.all_eq_true]
    refine ⟨risingCells_put _ _ _ h.1, fun x hx => ?_⟩
    rcases mem_cellsPut hx with rfl | hx
    · have hk : r.cleared a = false ∨ v ≠ freshWord 0 := by
        by_cases h1 : r.cleared a = true
        · exact .inr (fun h2 => hc ⟨h1, h2⟩)
        · exact .inl (by simpa using h1)
      show (!(r.cleared a && decide (v = freshWord 0))) = true
      rcases hk with hk | hk
      · rw [hk]; rfl
      · rw [decide_eq_false hk, Bool.and_false]; rfl
    · exact h.2 x hx

/-- A write keeps the canonical form. -/
theorem Ram.wf_write (r : Ram) (a : Nat) (w : Word) (h : r.wf = true) : (r.write a w).wf = true :=
  Ram.wf_put r a _ h

/-- A clearing write keeps the canonical form. -/
theorem Ram.wf_clearNext (r : Ram) (h : r.wf = true) : r.clearNext.wf = true := by
  simp only [Ram.wf, Bool.and_eq_true, List.all_eq_true] at h
  simp only [Ram.wf, Ram.clearNext, Bool.and_eq_true, List.all_eq_true]
  refine ⟨risingCells_drop _ _ h.1, fun x hx => ?_⟩
  have hne := ne_of_mem_drop h.1 hx
  have hold := h.2 x (mem_cellsDrop hx)
  simp only [Ram.cleared, Bool.not_eq_true', Bool.and_eq_false_iff, decide_eq_false_iff_not] at hold ⊢
  rcases hold with hold | hold
  · left; omega
  · right; exact hold

/-- The loss of the contents leaves the canonical form. -/
theorem Ram.wf_lose (r : Ram) (f : Nat) : (r.lose f).wf = true := rfl

/-- The RAM at reset has the canonical form. -/
theorem reset_ram_wf : State.reset.mem.ram.wf = true := rfl

/-- A clearing write clears its own word. -/
theorem Ram.cleared_clearNext_same (r : Ram) : r.clearNext.cleared (r.clearedFrom + r.clearedCount) = true := by
  simp [Ram.cleared, Ram.clearNext]

/-- A clearing write clears no other word. -/
theorem Ram.cleared_clearNext_other (r : Ram) (b : Nat) (h : b ≠ r.clearedFrom + r.clearedCount) :
    r.clearNext.cleared b = r.cleared b := by
  show decide (r.clearedFrom ≤ b ∧ b < r.clearedFrom + (r.clearedCount + 1)) =
    decide (r.clearedFrom ≤ b ∧ b < r.clearedFrom + r.clearedCount)
  rw [decide_eq_decide]
  omega

/-- A clearing write makes its word 0000H with good parity, and leaves every other address alone. -/
theorem Ram.read_clearNext (r : Ram) (b : Nat) (h : r.wf = true) :
    r.clearNext.read b = if b = r.clearedFrom + r.clearedCount then freshWord 0 else r.read b := by
  have hr : risingCells r.cells = true := by simp only [Ram.wf, Bool.and_eq_true] at h; exact h.1
  have hcells : r.clearNext.cells = cellsDrop r.cells (r.clearedFrom + r.clearedCount) := rfl
  have hera : r.clearNext.era = r.era := rfl
  by_cases hb : b = r.clearedFrom + r.clearedCount
  · rw [if_pos hb, hb]
    unfold Ram.read Ram.unlisted
    rw [hcells, cellsGet_drop_same hr, Ram.cleared_clearNext_same]
    rfl
  · rw [if_neg hb]
    unfold Ram.read Ram.unlisted
    rw [hcells, cellsGet_drop_other _ _ _ hb, Ram.cleared_clearNext_other r b hb, hera]

end Sys2Proof.Machine
end

