-- ==== Sys2Proof/Tests/Slice0.lean ====
section
/-! SUPPORT. Tests on small states, with expected results from the spec's own figures and tables, and one witness for
the hypotheses of each statement. -/

namespace Sys2Proof.Tests

open Sys2Proof Sys2Proof.Machine

/-! ### Small states -/

/-- The reset state with nothing waiting to be written. -/
def calm : State :=
  { State.reset with
    mem := { State.reset.mem with port := none }
    ctl := { State.reset.ctl with writeBack := ⟨none, []⟩ } }

/-- A state with some handed writes. -/
def handing (hs : List Handed) (s : State) : State := { s with handed := hs }

/-- A state with parameter latches. -/
def latched (ws : List Nat) (s : State) : State :=
  { s with ctl := { s.ctl with latches := Vector.ofFn (fun i => BitVec.ofNat 16 (ws.getD i.val 0)) } }

/-- A command word with sequence 5. -/
def word (code : Nat) : Word := BitVec.ofNat 16 (1024 * code + 5)

/-- A state in which a command word stands at the head of the handed writes. -/
def offer (code : Nat) (ws : List Nat) (s : State) : State := handing [.control 0 (word code)] (latched ws s)

/-- A state in which the port is busy with a cycle. -/
def porting (p : PortCycle) (s : State) : State := { s with mem := { s.mem with port := some p } }

/-- A state at a reading of the time base. -/
def atTime (t : Nat) (s : State) : State := { s with ctl := { s.ctl with timeBase := BitVec.ofNat 32 t } }

/-- The instrument of para 3.10 and para 5.7: TOVA in eighths, last 43 4/8, close 43 3/8. -/
def tova : Instrument :=
  { symbol := [0x54, 0x4F, 0x56, 0x41], recordAddr := 0x10000, base := .eighths, band := 320, holdTimeout := 20
    close := some 347, last := some 350, high := none, low := none, lastSize := 0, volume := 0, tick := .none
    bid := some 349, ask := some 351, halted := false, fast := false, offIncrement := false, lastSeq := 41
    slot1 := some 2, slot2 := none, eligible := true, watchers := [4], hold := none, lastPrintedWhole := none
    full := false, fetchOnCommit := false }

/-- A running part with the instruments of a list, on links and lines as they stand after a reset. -/
def running (rs : List Instrument) : State :=
  { calm with
    ctl := { calm.ctl with partState := .running }
    tbl := buildTable rs }

/-- A line of class 2 at 9600, ACTIVE. -/
def activeLine : Line := { Line.off with state := .active, rate := .b9600, cls := 2 }

/-- A state with line 4 as given. -/
def lining (l : Line) (s : State) : State := { s with lines := s.lines.set 4 l }

/-- A state with link 0 as given. -/
def linking (l : Link) (s : State) : State := { s with links := s.links.set 0 l }

/-- A running quiet link whose position 0 is an ACTIVE home and position 1 an IDLE spare, both blank and dark. -/
def quietLink0 : Link :=
  { Link.cleared with
    running := true
    chainLength := 2
    spareCount := 1
    wire := .quiet
    positions :=
      (Link.cleared.positions.set 0
        { Position.cleared with
          kind := .home, state := .active, shownImage := some Image.blank, shownSetting := some ⟨4, 0⟩ }).set 1
        { Position.cleared with
          kind := .spare, state := .idle, shownImage := some Image.blank, shownSetting := some ⟨0, 0⟩ } }

/-- The next state of a command; the state itself where it answers none. -/
def after (c : Instr) (s : State) : State :=
  match exec c s with
  | .next t => t
  | _ => s

/-! ### Well-formed commands -/

theorem test_wf_instrument_512_refused : Instr.wellFormed (.staleStaging 512) = false := by decide
theorem test_wf_hold_512_refused : Instr.wellFormed (.holdExpired 512) = false := by decide
theorem test_wf_instrument_511 : Instr.wellFormed (.staleStaging 511) = true := by decide
theorem test_wf_mark_refused : Instr.wellFormed (.characterReceived 4 ⟨0x7E, false⟩) = false := by decide
theorem test_wf_broken_mark : Instr.wellFormed (.characterReceived 4 ⟨0x7E, true⟩) = true := by decide

/-! ### The queue of commands -/

theorem test_step_idles : step calm = .next calm := rfl
theorem test_no_word_spells_a_command : decodeTableWord 16 0xFFFF = none := rfl
theorem test_fetch_word_changes_nothing : calm.withFetchWord 16 7 = calm := rfl

/-! ### Arithmetic: para 5.7 and the tables of chapter 5 -/

/-- 11,230 units are 43 7/8 in quarters, eighths and sixteenths by rounding (R85). -/
theorem test_quantize_11230 :
    (quantize .quarters 11230, quantize .eighths 11230, quantize .sixteenths 11230) = (175, 351, 702) := by decide

/-- Halfway goes up (R85). -/
theorem test_quantize_half_up : quantize .eighths 16 = 1 ∧ quantize .eighths 15 = 0 := by decide

/-- The largest results of R85's table. -/
theorem test_quantize_largest :
    (quantize .quarters 4294967295, quantize .eighths 4294967295, quantize .sixteenths 4294967295) =
      (67108864, 134217728, 268435456) := by decide

/-- 12/16 shows as 3/4, 14/16 as 7/8, 6/8 as 3/4 (R86). -/
theorem test_lowest_terms :
    (displayForm .sixteenths 12).frac = some ⟨3, 4⟩ ∧ (displayForm .sixteenths 14).frac = some ⟨7, 8⟩ ∧
      (displayForm .eighths 6).frac = some ⟨3, 4⟩ ∧ (displayForm .quarters 4).frac = none := by decide

/-- A price clamps to 9999 and the largest fraction of its base (R88). -/
theorem test_clamp : boardPrice .eighths 80000 = (⟨9999, some ⟨7, 8⟩⟩, true) := by decide

/-- The volume saturates (R91). -/
theorem test_volume_saturates : (takeTrade 351 5 false { tova with volume := 4294967292 }).volume = 4294967295 := by
  decide

/-- The tick table (R90). -/
theorem test_ticks :
    (tickAfter (some 350) .none 351, tickAfter (some 350) .up 349, tickAfter (some 350) .up 350,
      tickAfter (some 350) .zeroDown 350, tickAfter (some 350) .none 350, tickAfter none .up 350) =
      (.up, .down, .zeroUp, .zeroDown, .none, .none) := by decide

/-! ### Words of chapter 10 -/

/-- Commit code 1 is TRADE and code 12 FAST-ON, TRADE, QUOTE (R184). -/
theorem test_commit_flags :
    commitFlags 0x102A = ⟨true, false, false, false, false, false⟩ ∧
      commitFlags 0xC001 = ⟨true, true, false, false, true, false⟩ ∧ commitSeq 0x102A = 42 := by decide

/-- The first word of a MEMORY PARITY record that follows an overflow: bit 15, subject type 1, kind 3 (para 10.3). -/
theorem test_fault_word : (faultWords .memoryParity true 7 (.address 0x12345) [1, 2, 3]).take 5 =
    [0x8103, 0x0000, 0x0007, 0x0001, 0x2345] := by decide

/-- P_eff and the retreat level of a limit word of 900 (R139). -/
theorem test_limits :
    (effectiveLimit 900 false false, effectiveLimit 900 true false, effectiveLimit 900 false true,
      effectiveLimit 900 true true, retreatLevel 14400) = (14400, 10800, 7200, 5400, 12600) := by decide

/-! ### Frames of the lines: para 9.8 and R186 -/

/-- A W frame for TOVA has check 0B. -/
theorem test_watch_check : frameChars 0x57 tova.symbol =
    [0x7E, 0x57, 0x30, 0x34, 0x54, 0x4F, 0x56, 0x41, 0x30, 0x42] := by decide

/-- An acknowledgement of message 0 is a K frame of two characters. -/
theorem test_ack_frame : (buildEntry calm (.ack 0)).take 6 = [0x7E, 0x4B, 0x30, 0x32, 0x30, 0x30] := by decide

/-- The price text 43q3 of 43 3/4 (R179). -/
theorem test_price_text : priceText (displayForm .eighths 350) = [0x34, 0x33, 0x71, 0x33] := by decide

/-! ### The ticker: R149, R151, R152 -/

/-- A take moves the mode by one step at most (R149). -/
theorem test_modes :
    (modeAfter ⟨.normal, 30, 90, 0⟩ .punctual 90000, modeAfter ⟨.normal, 30, 90, 0⟩ .late 14999,
      modeAfter ⟨.normal, 30, 90, 0⟩ .late 90000, modeAfter ⟨.normal, 30, 90, 0⟩ .deleted 44999) =
      (.late, .punctual, .deleted, .late) := by decide

/-- The print of 5 TOVA at 43 7/8 reads TOVA 5@43 7e (para 8.9). -/
theorem test_print_text : printText .punctual 500 tova.symbol none false ⟨0, 351, .eighths, 5, 0⟩ =
    [0x54, 0x4F, 0x56, 0x41, 0x20, 0x35, 0x40, 0x34, 0x33, 0x20, 0x37, 0x65] := by decide

/-! ### One step of the commands -/

/-- A read of the first word waits, and goes to the free port at once (R2, R16). -/
theorem test_host_cycle :
    (after (.hostCycle ⟨0, false, true, true, true, 0, true, true⟩) calm).mem.port =
      some (.host ⟨0, false, true, true, 0⟩ false) := by decide

/-- A write to the part-owned region ends with BERR (R8). -/
theorem test_owned_write :
    (after (.hostCycle ⟨0x1F020, true, true, true, true, 0, true, true⟩) calm).mem.bus = some ⟨.berr, none⟩ := by
  decide

/-- A write to a parameter word is stored and handed over (R6, R7). -/
theorem test_host_write :
    (after .hostWriteServed (porting (.host ⟨0x1F001, true, true, true, 9⟩ false) calm)).handed =
      [.control 1 9] := by decide

/-- The eighth refresh request is the last that counts (R14). -/
theorem test_refresh_request :
    (after .refreshRequest
      { calm with mem := { calm.mem with port := some .refresh, refresh := ⟨true, .normal, 8, 0⟩ } }).mem.refresh.postponed
      = 8 := by decide

/-- The command ends and waits to be published (R11, R26). -/
theorem test_lock_guards :
    (after .lockGuards (offer 14 [] calm)).mem.guardLock = true ∧
      (after .lockGuards (offer 14 [] calm)).ctl.command.state = .done := by decide

/-- LOCKED is decided before the parameters (R10). -/
theorem test_set_guard_locked :
    (after .setGuard { offer 13 [9] calm with mem := { calm.mem with guardLock := true } }).ctl.command.result =
      some .locked := by decide

/-- CLEAR CAUSES with bit 3 set is refused (R38). -/
theorem test_clear_causes :
    (after .clearCauses (offer 16 [1] calm)).ctl.causes.power = false ∧
      (after .clearCauses (offer 16 [9] calm)).ctl.causes.power = true := by decide

/-- CLOSE is not taken in UNLOADED (R25). -/
theorem test_close_not_loaded : (after .close (offer 2 [] calm)).ctl.command.result = some .notLoaded := by decide

/-- A command code of 17 is unknown (para 10.1). -/
theorem test_unknown : (after .unknownCommand (offer 17 [] calm)).ctl.command.result = some .unknown := by decide

set_option maxRecDepth 20000 in
/-- A directory address above 20 bits is refused and the part is UNLOADED (R53). -/
theorem test_load_refused :
    (after .load (offer 1 [16] (running [tova]))).ctl.command.result = some .badParameter ∧
      (after .load (offer 1 [16] (running [tova]))).ctl.partState = .unloaded := by decide

set_option maxRecDepth 20000 in
/-- A held trade within its parameters is taken by CONFIRM (R98). -/
theorem test_confirm :
    ((after .confirm (offer 3 [0] (running [{ tova with hold := some ⟨363, 3, 0, true, 20000⟩ }]))).instrument? 0).map
      (fun r => (r.last, r.tick, r.lastSize, r.hold)) = some (some 363, .up, 3, none) := by decide

/-- A hold that is not there cannot be withdrawn (R99). -/
theorem test_withdraw : (after .withdraw (offer 4 [0] (running [tova]))).ctl.command.result = some .noHold := by
  decide

set_option maxRecDepth 20000 in
/-- Para 4.7.1: a commit of a whole trade of 5 at 43 13/16 is applied at once (R71, R82). -/
theorem test_commit :
    ((after .commitWrite
      (handing [.capture 0 7 0x102A]
        { running [tova] with
          cap :=
            { CaptureUnit.empty with
              active := true
              staging :=
                [⟨0, 0, #v[some 0, some 11216, some 5, none, none, none, none]⟩] } })).instrument? 0).map
      (fun r => (r.last, r.tick, r.volume, r.offIncrement)) = some (some 351, .up, 5, true) := by decide

/-- A running part in which link 0's module 0 shows TOVA, with a flash time of 3 s, line 4 is ACTIVE and watches it, and a
commit word of sequence 42 waits over a whole staged trade of 5 at 43 13/16. -/
def noticing (code : Nat) (r : Instrument) : State :=
  handing [.capture 0 7 (BitVec.ofNat 16 (4096 * code + 42))]
    { lining { activeLine with watch := [0] } (linking quietLink0 (running [{ r with slot1 := some 0 }])) with
      flashTime := 3
      cap :=
        { CaptureUnit.empty with
          active := true
          staging := [⟨0, 0, #v[some 0, some 11216, some 5, none, none, none, none]⟩] } }

set_option maxRecDepth 20000 in
/-- An applied trade makes its print, queues its quote and starts the flash timer of its module (R84, R123, R145, R177). -/
theorem test_trade_noticed :
    let t := after .commitWrite (noticing 1 tova)
    t.tape.queue = [⟨0, 351, .eighths, 5, 0⟩] ∧ t.lines[4].out = [.quote 0] ∧
      t.links[0].modules[0].flash = some 0 := by decide

set_option maxRecDepth 20000 in
/-- A commit of TRADE and HALT with a hold standing posts HOLD CANCELLED and then TRADE WHILE HALTED (R80, R82, R97). -/
theorem test_halt_and_trade :
    let t := after .commitWrite (noticing 5 { tova with hold := some ⟨363, 3, 0, true, 20000⟩ })
    t.ctl.writeBack.entries.take 2 =
      [.faultRecord 0 (faultWords .holdCancelled false 0 (.instrument 0) [363, 3, 0]),
        .faultRecord 1 (faultWords .tradeWhileHalted false 0 (.instrument 0) [11216, 5, 42])] := by decide

/-- Para 10.6: the bytes of a POLL and of a SET to position 3, and of the broadcast blank's SET. -/
theorem test_frame_bytes :
    LinkFrame.bytes (.poll 3) = [0x63, 0x9D] ∧ LinkFrame.bytes (.set 3 ⟨4, 0x01F⟩) = [0x43, 0x04, 0x00, 0x1F, 0x9A] ∧
      LinkFrame.blankSet.bytes = [0x5F, 0x00, 0x00, 0x00, 0xA1] := by decide

/-- A field word opens a slot (R67). -/
theorem test_field_write :
    (after .fieldWrite (handing [.capture 0 2 5] (running [tova]))).cap.staging =
      [⟨0, 0, #v[none, none, some 5, none, none, none, none]⟩] := by decide

/-- HOLD is remembered (R157). -/
theorem test_tape_hold : (after .tapeHold (offer 10 [] (running []))).tape.hold = true := by decide

/-- The 480th step of a blank-out leaves none (R159). -/
theorem test_ribbon_step :
    (after .ribbonStep { calm with tape := { TickerUnit.reset with condition := .blanking 1 } }).tape.condition =
      .blanking 0 := by decide

/-- Rate 9600 and class 2 make a line ACTIVE (R164). -/
theorem test_set_line :
    ((after .setLine (offer 12 [4, 4, 2, 10] (running []))).lines[4].state,
      (after .setLine (offer 12 [4, 4, 2, 10] (running []))).lines[4].doze) = (.active, 30) := by decide

/-- A mark begins an assembly, and the next one cuts it (R166, R167). -/
theorem test_marks :
    (after (.markReceived 4) (lining activeLine calm)).lines[4].assembler = .assembling [] 0 ∧
      (after (.markReceived 4) (lining { activeLine with assembler := .assembling [] 0 } calm)).lines[4].badRun = 1 := by
  decide

/-- A good W frame joins the watch list and queues its quote (R171). -/
theorem test_watch :
    let s := lining { activeLine with assembler := .assembling [0x57, 0x30, 0x34, 0x54, 0x4F, 0x56, 0x41, 0x30] 0 }
      (running [tova])
    (after (.watchRequest 4) s).lines[4].watch = [0] ∧ (after (.watchRequest 4) s).lines[4].out = [.quote 0] := by
  decide

/-- A quote frame begins with its mark, kind Q and length: 9 characters before the prices, then 43q3, a comma, +0e3 and
so on make 28, 1CH (R178, R179). -/
theorem test_line_service :
    (after .lineService (lining { activeLine with out := [.quote 0] } (running [tova]))).lines[4].transmitter.take 9 =
      [0x7E, 0x51, 0x31, 0x43, 0x54, 0x4F, 0x56, 0x41, 0x20] := by decide

set_option maxRecDepth 20000 in
/-- The third missed reply makes a position ABSENT and its module moves to the spare (R110, R116). -/
theorem test_third_miss :
    let l :=
      { quietLink0 with
        wire := .awaiting (.poll 0) 0
        positions := quietLink0.positions.set 0 { quietLink0.positions[0] with missed := 2 } }
    let t := after (.replyTimeout 0) (linking l (atTime 4 calm))
    t.links[0].positions[0].state = .absent ∧ t.links[0].modules[0].target = some 1 := by decide

set_option maxRecDepth 20000 in
/-- A first trip posts the module table word with its count, and then MODULE TRIP under the LINK policy from ACTIVE (R127). -/
theorem test_trip_posts :
    let l := { quietLink0 with wire := .awaiting (.poll 0) 0, policy := .link }
    let t := after (.reply 0 0 1 0xFF) (linking l calm)
    t.ctl.writeBack.entries.take 2 =
      [.table (.moduleWord 0 0) [0x0025],
        .faultRecord 0 (faultWords .moduleTrip false 0 (.physicalPosition 0) [1, 1, 1, 0])] := by decide

/-- A taken HOT latches (R134). -/
theorem test_hot :
    (after (.filterTaken .hot)
      (atTime 20 { calm with drive := { DriveUnit.reset with hot := ⟨true, false, some 0⟩ } })).drive.hotLatch =
      true := by decide

/-- The G body of a record without extremes (R180): the symbol, two empty fields, the close 43 3/8, the volume and the
last size, with four commas and none after the symbol. -/
theorem test_page_body : pageBody { tova with volume := 100000000, lastSize := 5 } =
    [0x54, 0x4F, 0x56, 0x41, 0x20, 0x2C, 0x2C, 0x34, 0x33, 0x65, 0x33, 0x2C, 0x39, 0x39, 0x39, 0x39, 0x39, 0x39, 0x39,
      0x39, 0x2B, 0x2C, 0x35] := by decide

/-! ### Witnesses: concrete states that meet the hypotheses of each statement, clause by clause

Each theorem is named after its obligation. The statements without hypotheses (ResetValues, CommitFlagTable,
QuantizeNearest, InvariantsAtReset) need none. -/

/-- A host read of the last existing word, a write with one strobe to word 0, and a write with neither. Lanes with even
and with odd parity, a trap whose mask leaves bits free, and addresses at the bounds of a window and of the owned
region. -/
theorem witness_HostCycleAdmitted :
    calm.mem.waiting = none ∧ calm.hostShut = false ∧
    addressGood ⟨0x1FFFF, false, false, true, true, 0, true, true⟩ = true ∧
    (0x1FFFF : Addr).toNat < calm.mem.installed.words ∧
    addressGood ⟨0, true, false, true, false, 7, true, false⟩ = true ∧
    failedLanes ⟨0, true, false, true, false, 7, true, false⟩ = 0 ∧ calm.mem.trap.fires 0 = false ∧
    calm.ownedAddress 0 = false ∧ (∀ n : Fin 4, calm.mem.guards[n].covers 0 = false) ∧
    failedLanes ⟨0, true, false, false, false, 7, false, false⟩ = 0 ∧
    failedLanes ⟨0, true, false, true, true, 0x0103, true, false⟩ = 3 ∧
    (Trap.mk 0x100 0xFFF00 true).fires 0x1FF = true ∧ (Trap.mk 0x100 0xFFF00 true).fires 0x200 = false ∧
    (GuardWindow.mk 0x100 0x1FF .refuse).covers 0x1FF = true ∧ (GuardWindow.mk 0x100 0x1FF .refuse).covers 0x200 = false ∧
    calm.ownedAddress 0x1F77F = true ∧ calm.ownedAddress 0x1F780 = false := by decide

/-- Cycles that fail each check in turn, at the first and last words of the owned region, the first beyond memory, and
the bounds of a window, and a part that shuts the host out. -/
theorem witness_HostCycleRefused :
    let guarded (m : GuardMode) : State :=
      { calm with mem := { calm.mem with guards := (calm.mem.guards.set 1 ⟨0x100, 0x1FF, m⟩).set 2 ⟨0, 0xFFFFF, .drop⟩ } }
    let trapped : State := { calm with mem := { calm.mem with trap := ⟨0x100, 0xFFFFF, true⟩ } }
    let write (a : Addr) : BusCycle := ⟨a, true, !(oddOnes a ^^ true), true, true, 0, true, true⟩
    calm.LogRoom ∧ calm.mem.waiting = none ∧
    { calm with rst := { calm.rst with inReset := true, inputHeld := true } }.hostShut = true ∧
    addressGood ⟨0, false, false, true, true, 0, true, true⟩ = false ∧
    (addressGood ⟨0x20000, false, false, true, true, 0, true, true⟩ = true ∧
      calm.mem.installed.words ≤ (0x20000 : Addr).toNat) ∧
    (addressGood (write 0x100) = true ∧ (0x100 : Addr).toNat < calm.mem.installed.words) ∧
    failedLanes { write 0x100 with upperParity := false } ≠ 0 ∧
    (failedLanes (write 0x100) = 0 ∧ trapped.LogRoom ∧ trapped.mem.trap.fires 0x100 = true) ∧
    (calm.mem.trap.fires 0x1F020 = false ∧ calm.ownedAddress 0x1F020 = true ∧ calm.ownedAddress 0x1F77F = true ∧
      addressGood (write 0x1F77F) = true) ∧
    (calm.ownedAddress 0x1F01F = false ∧ calm.ownedAddress 0x1F780 = false) ∧
    ((guarded .refuse).mem.guards[1].covers 0x1FF = true ∧ (guarded .refuse).mem.guards[0].covers 0x1FF = false ∧
      (guarded .refuse).mem.guards[1].mode = .refuse ∧ (guarded .refuse).LogRoom) ∧
    ((guarded .drop).mem.guards[1].covers 0x100 = true ∧ (guarded .drop).mem.guards[0].covers 0x100 = false ∧
      (guarded .drop).mem.guards[1].mode = .drop ∧ (guarded .drop).LogRoom) := by
  unfold State.LogRoom; decide

/-- A listed word of good parity, one of bad parity, and a read that a reset cut. -/
theorem witness_HostReadServed :
    let s (v : RamWord) (cut : Bool) : State :=
      porting (.host ⟨0, false, true, true, 0⟩ cut)
        { calm with mem := { calm.mem with ram := { calm.mem.ram with cells := [(0, v)] } } }
    (wordGood ((s ⟨1, true, false⟩ false).mem.ram.read 0) = true) ∧
    (wordGood ((s ⟨1, false, false⟩ false).mem.ram.read 0) = false ∧ (s ⟨1, false, false⟩ false).LogRoom) ∧
    (s ⟨1, true, false⟩ true).mem.port = some (.host ⟨0, false, true, true, 0⟩ true) := by
  unfold State.LogRoom; decide

/-- Writes to the command word, to a word of the Control Area that is not taken, to the last word of a record, to a word
of none, in and out of a reset, over a kept byte of bad parity, and cut. -/
theorem witness_HostWriteServed :
    let c (a : Addr) (upper : Bool) : HostCycle := ⟨a, true, upper, true, 9⟩
    let s (a : Addr) (upper : Bool) (v : RamWord) (cut : Bool) : State :=
      porting (.host (c a upper) cut)
        { running [tova] with mem := { calm.mem with ram := { calm.mem.ram with cells := [(a.toNat, v)] } } }
    (HostCycle.keptBadLanes (c 0x1F000 true) ((s 0x1F000 true ⟨1, false, false⟩ false).mem.ram.read 0x1F000) = 0 ∧
      (s 0x1F000 true ⟨1, false, false⟩ false).rst.inReset = false ∧
      controlOffset calm.mem.installed 0x1F000 = some 0 ∧ controlOffset calm.mem.installed 0x1FFFF = some 0xFFF ∧
      controlOffset calm.mem.installed 0x1EFFF = none) ∧
    ((running [tova]).indexInForce = true ∧ (running [tova]).tbl.recordOf 0x10007 = some (0, 7) ∧
      (running [tova]).tbl.recordOf 0x10000 = some (0, 0) ∧ (running [tova]).tbl.recordOf 0x10008 = none ∧
      calm.indexInForce = false) ∧
    (HostCycle.keptBadLanes (c 0 false) ((s 0 false ⟨1, false, false⟩ false).mem.ram.read 0) ≠ 0 ∧
      (s 0 false ⟨1, false, false⟩ false).LogRoom) ∧
    (s 0 false ⟨1, false, false⟩ true).mem.port = some (.host (c 0 false) true) ∧
    (s 0 true ⟨1, false, false⟩ false).MemoryCanonical ∧
    { s 0 true ⟨1, false, false⟩ false with rst := { calm.rst with inReset := true } }.rst.inReset = true := by
  unfold State.LogRoom State.MemoryCanonical; decide

/-- A running timer and a refresh cycle on the port. -/
theorem witness_TimersCount :
    calm.mem.refresh.running = true ∧ (porting .refresh calm).mem.port = some .refresh := by decide

/-- Each arm of the arbiter: 8 postponed; a part cycle passed 16 times and one passed 15; the host, refresh, a part
cycle and nothing waiting; the RESET input held; the supply low. -/
theorem witness_ArbiterOrder :
    let p (n : Nat) : PartCycle := ⟨.fetch, 0, none, n⟩
    let s (post : Nat) (w : Option HostCycle) (ps : List PartCycle) : State :=
      { calm with mem := { calm.mem with refresh := ⟨true, .normal, post, 0⟩, waiting := w, parts := ps } }
    let c : HostCycle := ⟨0, false, true, true, 0⟩
    (8 ≤ (s 8 none []).mem.refresh.postponed ∧ (s 8 none []).rst.supplyLow = false ∧ (s 8 none []).mem.port = none) ∧
    ((s 7 (some c) [p 16]).mem.parts = [p 16] ∧ 16 ≤ (p 16).passed ∧ (s 7 (some c) [p 16]).mem.refresh.postponed < 8) ∧
    ((s 7 (some c) [p 15]).mem.waiting = some c ∧ (p 15).passed < 16) ∧
    ((s 7 none [p 15]).mem.waiting = none ∧ 0 < (s 7 none [p 15]).mem.refresh.postponed) ∧
    (s 0 none [p 0]).mem.refresh.postponed = 0 ∧
    ((s 7 (some c) []).mem.parts = [] ∧ (s 7 none []).mem.waiting = none ∧ (s 0 none []).mem.refresh.postponed = 0) ∧
    { s 0 none [p 0] with rst := { calm.rst with inputHeld := true } }.rst.inputHeld = true ∧
    { calm with rst := { calm.rst with supplyLow := true } }.rst.supplyLow = true := by decide

/-- A served refresh cycle touches no memory and answers a next state. -/
theorem witness_OnlyPortWritesMemory :
    touchesMemory .refreshCycle = false ∧ ∃ t, exec .refreshCycle calm = .next t := ⟨rfl, _, rfl⟩

/-- An entry of two words with one written; a table entry, a fault record and an inbox slot at their last words, the
line awaiting and not; a write-back from before a reset. -/
theorem witness_WriteBackServed :
    let p : PartCycle := ⟨.writeBack, 0x1F021, some 0, 0⟩
    let s (e : WbEntry) (n : Nat) (q : List WbEntry) : State :=
      porting (.part p false) { calm with ctl := { calm.ctl with writeBack := ⟨some (e, n), q⟩ } }
    let rec16 : WbEntry := .faultRecord 0 (faultWords .hot false 0 .none [1])
    let box : WbEntry := .inboxSlot 0 4 0 (inboxWords 0 0 4 [0x41])
    (s (.table .partState [0, 0]) 0 []).ctl.writeBack.active = some (.table .partState [0, 0], 0) ∧
    0 + 1 < (WbEntry.table .partState [0, 0]).words.length ∧
    (WbEntry.table .partState [0, 0]).words.length ≤ 1 + 1 ∧ (s (.table .partState [0, 0]) 1 []).mem.parts = [] ∧
    (s (.table .partState [0, 0]) 1 [rec16]).ctl.writeBack.queue = [rec16] ∧
    rec16.words.length ≤ 15 + 1 ∧ box.words.length ≤ 17 + 1 ∧
    (lining { activeLine with awaited := [0] } (s box 17 [])).lines[4].awaited.contains 0 = true ∧
    (porting (.part p true) calm).mem.port = some (.part p true) := by decide

/-- A queue with an entry for the word, and one without; an entry being written, none, and none with a write-back from
before a reset still on the port. -/
theorem witness_TableEntryInPlace :
    let s (a : Option (WbEntry × Nat)) : State := { calm with ctl := { calm.ctl with writeBack := ⟨a, []⟩ } }
    [WbEntry.table .refusal [1], .table .partState [0, 0]] =
      [WbEntry.table .refusal [1]] ++ .table .partState [0, 0] :: [] ∧
    (∀ x, WbEntry.table .partState x ∉ [WbEntry.table .refusal [1]]) ∧
    (∀ x, WbEntry.table .partState x ∉ ([] : List WbEntry)) ∧
    (s (some (.table .refusal [1], 0))).ctl.writeBack.active = some (.table .refusal [1], 0) ∧
    (s none).ctl.writeBack.active = none ∧ (s none).outstanding (· == .writeBack) = false ∧
    (porting (.part ⟨.writeBack, 0, some 0, 0⟩ true) (s none)).outstanding (· == .writeBack) = true :=
  ⟨rfl, by simp, by simp, rfl, rfl, rfl, rfl⟩

/-- A doze expiry, which begins no reset and changes a line table word. -/
theorem witness_TableEntryInPlace_changes :
    let s : State := atTime 30000 (lining { activeLine with doze := 30, dozeTimer := some 0 } calm)
    let c : Instr := .dozeExpiry 4
    exec c s = .next (after c s) ∧ beginsReset c = false ∧
      (after c s).tableWords (.lineWord 4) ≠ s.tableWords (.lineWord 4) :=
  ⟨rfl, rfl, by decide⟩

/-- A full ring with its mark clear and set, and a ring with room and the carry set. -/
theorem witness_FullRingLosesFault :
    let s (next : BitVec 5) (m : Bool) : State := { calm with ctl := { calm.ctl with log := ⟨31, 0, next, m, true⟩ } }
    (s 31 false).rst.inReset = false ∧ (s 31 false).ctl.log.nextSlot + 1 = (s 31 false).ctl.log.readIndex ∧
    (s 31 true).ctl.log.overflowMark = true ∧ (s 31 false).ctl.log.overflowMark = false ∧
    (s 30 true).ctl.log.nextSlot + 1 ≠ (s 30 true).ctl.log.readIndex ∧ (s 30 true).ctl.log.overflowCarry = true := by
  decide

/-- A part with its input released, and one with its supply up. -/
theorem witness_ResetBegins : calm.rst.inputHeld = false ∧ calm.rst.supplyLow = false ∧
    (porting (.host ⟨0, false, true, true, 0⟩ false) calm).mem.port = some (.host ⟨0, false, true, true, 0⟩ false) ∧
    (porting (.part ⟨.fetch, 0, none, 0⟩ false) calm).mem.port = some (.part ⟨.fetch, 0, none, 0⟩ false) ∧
    (porting .refresh calm).mem.port = some .refresh := by decide

/-- A held input with and without a clearing to go on with, a low supply, and clearing writes 1, 1,887 and 1,888. -/
theorem witness_ResetInputsAndClearing :
    let held (due : Bool) : State := { calm with rst := ⟨true, true, false, true, due⟩ }
    let clearing (n : Nat) : State :=
      porting (.part ⟨.regionClear, 0x1F020 + n, some 0, 0⟩ false)
        { calm with
          rst := ⟨true, false, false, true, true⟩
          mem := { calm.mem with ram := ⟨[], 1, 0x1F020, n⟩ } }
    (held false).rst.inputHeld = true ∧ (held false).rst.clearingDue = false ∧ (held true).rst.clearingDue = true ∧
    (held true).outstanding (· == .regionClear) = false ∧
    { calm with rst := { calm.rst with supplyLow := true } }.rst.supplyLow = true ∧
    (clearing 0).mem.ram.clearedCount + 1 < 1888 ∧ (clearing 1886).mem.ram.clearedCount + 1 < 1888 ∧
    1888 ≤ (clearing 1887).mem.ram.clearedCount + 1 ∧ (clearing 0).rst.clearingDue = true ∧
    (clearing 0).mem.parts = [] ∧ (clearing 0).MemoryCanonical := by
  unfold State.MemoryCanonical; decide

/-- A reset with nothing left to do, after an external and after a power-on reset, with and without a write-back from
before it on the port, and with HOT present. -/
theorem witness_ResetEnds :
    let s (power : Bool) : State := { calm with rst := ⟨true, false, false, power, false⟩ }
    (s true).rst.inReset = true ∧ (s true).rst.inputHeld = false ∧ (s true).rst.supplyLow = false ∧
    (s true).rst.clearingDue = false ∧ (s false).rst.powerOrSupply = false ∧
    (s false).outstanding (· == .writeBack) = false ∧
    (porting (.part ⟨.writeBack, 0, some 0, 0⟩ true) (s false)).outstanding (· == .writeBack) = true ∧
    ({ s false with drive := { DriveUnit.reset with hot := ⟨true, true, none⟩ } }.drive.filter .hot).raw = true := by
  decide

/-- A part with its guards locked and a command that is no reset. -/
theorem witness_GuardLockHolds :
    let s : State := { calm with mem := { calm.mem with guardLock := true } }
    beginsReset .timeBaseAdvance = false ∧ s.mem.guardLock = true ∧ ∃ t, exec .timeBaseAdvance s = .next t :=
  ⟨rfl, rfl, _, rfl⟩

/-- The first and last parameter words and the enables word, handed. -/
theorem witness_ControlWordsAndAlert :
    calm.rst.inReset = false ∧
    (handing [.control ((0 : Fin 6).val + 1) 9] calm).handed = [.control ((0 : Fin 6).val + 1) 9] ∧
    (handing [.control ((5 : Fin 6).val + 1) 9] calm).handed = [.control ((5 : Fin 6).val + 1) 9] ∧
    (handing [.control 0x12 7] calm).handed = [.control 0x12 7] := by decide

/-- Two unread records: indexes that free none and both, one too many, and one out of range, for both rings. -/
theorem witness_ReadIndexesTaken :
    let write : BitVec 5 := 1
    let read : BitVec 5 := 31
    let write' : BitVec 6 := 1
    let read' : BitVec 6 := 63
    (BitVec.ofNat 5 31 - read).toNat ≤ (write - read).toNat ∧ (BitVec.ofNat 5 1 - read).toNat ≤ (write - read).toNat ∧
    (write - read).toNat < (BitVec.ofNat 5 2 - read).toNat ∧ 31 < (32 : Word).toNat ∧
    (BitVec.ofNat 6 63 - read').toNat ≤ (write' - read').toNat ∧
    (write' - read').toNat < (BitVec.ofNat 6 2 - read').toNat ∧ 63 < (64 : Word).toNat ∧
    (handing [.control 0x10 1] calm).handed = [.control 0x10 1] ∧
    (handing [.control 0x11 1] calm).handed = [.control 0x11 1] ∧ calm.rst.inReset = false := by decide

/-- Commands that find one running, unknown codes 0, 17 and 63, and one that finds the part UNLOADED. -/
theorem witness_CommandsRefused :
    let busy : State :=
      { offer 2 [] calm with ctl := { calm.ctl with command := { calm.ctl.command with state := .running } } }
    carries .close (commandCode (word 2)) = true ∧ carries .unknownCommand (commandCode (word 63)) = true ∧
    carries .unknownCommand (commandCode (word 0)) = true ∧ carries .unknownCommand (commandCode (word 17)) = true ∧
    busy.ctl.command.state = .running ∧ busy.rst.inReset = false ∧ busy.handed.head? = some (.control 0 (word 2)) ∧
    (offer 2 [] calm).ctl.command.state ≠ .running ∧ (offer 2 [] calm).ctl.partState = .unloaded ∧
    commandCode (word 2) ∉ [1, 13, 14, 15, 16] ∧ 1 ≤ commandCode (word 2) ∧ commandCode (word 2) ≤ 16 := by decide

/-- Flags 0 and 7, and a word with bit 3 set. -/
theorem witness_ClearCausesDone :
    (offer 16 [7] calm).Offered (word 16) ∧ commandCode (word 16) = 16 ∧
    (offer 16 [7] calm).ctl.latches[0].toNat < 8 ∧ 8 ≤ (offer 16 [8] calm).ctl.latches[0].toNat := by
  unfold State.Offered; decide

/-- The highest addresses, and a bit above the 20th in each. -/
theorem witness_ArmTrapDone :
    (offer 15 [15, 0xFFFF, 15, 0xFFFF] calm).Offered (word 15) ∧ commandCode (word 15) = 15 ∧
    (offer 15 [15, 0xFFFF, 15, 0xFFFF] calm).ctl.latches[0].toNat < 16 ∧
    (offer 15 [15, 0xFFFF, 15, 0xFFFF] calm).ctl.latches[2].toNat < 16 ∧
    16 ≤ (offer 15 [16, 0, 0, 0] calm).ctl.latches[0].toNat ∧
    16 ≤ (offer 15 [0, 0, 16, 0] calm).ctl.latches[2].toNat := by
  unfold State.Offered; decide

/-- A command that is none of those excepted gives a next state. -/
theorem witness_ArmTrapDone_others :
    Instr.lockGuards ≠ .armTrap ∧ (∀ b, Instr.lockGuards ≠ .hostCycle b) ∧ beginsReset .lockGuards = false ∧
    ∃ t, exec .lockGuards (offer 14 [] calm) = .next t :=
  ⟨by decide, fun _ h => Instr.noConfusion h, rfl, _, rfl⟩

/-- A locked part, each bad parameter, and good ones at the top of their ranges. -/
theorem witness_GuardCommands :
    let locked : State := { offer 13 [9] calm with mem := { calm.mem with guardLock := true } }
    let good := offer 13 [3, 15, 0, 15, 0xFFFF, 2] calm
    locked.Offered (word 13) ∧ commandCode (word 13) = 13 ∧ locked.mem.guardLock = true ∧
    good.Offered (word 13) ∧ good.mem.guardLock = false ∧ good.ctl.latches[0].toNat = (3 : Fin 4).val ∧
    good.ctl.latches[1].toNat < 16 ∧ good.ctl.latches[3].toNat < 16 ∧ good.ctl.latches[5].toNat ≤ 2 ∧
    3 < (offer 13 [4] calm).ctl.latches[0].toNat ∧ 16 ≤ (offer 13 [0, 16] calm).ctl.latches[1].toNat ∧
    16 ≤ (offer 13 [0, 0, 0, 16] calm).ctl.latches[3].toNat ∧
    2 < (offer 13 [0, 0, 0, 0, 0, 3] calm).ctl.latches[5].toNat ∧
    (offer 14 [] calm).Offered (word 14) ∧ commandCode (word 14) = 14 := by
  unfold State.Offered; decide

/-- A good directory address and one above 20 bits; a Capture part cycle that waits and one on the port. -/
theorem witness_LoadBegins :
    let q : PartCycle := ⟨.fetch, 0x10000, none, 0⟩
    let busy : State := porting (.part q false) { offer 1 [1, 0] calm with mem := { calm.mem with parts := [q] } }
    (offer 1 [1, 0] calm).Offered (word 1) ∧ commandCode (word 1) = 1 ∧
    (offer 1 [15, 0] calm).ctl.latches[0].toNat < 16 ∧ 16 ≤ (offer 1 [16, 0] calm).ctl.latches[0].toNat ∧
    1 * 65536 + 0 < calm.mem.installed.words ∧ (offer 1 [1, 0] calm).outstanding (· == .directory) = false ∧
    busy.Offered (word 1) ∧ busy.mem.port = some (.part q false) ∧ q ∈ busy.mem.parts := by
  unfold State.Offered; decide

/-- A header word that passes and one that fails, words 15 and 16 of an entry, good and bad, the last entry, a bad
parity and a word beyond memory. -/
theorem witness_DirectoryReadReturns :
    let p : PartCycle := ⟨.directory, 0, none, 0⟩
    let s (v : RamWord) (d : DirectoryRead) : State :=
      porting (.part p false)
        { calm with
          load := .phase1 d
          mem := { calm.mem with ram := { calm.mem.ram with cells := [(0, v)] } } }
    let good : List Word := [0x4100, 0, 0x2020, 0, 0, 4, 0, 0, 20, 0, 0, 0, 0xFFFF, 0xFFFF, 0]
    let entry : List Word := [0x4120, 0x2020, 0x2000, 0, 0, 4, 0, 0, 20, 0, 0, 0, 0xFFFF, 0xFFFF, 0]
    let one := freshWord 1
    let none_ := freshWord 0
    let at_ (e : List Word) (count : Word) : DirectoryRead := ⟨0, 527, [count], e, []⟩
    calm.mem.installed.words ≤ 0x1FFFF + 1 ∧ (0 : Nat) + 527 < calm.mem.installed.words ∧ calm.LogRoom ∧
    (wordGood ((s one ⟨0, 0, [], [], []⟩).mem.ram.read 0) = true ∧ headerCheck [1] 0 = none ∧
      headerCheck [0] 0 = some (.badCount, 0) ∧ headerCheck [513] 0 = some (.badCount, 0) ∧
      headerCheck [512] 0 = none) ∧
    wordGood ((s ⟨1, false, false⟩ ⟨0, 0, [], [], []⟩).mem.ram.read 0) = false ∧
    (s ⟨1, false, false⟩ ⟨0, 0, [], [], []⟩).LogRoom ∧
    ((entry.take 14) ++ [none_.word]).length < 16 ∧ 16 ≤ (entry ++ [none_.word]).length ∧
    entryCheck .k128 [1] [] (good ++ [none_.word]) = some .badSymbol ∧
    entryCheck .k128 [1] [] (entry ++ [none_.word]) = none ∧
    headerCount (at_ entry 1).header ≤ 1 ∧ 1 < headerCount (at_ entry 2).header ∧
    (∀ q ∈ (s none_ (at_ entry 1)).mem.parts, q.source ≠ .directory) ∧
    (s none_ (at_ entry 1)).cap = CaptureUnit.empty ∧ (s none_ (at_ entry 1)).NoCaptureWaiting := by
  unfold State.LogRoom State.NoCaptureWaiting; decide

/-- Word 3 of an attempt, good and bad; word 7, good and bad, of a sound attempt of the first of two instruments and of
the only one; of a torn second and a torn third; a fetch attempt with a word to read beside it. -/
theorem witness_RecordReadReturns :
    let r (n : Nat) (torn : Bool) (attempt : Nat) : RecordRead :=
      ⟨[1], 0, attempt, true, torn, List.replicate n (0, true)⟩
    let s (rs : List Instrument) (v : RamWord) (x : RecordRead) : State :=
      porting (.part ⟨.phase2, 0x10000, none, 0⟩ false)
        { running rs with
          load := .phase2 x
          mem := { calm.mem with ram := { calm.mem.ram with cells := [(0x10000, v)] } } }
    let e : FetchEntry := ⟨0, ⟨true, false, false, false, false, false⟩, 42, 0, 1, false⟩
    let both : State :=
      { s [tova, tova] (freshWord 0) { r 2 false 1 with instr := 1 } with
        cap := ⟨true, [], [e], some ⟨[0, 1, 2], []⟩, true⟩ }
    (s [tova] (freshWord 0) (r 2 false 1)).instrument? 0 = some tova ∧
    (s [tova] (freshWord 0) (r 2 false 1)).cap.fetchQueue = [] ∧
    (s [tova] (freshWord 0) (r 2 false 1)).cap.attempt = none ∧
    (s [tova] (freshWord 0) (r 2 false 1)).NoCaptureWaiting ∧ (r 2 false 1).got.length + 1 < 8 ∧
    wordGood ((s [tova] (freshWord 0) (r 2 false 1)).mem.ram.read 0x10000) = true ∧
    wordGood ((s [tova] ⟨1, false, false⟩ (r 7 false 1)).mem.ram.read 0x10000) = false ∧
    (s [tova] ⟨1, false, false⟩ (r 7 false 1)).LogRoom ∧ (r 7 false 1).got.length + 1 = 8 ∧ (r 7 false 1).torn = false ∧
    0 + 1 < (running [tova, { tova with symbol := [0x41] }]).tbl.instruments.length ∧
    (running [tova]).tbl.instruments.length ≤ 0 + 1 ∧ (r 7 true 2).torn = true ∧ (r 7 true 2).attempt < 3 ∧
    3 ≤ (r 7 true 3).attempt ∧ both.instrument? 1 = some tova ∧ both.instrument? 0 = some tova ∧
    both.cap.attempt = some ⟨[0, 1, 2], []⟩ ∧ both.cap.fetchQueue = e :: [] ∧ both.NoCaptureWaiting := by
  unfold State.LogRoom State.NoCaptureWaiting; decide

/-- A day with a hold and one without. -/
theorem witness_CloseEndsDay :
    let h : Hold := ⟨363, 3, 0, true, 20000⟩
    let held := offer 2 [] (running [tova, { tova with hold := some h }])
    let free := offer 2 [] (running [tova])
    held.Offered (word 2) ∧ commandCode (word 2) = 2 ∧ held.ctl.partState ≠ .unloaded ∧
    held.instrument? 1 = some { tova with hold := some h } ∧ held.instrument? 0 = some tova ∧ tova.hold = none ∧
    free.Offered (word 2) ∧ (∀ r ∈ free.tbl.instruments, r.hold = none) := by
  unfold State.Offered; decide

/-- A held slot, a free one of fifteen and of sixteen, fetch-on-commit, and the three standings of phase 2. -/
theorem witness_FieldStaged :
    let slot (i : Nat) : StagingSlot := ⟨i, 0, Vector.replicate 7 none⟩
    let s (slots : List StagingSlot) (r : Instrument) : State :=
      handing [.capture 0 6 5] { running [r] with cap := ⟨true, slots, [], none, false⟩ }
    let loading (r : RecordRead) : State :=
      handing [.capture 0 0 5] { running [tova] with load := .phase2 r }
    (s [slot 0] tova).cap.slot 0 = some (slot 0) ∧ (s [slot 0] tova).standing 0 = .read ∧
    (s [slot 0] tova).handed = [.capture 0 (6 : Fin 7).val 5] ∧ (s [slot 0] tova).instrument? 0 = some tova ∧
    (s ((List.range 15).map (fun i => slot (i + 1))) tova).cap.slot 0 = none ∧
    (s ((List.range 15).map (fun i => slot (i + 1))) tova).cap.staging.length < 16 ∧
    16 ≤ (s ((List.range 16).map (fun i => slot (i + 1))) tova).cap.staging.length ∧
    (s ((List.range 16).map (fun i => slot (i + 1))) tova).cap.slot 0 = none ∧
    { tova with fetchOnCommit := true }.fetchOnCommit = true ∧ tova.fetchOnCommit = false ∧
    (loading ⟨[1], 1, 1, true, false, []⟩).standing 0 = .read ∧
    (loading ⟨[1], 0, 1, true, false, []⟩).standing 0 = .inFlight ∧
    (loading ⟨[1], 0, 0, false, false, []⟩).standing 0 = .unread := by decide

/-- A duplicate, a next and a gap; a whole group and none; an idle queue, one with another instrument's attempt in
progress, and one with an entry of the same instrument; phase 2 before the instrument, at it and past it. -/
theorem witness_CommitTaken :
    let s (w : Word) (q : List FetchEntry) (a : Option FetchAttempt) (ps : List PartCycle) : State :=
      { handing [.capture 0 7 w] (running [tova, tova]) with
        cap := ⟨true, [], q, a, false⟩
        mem := { calm.mem with parts := ps } }
    let f : CommitFlags := ⟨true, false, false, false, false, false⟩
    let e (i : Nat) : FetchEntry := ⟨i, f, 41, 0, 1, false⟩
    let a : FetchAttempt := ⟨[0, 1, 2], []⟩
    let p : PartCycle := ⟨.fetch, 0x10000, none, 0⟩
    let loading (i : Nat) (inFlight : Bool) : State :=
      { s 0x102A [] none [⟨.phase2, 0x10000, none, 0⟩] with load := .phase2 ⟨[2], i, 1, inFlight, false, []⟩ }
    (s 0x1029 [] none []).CaptureSettled ∧ commitSeq 0x1029 = tova.lastSeq ∧ commitSeq 0x102A = tova.lastSeq + 1 ∧
    commitSeq 0x102B ≠ tova.lastSeq + 1 ∧ (s 0x102B [] none []).LogRoom ∧
    (s 0x402A [] none []).CaptureSettled ∧ fetchPlan (commitFlags 0x402A) = [] ∧
    fetchPlan (commitFlags 0x102A) ≠ [] ∧ groupsComplete (commitFlags 0x102A) (Vector.replicate 7 none) = false ∧
    (s 0x102A [] none []).outstanding (fun p => p == .fetch || p == .phase2) = false ∧
    (s 0x102A [e 1] (some a) [p]).CaptureSettled ∧ (∀ x ∈ [e 1], x.instr ≠ 0) ∧
    (s 0x102A [e 1, e 0] (some a) [p]).CaptureSettled ∧ (e 0).instr = 0 ∧ (s 0x102A [] none []).rst.inReset = false ∧
    (s 0x102A [] none []).load = .idle ∧ (s 0x102A [] none []).instrument? 0 = some tova ∧
    ((commitFlags 0xD02A).halt && (commitFlags 0xD02A).resume) = true ∧
    ((loading 0 true).CaptureSettled ∧ (loading 0 true).standing 0 = .inFlight) ∧
    ((loading 0 false).standing 0 = .unread ∧ (loading 1 true).standing 0 = .read) := by
  unfold State.CaptureSettled State.LogRoom; decide

/-- A commit that posts two faults, with room for them in the log, and one notice: a line that watches and is not OFF, and
a running link that shows the instrument. -/
theorem witness_CommitTaken_notice :
    let r : Instrument := { tova with slot1 := some 0, hold := some ⟨363, 3, 0, true, 20000⟩ }
    let s := noticing 5 r
    s.LogRoomFor 2 ∧ s.instrument? 0 = some r ∧ 4 ∈ r.watchers ∧ s.lines[4].state ≠ .off ∧
    s.links[0].running = true ∧ s.shows 0 0 = some 0 ∧ s.tape.queue.length < 128 ∧ r.eligible = true ∧
    tradeRead (commitFlags 0x102A) #v[some 0, some 11216, some 5, none, none, none, none] = some (11216, 5) := by
  refine ⟨?_, by decide, by decide, by decide, by decide, by decide, by decide, by decide, by decide⟩
  unfold State.LogRoomFor
  decide

/-- The second word of a trade, good and bad; the third of a sound attempt alone and before another; of a torn second
and a torn third; before an entry that names no group; and beside an attempt of phase 2. -/
theorem witness_FetchReadReturns :
    let f : CommitFlags := ⟨true, false, false, false, false, false⟩
    let e (torn : Bool) (n : Nat) : FetchEntry := ⟨0, f, 42, 0, n, torn⟩
    let s (got : Nat) (q : List FetchEntry) (v : RamWord) : State :=
      porting (.part ⟨.fetch, 0x10000, none, 0⟩ false)
        { running [tova, tova] with
          cap := ⟨true, [], q, some ⟨[0, 1, 2], List.replicate got (0, true)⟩, false⟩
          mem := { calm.mem with ram := { calm.mem.ram with cells := [(0x10000, v)] } } }
    let bare : FetchEntry := ⟨1, ⟨false, false, true, false, false, false⟩, 42, 0, 0, false⟩
    let x : RecordRead := ⟨[1], 1, 1, true, false, []⟩
    let both : State := { s 1 [e false 1] (freshWord 0) with load := .phase2 x }
    (s 1 [e false 1] (freshWord 0)).NoCaptureWaiting ∧ (s 1 [e false 1] (freshWord 0)).load = .idle ∧
    (s 1 [e false 1] (freshWord 0)).instrument? 0 = some tova ∧ (1 : Nat) + 1 < ([0, 1, 2] : List (Fin 7)).length ∧
    ([0, 1, 2] : List (Fin 7)).length ≤ 2 + 1 ∧
    wordGood ((s 1 [e false 1] (freshWord 0)).mem.ram.read 0x10000) = true ∧
    wordGood ((s 1 [e false 1] ⟨1, false, false⟩).mem.ram.read 0x10000) = false ∧
    (s 1 [e false 1] ⟨1, false, false⟩).LogRoom ∧
    (s 2 [e false 1, e false 0] (freshWord 0)).cap.fetchQueue = e false 1 :: [e false 0] ∧ fetchPlan f ≠ [] ∧
    (e true 2).torn = true ∧ (e true 2).attempt < 3 ∧ 3 ≤ (e true 3).attempt ∧
    (s 2 [e false 1, bare] (freshWord 0)).cap.fetchQueue = e false 1 :: [bare] ∧ fetchPlan bare.flags = [] ∧
    bare.instr ≠ (e false 1).instr ∧ (s 2 [e false 1, bare] (freshWord 0)).instrument? 1 = some tova ∧
    both.load = .phase2 x ∧ x.inFlight = true ∧ both.instrument? x.instr = some tova ∧ both.NoCaptureWaiting := by
  unfold State.LogRoom State.NoCaptureWaiting; decide

/-- A slot at 2,000 ms and a hold at its timeout of 20 s. -/
theorem witness_StagingAndHoldsExpire :
    let slot : StagingSlot := ⟨0, 0, Vector.replicate 7 none⟩
    let h : Hold := ⟨363, 3, 0, true, 20000⟩
    let s : State := atTime 2000 { running [tova] with cap := ⟨true, [slot], [], none, false⟩ }
    let t : State := atTime 20000 (running [{ tova with hold := some h }])
    s.LogRoom ∧ s.cap.slot 0 = some slot ∧ 2000 ≤ since s slot.openTime ∧ t.LogRoom ∧
    t.instrument? 0 = some { tova with hold := some h } ∧ holdDue t { tova with hold := some h } h = true ∧
    holdDue (atTime 19999 t) { tova with hold := some h } h = false := by
  unfold State.LogRoom; decide

/-- A price at and above each limit; a record with a last and a close, and one with neither. -/
theorem witness_DisplayForms :
    79999 / FractionBase.den .eighths ≤ 9999 ∧ 9999 < 80000 / FractionBase.den .eighths ∧
    (-7999 : Int).natAbs / FractionBase.den .eighths ≤ 999 ∧ 999 < (-8000 : Int).natAbs / FractionBase.den .eighths ∧
    (displayForm .eighths 351).frac = some ⟨7, 8⟩ ∧ tova.last = some 350 ∧ tova.close = some 347 ∧
    { tova with last := none }.last = none := by decide

/-- Records with and without a last price, with each tick. -/
theorem witness_TickTable :
    tova.last = some 350 ∧ { tova with last := none }.last = none ∧ { tova with tick := .zeroUp }.tick = .zeroUp ∧
    { tova with tick := .down }.tick = .down ∧ tova.tick = .none ∧
    quantize tova.base 11216 = quantize tova.base 11220 := by decide

/-- A volume at the top and one lot over it; a record with extremes. -/
theorem witness_TradeTaken :
    { tova with volume := 4294967290 }.volume + 5 ≤ 4294967295 ∧
    4294967295 < { tova with volume := 4294967291 }.volume + 5 ∧
    { tova with low := some 340, high := some 360 }.low = some 340 := by decide

/-- Trades at the band of 320 units, 10 steps of 32, and one step beyond it, with and without a hold. -/
theorem witness_BandDecides :
    let r := { tova with hold := some ⟨363, 3, 0, true, 20000⟩ }
    (running [r]).instrument? 0 = some r ∧
    ((quantize r.base 11520 : Int) - 350).natAbs * (256 / r.base.den) ≤ r.band ∧
    ¬ ((quantize r.base 11552 : Int) - 350).natAbs * (256 / r.base.den) ≤ r.band ∧ r.band ≠ 0 ∧
    (running [r]).LogRoom := by
  unfold State.LogRoom; decide

set_option maxRecDepth 20000 in
/-- A hold to settle, none to settle, and an instrument that is not there; a full Print Queue. -/
theorem witness_HoldsSettled :
    let r := { tova with hold := some ⟨363, 3, 0, true, 20000⟩ }
    let s (code : Nat) (i : Nat) := offer code [i] (running [r, tova])
    let full : State :=
      { s 3 0 with tape := { TickerUnit.reset with queue := List.replicate 128 ⟨0, 0, .eighths, 0, 0⟩ } }
    (s 3 0).Offered (word 3) ∧ commandCode (word 3) = 3 ∧ (s 4 0).Offered (word 4) ∧ commandCode (word 4) = 4 ∧
    (s 3 0).ctl.partState ≠ .unloaded ∧ (s 3 0).instrument? (s 3 0).ctl.latches[0].toNat = some r ∧
    (s 3 1).instrument? (s 3 1).ctl.latches[0].toNat = some tova ∧ tova.hold = none ∧
    (s 3 2).instrument? (s 3 2).ctl.latches[0].toNat = none ∧ r.eligible = true ∧
    (s 3 0).tape.queue.length < 128 ∧ 128 ≤ full.tape.queue.length ∧ full.LogRoom ∧
    { r with eligible := false }.eligible = false := by
  unfold State.Offered State.LogRoom; decide

/-- A quiet link with a setting due, with an image due, with a poll due, and with nothing due; each frame that has gone;
a flash timer at its 3 s. A position that is targeted and one that is not; a lamp test; a halted instrument; a timer that
runs. -/
theorem witness_LinkChooses :
    let s := linking quietLink0 calm
    let unlit := linking
      { quietLink0 with positions := quietLink0.positions.set 1 { quietLink0.positions[1] with shownSetting := none } } calm
    let blind := linking
      { quietLink0 with positions := quietLink0.positions.set 0 { quietLink0.positions[0] with shownImage := none } } calm
    let flashing := atTime 3000 { linking
      { quietLink0 with modules := quietLink0.modules.set 0 { quietLink0.modules[0] with flash := some 0 } } calm with
      flashTime := 3 }
    let shown (halted : Bool) : State :=
      { flashing with tbl := (running [{ tova with slot1 := some 0, halted := halted }]).tbl }
    let tested : State := { s with drive := { DriveUnit.reset with lampTest := some ⟨0, 0, []⟩ } }
    (s.links[0].running = true ∧ s.links[0].wire = .quiet) ∧ calm.links[0].running = false ∧
    (unlit.setDue 0 1 = true ∧ ∀ p' : Fin 16, p' - 15 - 1 < 1 - 15 - 1 → unlit.setDue 0 p' = false) ∧
    ((∀ p, blind.setDue 0 p = false) ∧ blind.cellsDue 0 0 = true ∧
      ∀ p' : Fin 16, p' - 15 - 1 < 0 - 15 - 1 → blind.cellsDue 0 p' = false) ∧
    ((∀ p, (atTime 500 s).setDue 0 p = false) ∧ (∀ p, (atTime 500 s).cellsDue 0 p = false) ∧
      (atTime 500 s).pollAge 0 0 = some 500 ∧ (atTime 500 s).pollAge 0 1 = some 500 ∧
      (atTime 500 s).pollAge 0 2 = none) ∧
    (∀ p, (atTime 499 s).pollAge 0 p = none) ∧ (3 : Nat) * 1000 ≤ since flashing 0 ∧
    (s.links[0].targetedBy 0 = some 0 ∧ s.links[0].targetedBy 1 = none) ∧
    (tested.drive.lampTest = some ⟨0, 0, []⟩ ∧ tested.links[0].positions[0].tripDisabled = false ∧
      tested.links[0].positions[0].state = .active ∧ s.drive.lampTest = none) ∧
    (((shown true).instrument? 0).map (·.halted) = some true ∧ (shown true).shows 0 0 = some 0) ∧
    (((shown false).instrument? 0).map (·.halted) = some false ∧ (shown false).flashPermitted = true ∧
      (shown false).links[0].modules[0].flash ≠ none) := by decide

/-- A good reply at 4 ms, a bad one, a time-out at 4 ms; a position with two misses and one that is not served; a link
without an IDLE spare, and a log with room for two faults. -/
theorem witness_RepliesCounted :
    let s (missed : Nat) (state : ModuleState) : State :=
      linking
        { quietLink0 with
          wire := .awaiting (.poll 0) 0
          positions := quietLink0.positions.set 0 { quietLink0.positions[0] with missed := missed, state := state } }
        (atTime 4 calm)
    (s 0 .active).links[0].wire = .awaiting (.poll 0) 0 ∧ replyGood (s 0 .active) (.poll 0) 0 0 0 0 = true ∧
    replyGood (s 0 .active) (.poll 0) 0 0 0 1 = false ∧ replyGood (atTime 5 (s 0 .active)) (.poll 0) 0 0 0 0 = false ∧
    4 ≤ since (s 0 .active) 0 ∧ (s 0 .failed).links[0].positions[0].served = false ∧
    (s 1 .active).links[0].positions[0].missed + 1 < 3 ∧ (s 2 .active).links[0].positions[0].served = true ∧
    3 ≤ (s 2 .active).links[0].positions[0].missed + 1 ∧ (s 2 .active).LogRoom ∧ quietLink0.wire = .quiet ∧
    (s 2 .active).links[0].targetedBy 0 = some 0 ∧ quietLink0.idleSpare = some 1 ∧
    { quietLink0 with positions := quietLink0.positions.set 1 { quietLink0.positions[1] with state := .failed } }.idleSpare =
      none ∧ (s 2 .active).slotTaken.LogRoom := by
  unfold State.LogRoom; decide

/-- A reply with TRIP from an ACTIVE position with 0 and with 2 trips, and from one in TRIPPED; a link without an IDLE spare. -/
theorem witness_TripsCounted :
    let s (trips : Nat) (state : ModuleState) (policy : TripPolicy) : State :=
      linking
        { quietLink0 with
          wire := .awaiting (.poll 0) 0
          policy := policy
          positions := quietLink0.positions.set 0 { quietLink0.positions[0] with trips := trips, state := state } } calm
    replyGood (s 0 .active .link) (.poll 0) 0 0 1 0xFF = true ∧ (LinkFrame.poll 0).pos = 0 ∧
    (s 0 .active .link).links[0].positions[0].kind ≠ .notFitted ∧ min 3 (0 + 1) < 3 ∧ min 3 (2 + 1) = 3 ∧
    (s 2 .active .moduleOnly).links[0].positions[0].trips = 2 ∧
    (s 1 .tripped .board).links[0].positions[0].state = .tripped ∧ (s 0 .active .link).LogRoom ∧
    (s 2 .active .moduleOnly).slotTaken.LogRoom ∧ (s 2 .active .moduleOnly).links[0].targetedBy 0 = some 0 ∧
    { quietLink0 with positions := quietLink0.positions.set 1 { quietLink0.positions[1] with state := .failed } }.idleSpare =
      none := by
  unfold State.LogRoom; decide

/-- REMAP to an IDLE spare, to an ACTIVE position, to another link, of no module and to no position; RESTORE of a module
at home, away with its home IDLE, and away with it TRIPPED. -/
theorem witness_ModulesMoved :
    let s (code a b : Nat) (l : Link) : State := offer code [a, b] (linking l (running []))
    let away (state : ModuleState) : Link :=
      { quietLink0 with
        positions := quietLink0.positions.set 0 { quietLink0.positions[0] with state := state }
        modules := quietLink0.modules.set 0 { quietLink0.modules[0] with target := some 1 } }
    (s 5 0 1 quietLink0).Offered (word 5) ∧ commandCode (word 5) = 5 ∧ commandCode (word 6) = 6 ∧
    (s 6 0 0 quietLink0).Offered (word 6) ∧ (s 5 0 1 quietLink0).ctl.partState ≠ .unloaded ∧
    quietLink0.positions[0].kind = .home ∧ quietLink0.positions[1].kind ≠ .notFitted ∧
    quietLink0.positions[1].state = .idle ∧ quietLink0.positions[0].state ≠ .idle ∧
    quietLink0.positions[1].kind ≠ .home ∧ quietLink0.modules[0].target = some 0 ∧ (128 : Nat) ≤ 128 ∧
    (127 : Nat) = 16 * (7 : Fin 8).val + (15 : Fin 16).val ∧
    (away .idle).modules[0].target ≠ some 0 ∧ (away .idle).positions[0].state = .idle ∧
    (away .tripped).positions[0].state ≠ .idle := by
  unfold State.Offered; decide

/-- A link whose one logical module targets its home meets the law of the targets, and steps. -/
theorem witness_TargetsLawful :
    let s := linking quietLink0 calm
    s.TargetsLawful ∧ ∃ t, step { s with pending := [.pollDue 0] } = .next t := by
  refine ⟨fun k => ⟨?_, ?_⟩, _, rfl⟩ <;> revert k <;> decide

/-- An image that differs from the blank in one cell, and a good reply. -/
theorem witness_LinkFrames :
    Image.blank.set 3 (.digit 4) ≠ Image.blank ∧ replyGood calm (.poll 15) 0 15 1 0xF0 = true := by decide

/-- HOT latched, LLOW present, and neither at stages 0 and 4. -/
theorem witness_CommandedOutputs :
    let s (hot llow : Bool) (stage : Nat) : State :=
      { calm with
        drive :=
          { DriveUnit.reset with
            hotLatch := hot
            llow := ⟨llow, llow, none⟩
            governor := { Governor.reset 0 with stage := stage } } }
    (s true false 0).drive.hotLatch = true ∧ (s false true 0).drive.llow.taken = true ∧
    (s false false 4).drive.governor.stage ≤ 4 ∧ (s false false 4).ribbonBrightness < 4 ∧
    (s false false 0).drive.hotLatch = false := by decide

/-- A full window of four samples with its count complete. -/
theorem witness_EffectiveLimit :
    let g : Governor := ⟨900, 0, 0, [1, 2, 3, 4], 3, 1, 0⟩
    (joinWindow g.n g.window 5).length = g.n ∧ g.n ≤ g.count + 1 := by decide

/-- A sample due at 10 ms, with the window one short of full and with it full. -/
theorem witness_GovernorSampled :
    let s (w : List Nat) (n : Nat) : State :=
      atTime 10 { calm with drive := { DriveUnit.reset with governor := ⟨900, 0, 0, w, n, 1, 0⟩ } }
    (s [] 0).rst.inReset = false ∧ 10 ≤ since (s [] 0) (s [] 0).drive.governor.lastSample ∧
    (([1, 2] ++ [(s [1, 2] 2).sampleLoad]).drop (2 + 1 - 4)).length ≠ 4 ∧
    (([1, 2, 3] ++ [(s [1, 2, 3] 3).sampleLoad]).drop (3 + 1 - 4)).length = 4 ∧ min 4 (3 + 1) = 4 := by decide

/-- A raw HOT that appears with and without a HOT check; a level that has held for 20 ms; a LAMP TEST to cut. -/
theorem witness_ComparatorsFiltered :
    let checking : State := { calm with drive := { DriveUnit.reset with hotCheck := some ⟨0, all8⟩ } }
    let rising : State :=
      atTime 20
        { calm with
          drive := { DriveUnit.reset with hot := ⟨true, false, some 0⟩, lampTest := some ⟨0, 0, []⟩ } }
    (calm.drive.filter .hot).raw ≠ true ∧ calm.drive.hotCheck = none ∧ checking.drive.hotCheck ≠ none ∧
    (rising.drive.filter .hot).watch = some 0 ∧ rising.rst.inReset = false ∧ 20 ≤ since rising 0 ∧
    (rising.drive.filter .hot).raw = true ∧ rising.drive.lampTest ≠ none ∧ rising.LogRoom := by
  unfold State.LogRoom; decide

/-- REARM of link 7, of all, and of link 8; the latch set with HOT present and absent; a HOT check at 20 ms. -/
theorem witness_RearmAndHotCheck :
    let s (p : Nat) (latch present : Bool) : State :=
      { offer 7 [p] (running []) with
        drive := { DriveUnit.reset with hotLatch := latch, hot := ⟨present, present, none⟩ } }
    let checked : State := atTime 20 { calm with drive := { DriveUnit.reset with hotCheck := some ⟨0, all8⟩ } }
    (s 7 false false).Offered (word 7) ∧ commandCode (word 7) = 7 ∧ (s 7 false false).ctl.partState ≠ .unloaded ∧
    linksNamed 7 = some [7] ∧ linksNamed 0xFF = some all8 ∧ linksNamed 8 = none ∧
    (s 7 true true).drive.hot.taken = true ∧ (s 7 true false).drive.hot.raw = false ∧
    checked.drive.hotCheck = some ⟨0, all8⟩ ∧ checked.rst.inReset = false ∧ 20 ≤ since checked 0 := by
  unfold State.Offered; decide

/-- LAMP TEST of link 0, of link 8, and with the drive off; a test at 5 s with links to go and with none. -/
theorem witness_LampTestAndLimitLog :
    let s (p : Nat) (latch : Bool) : State :=
      { offer 8 [p] (running []) with drive := { DriveUnit.reset with hotLatch := latch } }
    let t (rest : List (Fin 8)) : State :=
      atTime 5000 { calm with drive := { DriveUnit.reset with lampTest := some ⟨0, 0, rest⟩ } }
    (s 0 false).Offered (word 8) ∧ commandCode (word 8) = 8 ∧ (s 0 false).ctl.partState ≠ .unloaded ∧
    linksNamed (s 0 false).ctl.latches[0] = some [0] ∧ linksNamed (s 8 false).ctl.latches[0] = none ∧
    (s 0 true).drive.hotLatch = true ∧ (s 0 false).drive.llow.taken = false ∧
    (t [1]).drive.lampTest = some ⟨0, 0, [1]⟩ ∧ (t [1]).rst.inReset = false ∧ 5000 ≤ since (t [1]) 0 ∧
    (t []).drive.lampTest = some ⟨0, 0, []⟩ ∧
    (offer 9 [] (running [])).Offered (word 9) ∧ commandCode (word 9) = 9 := by
  unfold State.Offered; decide

/-- A taken rise of WARM, with STAGE>0 already in the log: one flag to be kept, and one reason that comes to hold. -/
theorem witness_LampTestAndLimitLog_flags :
    let s : State :=
      atTime 20
        { calm with
          drive := { DriveUnit.reset with warm := ⟨true, false, some 0⟩, log := { Reasons.clear with stage := true } } }
    let c : Instr := .filterTaken .warm
    exec c s = .next (after c s) ∧ c ≠ .clearLimitLog ∧ (∀ p, c ≠ .resetEnd p) ∧ s.drive.log.stage = true ∧
      s.limitStatus.warm = false ∧ (after c s).limitStatus.warm = true :=
  ⟨rfl, by decide, fun _ h => Instr.noConfusion h, rfl, by decide, by decide⟩

/-- HOLD and RESUME from a tape that runs and from one that is held. -/
theorem witness_TapeHoldAndResume :
    (offer 10 [] (running [])).Offered (word 10) ∧ commandCode (word 10) = 10 ∧
    (offer 11 [] (running [])).Offered (word 11) ∧ commandCode (word 11) = 11 ∧
    (offer 10 [] (running [])).ctl.partState ≠ .unloaded ∧ (offer 10 [] (running [])).tape.hold ≠ true := by
  unfold State.Offered; decide

/-- A running ribbon with one print and 16 characters in its buffer. -/
theorem witness_TapeTake :
    let s : State :=
      { running [tova] with
        tape :=
          { TickerUnit.reset with
            condition := .running
            queue := [⟨0, 351, .eighths, 5, 0⟩]
            buffer := List.replicate 16 ⟨0x41, false⟩ } }
    s.rst.inReset = false ∧ s.tape.condition = .running ∧ s.tape.hold = false ∧ s.tape.held = [] ∧
    s.tape.queue = ⟨0, 351, .eighths, 5, 0⟩ :: [] ∧ s.tape.buffer.length ≤ 16 ∧ s.instrument? 0 = some tova := by decide

/-- A running ribbon at phase 0 with a gap due, with an empty buffer and with a character, and at phase 5; a blank-out
with steps to make and with none, with and without a LOAD. -/
theorem witness_RibbonMoves :
    let s (t : TickerUnit) : State := { calm with tape := t }
    let on := { TickerUnit.reset with condition := .running }
    (s on).rst.inReset = false ∧ (s on).tape.condition = .running ∧ (s { on with phase := 5 }).tape.phase ≠ 0 ∧
    (s on).tape.phase = 0 ∧ (s { on with gapDue := true }).tape.gapDue = true ∧ (s on).tape.buffer = [] ∧
    (s { on with buffer := [⟨0x41, true⟩] }).tape.buffer = ⟨0x41, true⟩ :: [] ∧
    (s TickerUnit.reset).tape.condition = .blanking (479 + 1) ∧
    (s { on with condition := .blanking 0 }).tape.condition = .blanking 0 ∧
    (s { on with loadedInBlankOut := true }).tape.loadedInBlankOut = true ∧
    (s on).tape.loadedInBlankOut = false := by decide

/-- SET LINE with each bad parameter, with a rate to change on a line that is not muted, and with good parameters, rate
NONE among them. -/
theorem witness_SetLineDone :
    let s (ps : List Nat) : State := offer 12 ps (lining activeLine (running []))
    (s [4, 3, 2, 0]).Offered (word 12) ∧ commandCode (word 12) = 12 ∧ (s [4, 3, 2, 0]).ctl.partState ≠ .unloaded ∧
    15 < (s [16]).ctl.latches[0].toNat ∧ 4 < (s [4, 5]).ctl.latches[1].toNat ∧
    3 < (s [4, 4, 4]).ctl.latches[2].toNat ∧ ((s [4, 0, 1]).ctl.latches[1] = 0 ∧ (s [4, 0, 1]).ctl.latches[2].toNat ≠ 0) ∧
    (s [15]).ctl.latches[0].toNat = (15 : Fin 16).val ∧
    (rateOfCode (s [4, 3, 2, 0]).ctl.latches[1] = some .b4800 ∧ activeLine.rate ≠ .b4800 ∧ activeLine.cls ≠ 0) ∧
    rateOfCode (s [4, 4, 3, 0]).ctl.latches[1] = some activeLine.rate ∧ (s [4, 4, 3, 0]).ctl.latches[2].toNat ≤ 3 ∧
    rateOfCode (s [4, 0, 0, 0]).ctl.latches[1] = some .none := by
  unfold State.Offered; decide

/-- An OFF line, a hunting one and an assembling one; characters that continue a frame, that break it, that complete it
and that are none of the line's; seven bad frames behind it and six; 500 ms of silence. -/
theorem witness_CharactersTaken :
    let s (run : Nat) (state : LineState) : State :=
      atTime 500 (lining { activeLine with state := state, badRun := run, assembler := .assembling [] 0 } calm)
    calm.rst.inReset = false ∧ calm.lines[4].state = .off ∧ (lining activeLine calm).lines[4].assembler = .hunting ∧
    (s 7 .active).lines[4].state ≠ .off ∧ (s 7 .active).lines[4].assembler = .assembling [] 0 ∧
    assemble [] ⟨0x57, false⟩ = .more ∧ assemble [] ⟨0x7F, false⟩ = .bad .badCharacter ∧
    assemble [] ⟨0x57, true⟩ = .bad .badCharacter ∧ RxChar.isMark ⟨0x57, false⟩ = false ∧
    (s 6 .active).lines[4].badRun + 1 < 8 ∧ 8 ≤ (s 7 .active).lines[4].badRun + 1 ∧ (s 7 .active).LogRoom ∧
    (s 7 .muted).lines[4].state ≠ .active ∧ (s 7 .dozing).lines[4].state = .dozing ∧ 500 ≤ since (s 7 .active) 0 ∧
    IsHex 0x30 0 ∧ IsHex 0x46 15 ∧ 16 * 3 + 12 ≤ 60 ∧ 60 < 16 * 3 + 13 ∧
    assemble [0x5A, 0x30, 0x30, 0x34] ⟨0x36, false⟩ = .good 0x5A [] := by
  unfold State.LogRoom IsHex; decide

/-- Good frames of each kind, for a symbol that is there and one that is not; a line that watches it, one that does not
and one that watches 24; an inbox with room and a full one. -/
theorem witness_GoodFramesActedOn :
    let got (kind : Byte) (body : List Byte) : List Byte := ((frameChars kind body).drop 1).dropLast
    let s (kind : Byte) (body : List Byte) (watch : List Nat) : State :=
      lining { activeLine with watch := watch, assembler := .assembling (got kind body) 0 } (running [tova])
    (s 0x57 tova.symbol []).rst.inReset = false ∧ (s 0x57 tova.symbol []).lines[4].state = .active ∧
    readyFrame (got 0x57 tova.symbol) = some (0x57, tova.symbol) ∧ readyFrame (got 0x44 [0x41]) = some (0x44, [0x41]) ∧
    readyFrame (got 0x50 []) = some (0x50, []) ∧ readyFrame (got 0x4D [0x41]) = some (0x4D, [0x41]) ∧
    readyFrame (got 0x5A []) = some (0x5A, []) ∧ readyFrame (got 0x58 []) = some (0x58, []) ∧
    lookup (s 0x57 tova.symbol []) tova.symbol = some 0 ∧ lookup (s 0x44 [0x41] []) [0x41] = none ∧
    (running [tova]).instrument? 0 = some tova ∧ 0 ∈ (s 0x44 tova.symbol [0]).lines[4].watch ∧
    0 ∉ (s 0x57 tova.symbol []).lines[4].watch ∧
    24 ≤ (s 0x57 tova.symbol ((List.range 24).map (· + 1))).lines[4].watch.length ∧
    (calm.ctl.inbox.nextSlot + 1 ≠ calm.ctl.inbox.readIndex ∧ ackCount [] + 3 < 4) ∧ ¬ ackCount [] + 4 < 4 ∧
    { activeLine with state := .muted }.state = .muted := by decide

/-- Two lines that qualify in different classes, none that does, and a doze timer at its 30 s. -/
theorem witness_LinesServed :
    let waiting (cls : Nat) : Line := { activeLine with cls := cls, out := [.quote 0] }
    let s : State := { calm with lines := (calm.lines.set 4 (waiting 3)).set 5 (waiting 1) }
    let dozy : State := atTime 30000 (lining { activeLine with doze := 30, dozeTimer := some 0 } calm)
    s.rst.inReset = false ∧ (s.lines[4].state = .active ∧ s.lines[4].out = .quote 0 :: [] ∧
      s.lines[4].transmitter = [] ∧ s.lines[4].cls = 3) ∧
    (∀ m : Fin 16, m - s.service.place 3 - 1 < 4 - s.service.place 3 - 1 → s.lines[m].cls ≠ 3) ∧
    (∀ n : Fin 16, calm.lines[n].state ≠ .active) ∧ dozy.lines[4].dozeTimer = some 0 ∧
    dozy.lines[4].doze * 1000 ≤ since dozy 0 := by decide

/-- A line that is OFF is lawful. -/
theorem off_lawful : Line.off.Lawful :=
  ⟨by decide, by decide, by simp [Line.off], by simp [Line.off], by decide, by simp [Line.off], by decide, by decide⟩

/-- A line that watches the one instrument of the table, with its quote, a page, a notice and two messages. -/
theorem witness_LinesLawful :
    let l : Line :=
      { activeLine with watch := [0], out := [.quote 0, .page 0, .notice .full, .ack 3], awaited := [4, 5, 6] }
    let s := lining l (running [tova])
    s.LinesLawful ∧ ∃ t, step { s with pending := [.lineService] } = .next t := by
  refine ⟨⟨?_, ?_, by decide, by intro d h; cases h⟩, _, rfl⟩
  · intro n
    have h : ∀ m : Fin 16, m ≠ 4 → (lining
        { activeLine with watch := [0], out := [.quote 0, .page 0, .notice .full, .ack 3], awaited := [4, 5, 6] }
        (running [tova])).lines[m] = Line.off := by decide
    by_cases hn : n = 4
    · subst hn
      refine ⟨by decide, by decide, ?_, ?_, by decide, ?_, by decide, by decide⟩
      · intro i hi
        have : i = 0 := by simpa [lining] using hi
        subst this
        decide
      · intro i
        by_cases hi : i = 0
        · subst hi; decide
        · rw [List.count_eq_zero.mpr (by simp [lining, hi])]; exact Nat.zero_le _
      · intro c
        cases c <;> decide
    · rw [h n hn]; exact off_lawful
  · intro n i r hr
    rcases i with _ | i
    · cases hr
      revert n
      decide
    · cases hr

/-- A frame with no body and one with a body at the bound; a record that is there, with a symbol of at most five
letters, prices in range and a last size within 16 bits. -/
theorem witness_FrameRoundTrip :
    printable 0x57 = true ∧ (∀ c ∈ List.replicate 60 (0x7D : Byte), printable c = true) ∧
    (List.replicate 60 (0x7D : Byte)).length ≤ 60 ∧ (running [tova]).instrument? 0 = some tova ∧
    tova.symbol.length ≤ 5 ∧ (∀ c ∈ tova.symbol, 0x41 ≤ c.toNat ∧ c.toNat ≤ 0x5A) ∧
    PriceInRange tova.base 350 ∧ PriceInRange tova.base 134217728 ∧ tova.lastSize ≤ 65535 := by
  unfold PriceInRange; decide

/-- A state that meets the invariants at their bounds, and steps. -/
theorem witness_MemoryCanonicalKept :
    let s : State := { calm with mem := { calm.mem with ram := ⟨[(0, freshWord 5), (0x1F020, freshWord 1)], 0, 0x1F020, 1888⟩ } }
    s.MemoryCanonical ∧ ∃ t, step { s with pending := [.timeBaseAdvance] } = .next t :=
  ⟨by unfold State.MemoryCanonical; decide, _, rfl⟩

/-- The four blocks with a part cycle each, three waiting and one on the port, at the bounds of the counts; sixteen
staging slots and two fetches. -/
theorem witness_PortBoundsKept :
    let s : State :=
      porting (.part ⟨.directory, 0, none, 16⟩ false)
        { calm with
          mem :=
            { calm.mem with
              refresh := ⟨true, .normal, 8, 0⟩
              parts := [⟨.fetch, 0, none, 16⟩, ⟨.writeBack, 0, some 0, 0⟩, ⟨.regionClear, 0, some 0, 0⟩] } }
    let f : FetchEntry := ⟨0, ⟨true, false, false, false, false, false⟩, 42, 0, 1, false⟩
    let c : State :=
      { calm with
        cap :=
          { CaptureUnit.empty with
            staging := (List.range 16).map (fun i => ⟨i, 0, Vector.replicate 7 none⟩)
            fetchQueue := [f, { f with instr := 1 }] } }
    (s.PortBounded ∧ ∃ t, step { s with pending := [.refreshRequest] } = .next t) ∧
      c.CaptureBounded ∧ ∃ t, step { c with pending := [.timeBaseAdvance] } = .next t :=
  ⟨⟨⟨by decide, by decide, by decide, by decide, by decide, by decide, by decide⟩, _, rfl⟩,
    ⟨by decide, by decide, by decide⟩, _, rfl⟩

set_option maxRecDepth 20000 in
/-- A tape at its bounds, with a hold at the largest price; records with extremes and a halt. -/
theorem witness_TapeBoundsKept :
    let r : Instrument := { tova with hold := some ⟨134217728, 65535, 0, false, 20000⟩ }
    let s : State :=
      { running [r, { tova with low := some 340, high := some 360, halted := true }] with
        tape :=
          { TickerUnit.reset with
            queue := List.replicate 128 ⟨0, 134217728, .eighths, 65535, 0⟩
            buffer := List.replicate 40 ⟨0x41, false⟩
            held := List.replicate 24 ⟨0x41, false⟩ } }
    (s.TapeBounded ∧ s.RecordsLawful) ∧ ∃ t, step { s with pending := [.ribbonStep] } = .next t := by
  refine ⟨⟨⟨by decide, by decide, by decide, ?_, by decide, ?_, (by intro d h; cases h)⟩, ?_, (by intro d h; cases h),
    (by intro p h; cases h)⟩, _, rfl⟩
  · intro p hp
    rw [List.eq_of_mem_replicate hp]
    unfold PriceInRange
    decide
  · intro r hr h hh
    rcases List.mem_cons.mp hr with rfl | hr
    · cases hh
      unfold PriceInRange
      decide
    · rcases List.mem_cons.mp hr with rfl | hr
      · cases hh
      · cases hr
  · intro r hr
    rcases List.mem_cons.mp hr with rfl | hr
    · exact ⟨by decide, (by intro lo hi h; cases h), by decide⟩
    · rcases List.mem_cons.mp hr with rfl | hr
      · exact ⟨by decide, by intro lo hi h1 h2; cases h1; cases h2; exact ⟨350, rfl, by decide, by decide⟩, by decide⟩
      · cases hr

/-- A queue with a command in front, and an empty one. -/
theorem witness_StepRunsFront :
    { calm with pending := [.take, .ping 4] }.pending = .take :: [.ping 4] ∧ calm.pending = [] := by decide

end Sys2Proof.Tests
end

section
/-! What no block but the Memory Path changes: of the Memory Path's state the other blocks reach only what stands at
the RAM port, by placing part cycles and taking their words from it. -/

namespace Sys2Proof.Machine

open Sys2Proof

/-- The Memory Path less what stands at the RAM port: the waiting host cycle, the part cycle queue and the cycle on
the port. -/
def MemoryPath.standing (m : MemoryPath) : MemoryPath := { m with waiting := none, parts := [], port := none }

/-- It is the Memory Path of a state at rest. -/
theorem State.atRest_mem (s : State) : s.atRest.mem = s.mem.standing := rfl

@[simp] theorem MemoryPath.standing_setParts (m : MemoryPath) (ps : List PartCycle) :
    MemoryPath.standing { m with parts := ps } = m.standing := rfl

@[simp] theorem MemoryPath.standing_setPort (m : MemoryPath) (p : Option PortCycle) :
    MemoryPath.standing { m with port := p } = m.standing := rfl

@[simp] theorem MemoryPath.standing_withdrawCapture (m : MemoryPath) : m.withdrawCapture.standing = m.standing := rfl

/-- The trap does not stand at the port. -/
theorem MemoryPath.trap_of_standing {m n : MemoryPath} (h : n.standing = m.standing) : n.trap = m.trap :=
  (congrArg MemoryPath.trap h :)

/-! ### Repeated and conditional changes -/

/-- A fold of changes that each keep a quantity keeps it. -/
theorem foldl_keeps {σ α β : Type} (p : σ → β) {f : σ → α → σ} (hf : ∀ s a, p (f s a) = p s) (l : List α) (s : σ) :
    p (l.foldl f s) = p s := by
  induction l generalizing s with
  | nil => rfl
  | cons a l ih => rw [List.foldl_cons, ih, hf]

/-! ### The arbiter, posting and faults -/

@[simp] theorem grant_standing (s : State) : (grant s).mem.standing = s.mem.standing := by rw [grant_eq]; rfl

/-- Posting leaves the Memory Path alone but for the part cycle queue. -/
theorem OnlyPosts.standing {a b : State} (h : OnlyPosts a b) : b.mem.standing = a.mem.standing :=
  congrArg State.mem h.rest

@[simp] theorem pumpWriteBack_standing (s : State) : (pumpWriteBack s).mem.standing = s.mem.standing :=
  (pumpWriteBack_onlyPosts s).standing

@[simp] theorem post_standing (t : TableWord) (s : State) : (post t s).mem.standing = s.mem.standing :=
  (post_onlyPosts t s).standing

@[simp] theorem postAll_standing (ts : List TableWord) (s : State) : (postAll ts s).mem.standing = s.mem.standing :=
  (postAll_onlyPosts ts s).standing

@[simp] theorem postChanged_standing (old : State) (ts : List TableWord) (s : State) :
    (postChanged old ts s).mem.standing = s.mem.standing :=
  (postChanged_onlyPosts old ts s).standing

@[simp] theorem postRecord_standing (e : WbEntry) (s : State) : (postRecord e s).mem.standing = s.mem.standing := by
  simp [postRecord]

@[simp] theorem postFault_standing (k : FaultKind) (subj : Subject) (d : List Nat) (s : State) :
    (postFault k subj d s).mem.standing = s.mem.standing :=
  (postFault_onlyPosts k subj d s).standing

/-! ### Commands -/

@[simp] theorem endCommand_standing (code : Option ResultCode) (d : Nat) (s : State) :
    (endCommand code d s).mem.standing = s.mem.standing := by simp [endCommand]

@[simp] theorem endDone_standing (s : State) : (endDone s).mem.standing = s.mem.standing :=
  endCommand_standing none 0 s

@[simp] theorem endRefused_standing (c : ResultCode) (d : Nat) (s : State) :
    (endRefused c d s).mem.standing = s.mem.standing := endCommand_standing (some c) d s

@[simp] theorem setPartState_standing (p : PartState) (s : State) :
    (setPartState p s).mem.standing = s.mem.standing := by simp [setPartState]

@[simp] theorem takeCommand_standing (w : Word) (s : State) : (takeCommand w s).mem.standing = s.mem.standing := by
  simp [takeCommand]

@[simp] theorem refuseBusy_standing (w : Word) (s : State) : (refuseBusy w s).mem.standing = s.mem.standing := by
  simp [refuseBusy]

/-- A command event either carries its command out by the owning rule, or leaves the Memory Path alone but for the
port: nothing is handed that it takes, or the command is refused before the owning rule (R24, R25). -/
theorem onCommand_cases (codes : Nat → Bool) (owning : State → State) (s : State) :
    (onCommand codes owning s).mem.standing = s.mem.standing ∨
      ∃ u, onCommand codes owning s = owning u ∧ u.mem.standing = s.mem.standing := by
  fun_cases onCommand codes owning s with
  | case1 w _ _ _ =>
    fun_cases arrive w owning (popHanded s) with
    | case1 => exact .inl (refuseBusy_standing w _)
    | case2 =>
      fun_cases examine w owning (takeCommand w (setCommandCause false (popHanded s))) with
      | case1 => simp
      | case2 => simp
      | case3 => exact .inr ⟨_, rfl, by simp⟩
  | case2 => exact .inl rfl
  | case3 => exact .inl rfl

/-- A command event keeps what the owning rule keeps, when that does not stand at the port. -/
theorem onCommand_keeps {α : Type} (p : MemoryPath → α) (hp : ∀ m, p m.standing = p m) {codes : Nat → Bool}
    {owning : State → State} (h : ∀ u, p (owning u).mem = p u.mem) (s : State) :
    p (onCommand codes owning s).mem = p s.mem := by
  have key : ∀ {m n : MemoryPath}, m.standing = n.standing → p m = p n := by
    intro m n e
    rw [← hp m, e, hp]
  rcases onCommand_cases codes owning s with e | ⟨u, e, hu⟩
  · exact key e
  · rw [e, h u, key hu]

theorem onCommand_standing {owning : State → State} (h : ∀ u, (owning u).mem.standing = u.mem.standing)
    (codes : Nat → Bool) (s : State) : (onCommand codes owning s).mem.standing = s.mem.standing :=
  onCommand_keeps MemoryPath.standing (fun _ => rfl) h s

theorem onControlWord_standing {take : Nat → Word → State → State}
    (h : ∀ off w u, (take off w u).mem.standing = u.mem.standing) (offs : Nat → Bool) (s : State) :
    (onControlWord offs take s).mem.standing = s.mem.standing := by
  fun_cases onControlWord offs take s with
  | case1 => simp [h]
  | case2 => rfl
  | case3 => rfl

theorem onCaptureWord_standing {take : Nat → Nat → Word → State → State}
    (h : ∀ i n w u, (take i n w u).mem.standing = u.mem.standing) (nums : Nat → Bool) (s : State) :
    (onCaptureWord nums take s).mem.standing = s.mem.standing := by
  fun_cases onCaptureWord nums take s with
  | case1 => simp [h]
  | case2 => rfl
  | case3 => rfl

/-! ### The board links and drive protection -/

@[simp] theorem chooseFrame_mem (k : Fin 8) (s : State) : (chooseFrame k s).mem = s.mem := by rw [chooseFrame_eq]

@[simp] theorem chooseAll_mem (s : State) : (chooseAll s).mem = s.mem := by rw [chooseAll_eq]

@[simp] theorem recomputeBoards_mem (which : Nat → Bool) (s : State) : (recomputeBoards which s).mem = s.mem := by
  rw [recomputeBoards_eq]

@[simp] theorem presentStill_mem (s : State) : (presentStill s).mem = s.mem := by
  fun_cases presentStill s <;> rfl

@[simp] theorem logReasons_mem (s : State) : (logReasons s).mem = s.mem := rfl

@[simp] theorem driveSettle_standing (old s : State) : (driveSettle old s).mem.standing = s.mem.standing := by
  simp [driveSettle]

@[simp] theorem boardSettle_standing (old : State) (k : Fin 8) (s : State) :
    (boardSettle old k s).mem.standing = s.mem.standing := by simp [boardSettle]

@[simp] theorem floorSettle_standing (old s : State) : (floorSettle old s).mem.standing = s.mem.standing := by
  simp [floorSettle]

@[simp] theorem autoRemap_standing (k : Fin 8) (x : Fin 16) (s : State) :
    (autoRemap k x s).mem.standing = s.mem.standing := by
  fun_cases autoRemap k x s <;> simp

@[simp] theorem enterAbsent_standing (k : Fin 8) (p : Fin 16) (s : State) :
    (enterAbsent k p s).mem.standing = s.mem.standing := by simp [enterAbsent]

@[simp] theorem missedReply_standing (k : Fin 8) (f : LinkFrame) (s : State) :
    (missedReply k f s).mem.standing = s.mem.standing := by
  fun_cases missedReply k f s <;> simp

@[simp] theorem disableByPolicy_mem (k : Fin 8) (p : Fin 16) (s : State) : (disableByPolicy k p s).mem = s.mem := by
  fun_cases disableByPolicy k p s <;> rfl

@[simp] theorem takeTrip_standing (k : Fin 8) (p : Fin 16) (left : ModuleState) (s : State) :
    (takeTrip k p left s).mem.standing = s.mem.standing := by
  unfold takeTrip
  simp only
  split <;> simp

@[simp] theorem goodReply_standing (k : Fin 8) (f : LinkFrame) (trip : Bool) (s : State) :
    (goodReply k f trip s).mem.standing = s.mem.standing := by
  fun_cases goodReply k f trip s <;> simp +zetaDelta

@[simp] theorem quietLink_mem (k : Fin 8) (s : State) : (quietLink k s).mem = s.mem := rfl

@[simp] theorem setWire_mem (k : Fin 8) (w : Wire) (s : State) : (setWire k w s).mem = s.mem := rfl

@[simp] theorem stopFlash_mem (k : Fin 8) (m : Fin 16) (s : State) : (stopFlash k m s).mem = s.mem := rfl

@[simp] theorem frameGone_mem (k : Fin 8) (s : State) : (frameGone k s).mem = s.mem := by
  fun_cases frameGone k s <;> simp

@[simp] theorem rearmLinks_standing (ks : List (Fin 8)) (s : State) :
    (rearmLinks ks s).mem.standing = s.mem.standing :=
  foldl_keeps (fun s : State => s.mem.standing) (fun _ _ => by simp) ks s

@[simp] theorem moveByCommand_standing (k : Fin 8) (m p : Fin 16) (s : State) :
    (moveByCommand k m p s).mem.standing = s.mem.standing := by simp [moveByCommand]

@[simp] theorem remapTaken_standing (s : State) : (remapTaken s).mem.standing = s.mem.standing := by
  fun_cases remapTaken s <;> simp

@[simp] theorem restoreTaken_standing (s : State) : (restoreTaken s).mem.standing = s.mem.standing := by
  fun_cases restoreTaken s <;> simp

@[simp] theorem rearmTaken_standing (s : State) : (rearmTaken s).mem.standing = s.mem.standing := by
  fun_cases rearmTaken s <;> simp [rearmDone]

@[simp] theorem hotCheckPassed_standing (h : HotCheck) (s : State) :
    (hotCheckPassed h s).mem.standing = s.mem.standing := by simp [hotCheckPassed]

@[simp] theorem cutLampTest_standing (s : State) : (cutLampTest s).mem.standing = s.mem.standing := by
  fun_cases cutLampTest s <;> simp

@[simp] theorem takeFilter_standing (c : Comparator) (s : State) : (takeFilter c s).mem.standing = s.mem.standing := by
  fun_cases takeFilter c s <;> simp +zetaDelta [hotRise, llowRise]

@[simp] theorem changeInput_standing (c : Comparator) (level : Bool) (s : State) :
    (changeInput c level s).mem.standing = s.mem.standing := by
  unfold changeInput
  fun_cases failHotCheck c level (setDrive (s.drive.setFilter c ((s.drive.filter c).change s.ctl.timeBase level)) s) <;>
    simp

@[simp] theorem takeSample_standing (s : State) : (takeSample s).mem.standing = s.mem.standing := by simp [takeSample]

@[simp] theorem testNext_standing (ks : List (Fin 8)) (s : State) :
    (testNext ks s).mem.standing = s.mem.standing := by
  cases ks <;> simp [testNext]

@[simp] theorem lampTestTaken_standing (s : State) : (lampTestTaken s).mem.standing = s.mem.standing := by
  fun_cases lampTestTaken s <;> simp

@[simp] theorem clearLogTaken_standing (s : State) : (clearLogTaken s).mem.standing = s.mem.standing := by
  simp [clearLogTaken]

/-! ### The ticker -/

@[simp] theorem updateTape_standing (t : TickerUnit) (s : State) :
    (updateTape t s).mem.standing = s.mem.standing := by simp [updateTape]

@[simp] theorem printTrade_standing (i : Nat) (t : TradePart) (s : State) :
    (printTrade i t s).mem.standing = s.mem.standing := by
  fun_cases printTrade i t s with
  | case1 => rfl
  | case2 r => fun_cases joinPrint ⟨i, t.price, r.base, t.size, t.captured⟩ r s <;> simp
  | case3 => rfl

@[simp] theorem takePrint_standing (s : State) : (takePrint s).mem.standing = s.mem.standing := by
  unfold takePrint
  split
  · rfl
  · simp only [post_standing]
    split <;> simp

@[simp] theorem tapeHoldTaken_standing (s : State) : (tapeHoldTaken s).mem.standing = s.mem.standing := by
  simp [tapeHoldTaken]

@[simp] theorem tapeResumeTaken_standing (s : State) : (tapeResumeTaken s).mem.standing = s.mem.standing := by
  simp [tapeResumeTaken]

@[simp] theorem ribbonStep_mem (s : State) : (ribbonStep s).mem = s.mem := by
  fun_cases ribbonStep s <;> rfl

@[simp] theorem blankOutOver_mem (s : State) : (blankOutOver s).mem = s.mem := by
  fun_cases blankOutOver s <;> simp

/-! ### The terminal lines -/

@[simp] theorem setLine_standing (n : Fin 16) (l : Line) (s : State) : (setLine n l s).mem.standing = s.mem.standing :=
  (setLine_onlyPosts n l s).standing

@[simp] theorem countBad_standing (n : Fin 16) (cause : BadCause) (s : State) :
    (countBad n cause s).mem.standing = s.mem.standing := by
  fun_cases countBad n cause s <;> simp

@[simp] theorem badFrame_standing (n : Fin 16) (cause : BadCause) (s : State) :
    (badFrame n cause s).mem.standing = s.mem.standing := by simp [badFrame]

@[simp] theorem changeWatchers_mem (i : Nat) (f : List (Fin 16) → List (Fin 16)) (s : State) :
    (changeWatchers i f s).mem = s.mem := by
  fun_cases changeWatchers i f s <;> rfl

@[simp] theorem requestWatch_standing (n : Fin 16) (body : List Byte) (s : State) :
    (requestWatch n body s).mem.standing = s.mem.standing := by
  fun_cases requestWatch n body s <;> simp

@[simp] theorem requestDrop_standing (n : Fin 16) (body : List Byte) (s : State) :
    (requestDrop n body s).mem.standing = s.mem.standing := by
  fun_cases requestDrop n body s <;> simp

@[simp] theorem requestPage_standing (n : Fin 16) (body : List Byte) (s : State) :
    (requestPage n body s).mem.standing = s.mem.standing := by
  fun_cases requestPage n body s <;> simp

@[simp] theorem requestMessage_standing (n : Fin 16) (body : List Byte) (s : State) :
    (requestMessage n body s).mem.standing = s.mem.standing := by
  fun_cases requestMessage n body s <;> simp [submitMessage]

@[simp] theorem actOnFrame_standing (n : Fin 16) (kind : Byte) (body : List Byte) (s : State) :
    (actOnFrame n kind body s).mem.standing = s.mem.standing := by
  fun_cases actOnFrame n kind body s <;> simp

@[simp] theorem goodFrame_standing (n : Fin 16) (kind : Byte) (body : List Byte) (s : State) :
    (goodFrame n kind body s).mem.standing = s.mem.standing := by
  unfold goodFrame
  simp only
  split <;> simp

@[simp] theorem markArrives_standing (n : Fin 16) (s : State) : (markArrives n s).mem.standing = s.mem.standing := by
  unfold markArrives
  simp only [setLine_standing]
  split <;> simp

@[simp] theorem receiveChar_standing (n : Fin 16) (c : RxChar) (s : State) :
    (receiveChar n c s).mem.standing = s.mem.standing := by
  fun_cases receiveChar n c s <;> simp

@[simp] theorem onGoodFrame_standing (n : Fin 16) (kinds : Byte → Bool) (s : State) :
    (onGoodFrame n kinds s).mem.standing = s.mem.standing := by
  fun_cases onGoodFrame n kinds s <;> simp

@[simp] theorem dozeOver_standing (n : Fin 16) (s : State) : (dozeOver n s).mem.standing = s.mem.standing := by
  simp [dozeOver]

@[simp] theorem serveLine_standing (cls : Nat) (n : Fin 16) (s : State) :
    (serveLine cls n s).mem.standing = s.mem.standing := by
  fun_cases serveLine cls n s <;> simp +zetaDelta

@[simp] theorem noticeLines_standing (i : Nat) (s : State) : (noticeLines i s).mem.standing = s.mem.standing := by
  fun_cases noticeLines i s with
  | case1 => rfl
  | case2 r => exact foldl_keeps (fun s : State => s.mem.standing) (fun _ _ => by split <;> simp) r.watchers s

@[simp] theorem reportWritten_standing (n : Fin 16) (seq : Byte) (s : State) :
    (reportWritten n seq s).mem.standing = s.mem.standing := by
  fun_cases reportWritten n seq s <;> simp

@[simp] theorem leaveWatchers_mem (n : Fin 16) (watch : List Nat) (s : State) :
    (leaveWatchers n watch s).mem = s.mem :=
  foldl_keeps State.mem (fun _ _ => by simp) watch s

@[simp] theorem carrySetLine_standing (n : Fin 16) (rate : Rate) (cls doze : Nat) (s : State) :
    (carrySetLine n rate cls doze s).mem.standing = s.mem.standing := by
  fun_cases carrySetLine n rate cls doze s <;> simp

@[simp] theorem setLineTaken_standing (s : State) : (setLineTaken s).mem.standing = s.mem.standing := by
  fun_cases setLineTaken s <;> simp

/-! ### Prices and capture -/

@[simp] theorem notify_standing (i : Nat) (trade : Option TradePart) (s : State) :
    (notify i trade s).mem.standing = s.mem.standing := by
  cases trade <;> simp [notify]

@[simp] theorem tradeArrives_standing (i u z : Nat) (captured : Time) (s : State) :
    (tradeArrives i u z captured s).1.mem.standing = s.mem.standing := by
  unfold tradeArrives
  split
  · rfl
  · simp only
    split <;> split <;> simp

@[simp] theorem cancelHold_standing (i : Nat) (s : State) : (cancelHold i s).mem.standing = s.mem.standing := by
  fun_cases cancelHold i s <;> simp

theorem settleHold_standing {settle : Nat → Instrument → Hold → State → State}
    (h : ∀ i r d u, (settle i r d u).mem.standing = u.mem.standing) (s : State) :
    (settleHold settle s).mem.standing = s.mem.standing := by
  fun_cases settleHold settle s <;> simp [h]

@[simp] theorem confirmHold_standing (i : Nat) (r : Instrument) (h : Hold) (s : State) :
    (confirmHold i r h s).mem.standing = s.mem.standing := by simp [confirmHold]

@[simp] theorem withdrawHold_standing (i : Nat) (r : Instrument) (h : Hold) (s : State) :
    (withdrawHold i r h s).mem.standing = s.mem.standing := by simp [withdrawHold]

@[simp] theorem applyHalt_standing (i : Nat) (c : CommitFlags) (s : State) :
    (applyHalt i c s).mem.standing = s.mem.standing := by
  fun_cases applyHalt i c s <;> simp

@[simp] theorem applyQuote_mem (i : Nat) (c : CommitFlags) (v : FieldValues) (s : State) :
    (applyQuote i c v s).mem = s.mem := by
  fun_cases applyQuote i c v s <;> rfl

@[simp] theorem applyTrade_standing (i : Nat) (c : CommitFlags) (seq : BitVec 12) (time : Time) (v : FieldValues)
    (s : State) : (applyTrade i c seq time v s).1.mem.standing = s.mem.standing := by
  fun_cases applyTrade i c seq time v s <;> simp

@[simp] theorem applyFast_mem (i : Nat) (c : CommitFlags) (s : State) : (applyFast i c s).mem = s.mem := by
  fun_cases applyFast i c s <;> rfl

@[simp] theorem applyCommit_standing (i : Nat) (c : CommitFlags) (seq : BitVec 12) (time : Time) (v : FieldValues)
    (s : State) : (applyCommit i c seq time v s).mem.standing = s.mem.standing := by
  unfold applyCommit
  simp only
  split
  · split <;> simp
  · simp

@[simp] theorem drainGroupless_standing (fuel : Nat) (s : State) :
    (drainGroupless fuel s).mem.standing = s.mem.standing := by
  fun_induction drainGroupless fuel s <;> simp_all

@[simp] theorem placeFetch_standing (s : State) : (placeFetch s).mem.standing = s.mem.standing := by
  fun_cases placeFetch s <;> simp

@[simp] theorem placePhase2_standing (s : State) : (placePhase2 s).mem.standing = s.mem.standing := by
  fun_cases placePhase2 s <;> simp

@[simp] theorem pumpCapture_standing (s : State) : (pumpCapture s).mem.standing = s.mem.standing := by
  unfold pumpCapture
  simp only
  split
  · simp
  · split
    · split <;> simp
    · simp
    · simp
    · simp

theorem byStanding_standing {take : State → State} (h : ∀ u, (take u).mem.standing = u.mem.standing) (i : Nat)
    (s : State) : (byStanding i take s).mem.standing = s.mem.standing := by
  fun_cases byStanding i take s with
  | case1 => exact h s
  | case2 => rfl
  | case3 => fun_cases tearPhase2 s <;> rfl

@[simp] theorem takeField_mem (i : Nat) (n : Fin 7) (w : Word) (s : State) : (takeField i n w s).mem = s.mem := by
  have stage (u : State) : (stageWord i n w u).mem = u.mem := by fun_cases stageWord i n w u <;> rfl
  have tear : (tearFetch i s).mem = s.mem := by fun_cases tearFetch i s <;> rfl
  rw [takeField, stage, tear]

@[simp] theorem settleCommit_standing (i : Nat) (c : CommitFlags) (seq : BitVec 12) (s : State) :
    (settleCommit i c seq s).mem.standing = s.mem.standing := by
  fun_cases settleCommit i c seq s <;> simp +zetaDelta

@[simp] theorem acceptCommit_standing (i : Nat) (w : Word) (r : Instrument) (s : State) :
    (acceptCommit i w r s).mem.standing = s.mem.standing := by
  unfold acceptCommit
  simp only [settleCommit_standing]
  split <;> simp

@[simp] theorem takeCommit_standing (i : Nat) (w : Word) (s : State) :
    (takeCommit i w s).mem.standing = s.mem.standing := by
  fun_cases takeCommit i w s <;> simp

/-- A served part read keeps what stands behind the port when both ways of taking its word do. -/
theorem onPartRead_standing {discarded : State → State} {take : Word → Bool → State → State}
    (hd : ∀ u, (discarded u).mem.standing = u.mem.standing)
    (ht : ∀ w good u, (take w good u).mem.standing = u.mem.standing) (which : PartSource → Bool) (source : Nat)
    (s : State) : (onPartRead which source discarded take s).mem.standing = s.mem.standing := by
  have back (p : PartCycle) : (partReturn p source s).mem.standing = s.mem.standing := by
    unfold partReturn
    simp only [freePort_mem, MemoryPath.standing_setPort]
    split
    · rfl
    · simp
  fun_cases onPartRead which source discarded take s <;> simp [hd, ht, back]

@[simp] theorem endAttempt_standing (e : FetchEntry) (rest : List FetchEntry) (plan : List (Fin 7))
    (got : List (Word × Bool)) (s : State) : (endAttempt e rest plan got s).mem.standing = s.mem.standing := by
  fun_cases endAttempt e rest plan got s <;> simp +zetaDelta

@[simp] theorem takeFetched_standing (w : Word) (good : Bool) (s : State) :
    (takeFetched w good s).mem.standing = s.mem.standing := by
  fun_cases takeFetched w good s <;> simp

/-! ### LOAD and CLOSE -/

@[simp] theorem clearForLoad_standing (s : State) : (clearForLoad s).mem.standing = s.mem.standing := by
  simp [clearForLoad]

@[simp] theorem loadRefused_standing (code : ResultCode) (d : Nat) (s : State) :
    (loadRefused code d s).mem.standing = s.mem.standing := by simp [loadRefused]

@[simp] theorem placeDirectory_standing (d : DirectoryRead) (s : State) :
    (placeDirectory d s).mem.standing = s.mem.standing := by
  fun_cases placeDirectory d s <;> simp

@[simp] theorem pumpDirectory_standing (s : State) : (pumpDirectory s).mem.standing = s.mem.standing := by
  fun_cases pumpDirectory s <;> simp

@[simp] theorem readOn_standing (d : DirectoryRead) (s : State) : (readOn d s).mem.standing = s.mem.standing := by
  simp [readOn]

@[simp] theorem loadTaken_standing (s : State) : (loadTaken s).mem.standing = s.mem.standing := by
  fun_cases loadTaken s <;> simp +zetaDelta

@[simp] theorem fillWatchLists_standing (header : List Word) (s : State) :
    (fillWatchLists header s).mem.standing = s.mem.standing :=
  foldl_keeps (fun s : State => s.mem.standing) (fun _ _ => by simp) all16 s

@[simp] theorem endPhase1_standing (header : List Word) (rs : List Instrument) (s : State) :
    (endPhase1 header rs s).mem.standing = s.mem.standing := by simp [endPhase1]

@[simp] theorem takeHeaderWord_standing (d : DirectoryRead) (w : Word) (s : State) :
    (takeHeaderWord d w s).mem.standing = s.mem.standing := by
  fun_cases takeHeaderWord d w s <;> simp

@[simp] theorem takeEntryWord_standing (d : DirectoryRead) (w : Word) (s : State) :
    (takeEntryWord d w s).mem.standing = s.mem.standing := by
  fun_cases takeEntryWord d w s <;> simp

@[simp] theorem takeDirectoryWord_standing (w : Word) (good : Bool) (s : State) :
    (takeDirectoryWord w good s).mem.standing = s.mem.standing := by
  fun_cases takeDirectoryWord w good s <;> simp

@[simp] theorem loadEnd_standing (header : List Word) (s : State) :
    (loadEnd header s).mem.standing = s.mem.standing := by simp [loadEnd, linesUp, linksUp]

@[simp] theorem nextInstrument_standing (r : RecordRead) (s : State) :
    (nextInstrument r s).mem.standing = s.mem.standing := by
  fun_cases nextInstrument r s <;> simp

@[simp] theorem endRecordRead_standing (r : RecordRead) (got : List (Word × Bool)) (s : State) :
    (endRecordRead r got s).mem.standing = s.mem.standing := by
  unfold endRecordRead
  split
  · rfl
  · simp only [nextInstrument_standing]
    split <;> split <;> simp

@[simp] theorem takeRecordWord_standing (w : Word) (good : Bool) (s : State) :
    (takeRecordWord w good s).mem.standing = s.mem.standing := by
  fun_cases takeRecordWord w good s <;> simp

@[simp] theorem noticeAll_standing (s : State) : (noticeAll s).mem.standing = s.mem.standing := by
  simp only [noticeAll, chooseAll_mem, recomputeBoards_mem]
  exact foldl_keeps (fun s : State => s.mem.standing) (fun _ _ => by simp) _ s

@[simp] theorem closeDay_standing (s : State) : (closeDay s).mem.standing = s.mem.standing := by
  fun_cases closeDay s <;> simp

/-! ### The Control Unit's own events -/

@[simp] theorem latchWord_mem (off : Nat) (w : Word) (s : State) : (latchWord off w s).mem = s.mem := by
  fun_cases latchWord off w s <;> rfl

@[simp] theorem takeFaultIndex_standing (off : Nat) (w : Word) (s : State) :
    (takeFaultIndex off w s).mem.standing = s.mem.standing := by
  fun_cases takeFaultIndex off w s <;> simp

@[simp] theorem takeInboxIndex_standing (off : Nat) (w : Word) (s : State) :
    (takeInboxIndex off w s).mem.standing = s.mem.standing := by
  fun_cases takeInboxIndex off w s <;> simp

@[simp] theorem clearCausesTaken_standing (s : State) : (clearCausesTaken s).mem.standing = s.mem.standing := by
  fun_cases clearCausesTaken s <;> simp

/-! ### The events -/

/-- What an answered state keeps behind the port, the next state keeps: the grant stands between them. -/
theorem answer_standing {u s t : State} (h : answer u = .next t) (hu : u.mem.standing = s.mem.standing) :
    t.mem.standing = s.mem.standing := by
  cases h
  rw [grant_standing, hu]

/-- The same for the trap alone. -/
theorem answer_trap {u s t : State} (h : answer u = .next t) (hu : u.mem.trap = s.mem.trap) :
    t.mem.trap = s.mem.trap := by
  cases h
  rw [grant_trap, hu]

/-- The events whose meaning is the Memory Path's own (chapter 1): host cycles, refresh, the part writes on the RAM
port, the guard and trap commands, and the resets. -/
def ofMemoryPath : Instr → Bool
  | .hostCycle _ => true
  | .hostReadServed => true
  | .hostWriteServed => true
  | .refreshRequest => true
  | .refreshCycle => true
  | .externalReset => true
  | .externalResetRelease _ => true
  | .powerOnReset _ => true
  | .supplyLowReset => true
  | .supplyReturn _ => true
  | .regionClearWritten => true
  | .resetEnd _ => true
  | .setGuard => true
  | .lockGuards => true
  | .armTrap => true
  | .writeBackWritten => true
  | _ => false

/-- Every other event keeps the Memory Path but for what stands at the port. -/
theorem exec_standing {c : Instr} {s t : State} (hc : ofMemoryPath c = false) (h : exec c s = .next t) :
    t.mem.standing = s.mem.standing := by
  cases c with
  | parameterWordWrite => exact answer_standing h (onControlWord_standing (by simp) _ s)
  | faultReadIndexWrite => exact answer_standing h (onControlWord_standing takeFaultIndex_standing _ s)
  | inboxReadIndexWrite => exact answer_standing h (onControlWord_standing takeInboxIndex_standing _ s)
  | alertEnablesWrite => exact answer_standing h (onControlWord_standing (take := takeEnables) (fun _ _ _ => rfl) _ s)
  | unknownCommand => exact answer_standing h (onCommand_standing (fun _ => rfl) _ s)
  | load => exact answer_standing h (onCommand_standing loadTaken_standing _ s)
  | close => exact answer_standing h (onCommand_standing closeDay_standing _ s)
  | confirm => exact answer_standing h (onCommand_standing (settleHold_standing confirmHold_standing) _ s)
  | withdraw => exact answer_standing h (onCommand_standing (settleHold_standing withdrawHold_standing) _ s)
  | remap => exact answer_standing h (onCommand_standing remapTaken_standing _ s)
  | restore => exact answer_standing h (onCommand_standing restoreTaken_standing _ s)
  | rearm => exact answer_standing h (onCommand_standing rearmTaken_standing _ s)
  | lampTest => exact answer_standing h (onCommand_standing lampTestTaken_standing _ s)
  | clearLimitLog => exact answer_standing h (onCommand_standing clearLogTaken_standing _ s)
  | tapeHold => exact answer_standing h (onCommand_standing tapeHoldTaken_standing _ s)
  | tapeResume => exact answer_standing h (onCommand_standing tapeResumeTaken_standing _ s)
  | setLine => exact answer_standing h (onCommand_standing setLineTaken_standing _ s)
  | clearCauses => exact answer_standing h (onCommand_standing clearCausesTaken_standing _ s)
  | directoryReadReturn =>
    refine answer_standing h ?_
    split
    · split <;> simp
    · exact onPartRead_standing pumpDirectory_standing takeDirectoryWord_standing _ 3 s
  | phase2ReadReturn =>
    exact answer_standing h (onPartRead_standing pumpCapture_standing (by simp) _ 2 s)
  | fetchReadReturn => exact answer_standing h (onPartRead_standing pumpCapture_standing (by simp) _ 2 s)
  | fieldWrite =>
    refine answer_standing h (onCaptureWord_standing (fun i n w u => ?_) _ s)
    split
    · exact byStanding_standing (by simp) i u
    · rfl
  | commitWrite =>
    refine answer_standing h (onCaptureWord_standing (fun i _ w u => ?_) _ s)
    rw [pumpCapture_standing, byStanding_standing (takeCommit_standing i w)]
  | frameSent k => exact answer_standing h (by simp)
  | pollDue k => exact answer_standing h (by simp)
  | transmitterEmpty n => exact answer_standing h (setLine_standing n _ s)
  | timeBaseAdvance => exact answer_standing h rfl
  | watchRequest n | watchDrop n | pageRequest n | messageRequest n | ping n | goodFrameOtherKind n =>
    exact answer_standing h (onGoodFrame_standing n _ s)
  | reply k _ _ _ =>
    refine answer_standing h ?_
    split
    · rw [boardSettle_standing]
      split <;> simp
    · rfl
  | replyTimeout k =>
    refine answer_standing h ?_
    split
    · split <;> simp
    · rfl
  | holdExpired i =>
    refine answer_standing h ?_
    split
    · rfl
    · split
      · rfl
      · split <;> simp
  | staleStaging _ | flashTimerExpiry _ _ | filterTaken _ | hotCheckEnd | lampTestLinkEnd | frameAbandoned _
  | dozeExpiry _ | lineService =>
    refine answer_standing h ?_
    split
    · rfl
    · split <;> simp
  | comparatorInputChange _ _ | governorSample | take | ribbonStep | blankOutEnd | markReceived _
  | characterReceived _ _ | badFrame _ _ => exact answer_standing h (by split <;> simp)
  | _ => cases hc

end Sys2Proof.Machine
end

section
/-! What changes the parity trap: ARM TRAP, which loads it, a host cycle, which may disarm it, and the beginning of a
reset, which clears it (R12, R13). -/

namespace Sys2Proof.Machine

open Sys2Proof

/-! ### The Memory Path's own events keep the trap -/

@[simp] theorem pumpWriteBack_trap (s : State) : (pumpWriteBack s).mem.trap = s.mem.trap :=
  MemoryPath.trap_of_standing (pumpWriteBack_standing s)

@[simp] theorem postFault_trap (k : FaultKind) (subj : Subject) (d : List Nat) (s : State) :
    (postFault k subj d s).mem.trap = s.mem.trap :=
  MemoryPath.trap_of_standing (postFault_standing k subj d s)

@[simp] theorem postAll_trap (ts : List TableWord) (s : State) : (postAll ts s).mem.trap = s.mem.trap :=
  MemoryPath.trap_of_standing (postAll_standing ts s)

@[simp] theorem endCommand_trap (code : Option ResultCode) (d : Nat) (s : State) :
    (endCommand code d s).mem.trap = s.mem.trap :=
  MemoryPath.trap_of_standing (endCommand_standing code d s)

@[simp] theorem handOver_mem (a : Nat) (w : Word) (s : State) : (handOver a w s).mem = s.mem := by
  fun_cases handOver a w s <;> rfl

@[simp] theorem serveRead_trap (c : HostCycle) (cut : Bool) (s : State) :
    (serveRead c cut s).mem.trap = s.mem.trap := by
  fun_cases serveRead c cut s <;> simp +zetaDelta

@[simp] theorem serveWrite_trap (c : HostCycle) (cut : Bool) (s : State) :
    (serveWrite c cut s).mem.trap = s.mem.trap := by
  fun_cases serveWrite c cut s <;> simp +zetaDelta

@[simp] theorem placeWriteBack_trap (e : WbEntry) (n : Nat) (s : State) :
    (placeWriteBack e n s).mem.trap = s.mem.trap := rfl

@[simp] theorem completeEntry_standing (e : WbEntry) (s : State) :
    (completeEntry e s).mem.standing = s.mem.standing := by
  cases e <;> simp [completeEntry]

@[simp] theorem writeBackNext_trap (s : State) : (writeBackNext s).mem.trap = s.mem.trap := by
  fun_cases writeBackNext s with
  | case1 => simp
  | case2 => simp
  | case3 e => simp [MemoryPath.trap_of_standing (completeEntry_standing e (setActive none s))]

@[simp] theorem placeClear_trap (s : State) : (placeClear s).mem.trap = s.mem.trap := by
  fun_cases placeClear s <;> simp

@[simp] theorem clearNext_trap (s : State) : (clearNext s).mem.trap = s.mem.trap := by
  fun_cases clearNext s <;> simp +zetaDelta

@[simp] theorem startClearing_trap (p : Straps) (s : State) : (startClearing p s).mem.trap = s.mem.trap := by
  simp [startClearing]

@[simp] theorem readStraps_trap (p : Straps) (s : State) : (readStraps p s).mem.trap = s.mem.trap := rfl

@[simp] theorem resetBlocks_trap (p : Straps) (s : State) : (resetBlocks p s).mem.trap = s.mem.trap := rfl

@[simp] theorem setGuardTaken_trap (s : State) : (setGuardTaken s).mem.trap = s.mem.trap := by
  fun_cases setGuardTaken s with
  | case1 => exact endCommand_trap (some .locked) 0 s
  | case2 => exact endCommand_trap (some .badParameter) 0 s
  | case3 _ n g => exact endCommand_trap none 0 (setWindow n g s)

@[simp] theorem lockGuardsTaken_trap (s : State) : (lockGuardsTaken s).mem.trap = s.mem.trap :=
  endCommand_trap none 0 { s with mem := { s.mem with guardLock := true } }

/-- No command but ARM TRAP, and no event but a host cycle and the beginning of a reset, changes the trap. -/
theorem exec_trap {c : Instr} {s t : State} (harm : c ≠ .armTrap) (hhost : ∀ b, c ≠ .hostCycle b)
    (hreset : beginsReset c = false) (h : exec c s = .next t) : t.mem.trap = s.mem.trap := by
  by_cases hc : ofMemoryPath c = false
  · exact MemoryPath.trap_of_standing (exec_standing hc h)
  cases c with
  | armTrap => exact absurd rfl harm
  | hostCycle b => exact absurd rfl (hhost b)
  | externalReset | powerOnReset _ | supplyLowReset => cases hreset
  | setGuard => exact answer_trap h (onCommand_keeps MemoryPath.trap (fun _ => rfl) setGuardTaken_trap s)
  | lockGuards => exact answer_trap h (onCommand_keeps MemoryPath.trap (fun _ => rfl) lockGuardsTaken_trap s)
  | refreshRequest | refreshCycle | supplyReturn _ | externalResetRelease _ | resetEnd _ =>
    exact answer_trap h (by split <;> simp)
  | hostReadServed | hostWriteServed | regionClearWritten =>
    refine answer_trap h ?_
    split
    · split <;> simp
    · rfl
  | writeBackWritten =>
    refine answer_trap h ?_
    split
    · split
      · simp only
        split <;> simp
      · rfl
    · rfl
  | _ => exact absurd rfl hc

/-! ### ARM TRAP loads the trap -/

/-- The parity trap is replaced. -/
def setTrap (x : Trap) (s : State) : State := { s with mem := { s.mem with trap := x } }

/-- A replacement of the trap goes before the posting. -/
theorem OnlyPosts.setTrap {a b : State} (h : OnlyPosts a b) (x : Trap) :
    OnlyPosts (Machine.setTrap x a) (Machine.setTrap x b) :=
  h.map (Machine.setTrap x) (fun _ _ => rfl) (fun w _ => by cases w <;> rfl)

/-- The trap that the words of a compare value and of a mask give, armed (R13). -/
def armedTrap (compareHigh compareLow maskHigh maskLow : Word) : Trap :=
  ⟨BitVec.ofNat 20 (compareHigh.toNat * 65536 + compareLow.toNat),
    BitVec.ofNat 20 (maskHigh.toNat * 65536 + maskLow.toNat), true⟩

/-- Two words without a bit above the 20th are an address. -/
theorem addr20_of_lt {high : Word} (low : Word) (h : high.toNat < 16) :
    addr20 high low = some (high.toNat * 65536 + low.toNat) := if_pos h

/-- Two words with a bit above the 20th are none. -/
theorem addr20_of_le {high : Word} (low : Word) (h : 16 ≤ high.toNat) : addr20 high low = none :=
  if_neg (Nat.not_lt.mpr h)

theorem armTrapTaken_of_lt {s : State} (hc : (s.param 0).toNat < 16) (hm : (s.param 2).toNat < 16) :
    armTrapTaken s =
      endCommand none 0 (setTrap (armedTrap (s.param 0) (s.param 1) (s.param 2) (s.param 3)) s) := by
  unfold armTrapTaken
  rw [addr20_of_lt _ hc, addr20_of_lt _ hm]
  rfl

theorem armTrapTaken_of_le {s : State} (h : 16 ≤ (s.param 0).toNat ∨ 16 ≤ (s.param 2).toNat) :
    armTrapTaken s = endCommand (some .badParameter) 0 s := by
  unfold armTrapTaken
  rcases h with hc | hm
  · rw [addr20_of_le _ hc]
    rfl
  · rw [addr20_of_le _ hm]
    cases addr20 (s.param 0) (s.param 1) <;> rfl

/-- An offered ARM TRAP is never refused before its own rule: it is carried out whatever the part state (R25). -/
theorem exec_armTrap_offered {s : State} {w : Word} (ho : s.Offered w) (hc : commandCode w = 15) :
    exec .armTrap s = answer (armTrapTaken (takeCommand w (setCommandCause false (popHanded s)))) :=
  congrArg answer
    (onCommand_taken ho (by simp [hc]) (by simp [hc, unknownCode]) (fun _ => by simp [hc, takenUnloaded]))

/-- Settles O21: ARM TRAP is decided by its parameters alone, and no other event that begins no reset reaches the
trap but a host cycle. -/
theorem armTrapDone : Obligations.ArmTrapDone := by
  refine ⟨fun w s ho hc => ?_, fun c s t harm hhost hreset h => exec_trap harm hhost hreset h⟩
  have hexec := exec_armTrap_offered ho hc
  have htaken := takeCommand_onlyPosts w s
  generalize hu : takeCommand w (setCommandCause false (popHanded s)) = u at hexec htaken
  have hp (n : Fin 6) : u.param n = s.ctl.latches[n] := hu ▸ takeCommand_param w s n
  constructor
  · intro h0 h2
    rw [armTrapTaken_of_lt (by rwa [hp]) (by rwa [hp]), hp, hp, hp, hp] at hexec
    exact ⟨_, hexec, (htaken.setTrap (armedTrap _ _ _ _)).endCommand none 0, (endCommand_onlyPosts _ _ _).2⟩
  · intro h
    rw [armTrapTaken_of_le (by rwa [hp, hp])] at hexec
    exact ⟨_, hexec, htaken.endCommand (some .badParameter) 0, (endCommand_onlyPosts _ _ _).2⟩

end Sys2Proof.Machine
end

section
/-! What a handed read index does to the fault log and to the inbox (R21, R33, R35). -/

namespace Sys2Proof.Machine

open Sys2Proof

/-! ### A handed control word -/

/-- Outside a reset, a handed word at an offset that the unit admits is taken. -/
theorem onControlWord_taken {offs : Nat → Bool} {take : Nat → Word → State → State} {s : State} {off : Nat} {w : Word}
    {rest : List Handed} (hr : s.rst.inReset = false) (hh : s.handed = .control off w :: rest)
    (ho : offs off = true) : onControlWord offs take s = take off w { s with handed := rest } := by
  simp [onControlWord, popHanded, hh, hr, ho]

/-! ### Acceptance -/

theorem indexAccepted_iff {n : Nat} {w : Word} {writeIndex readIndex : BitVec n} :
    indexAccepted w writeIndex readIndex = true ↔
      w.toNat < 2 ^ n ∧ (BitVec.ofNat n w.toNat - readIndex).toNat ≤ (writeIndex - readIndex).toNat := by
  simp [indexAccepted]

/-- An index is ignored exactly when it is out of range or frees more than is unread. -/
theorem indexAccepted_eq_false_iff {n : Nat} {w : Word} {writeIndex readIndex : BitVec n} :
    indexAccepted w writeIndex readIndex = false ↔
      2 ^ n ≤ w.toNat ∨ (writeIndex - readIndex).toNat < (BitVec.ofNat n w.toNat - readIndex).toNat := by
  rw [← Bool.not_eq_true, indexAccepted_iff, not_and_or, not_lt, not_le]

/-! ### The fault read index (R33) -/

/-- The fault log after a read index has been accepted: one that frees a record clears the overflow mark. -/
def FaultLog.withReadIndex (g : FaultLog) (p : BitVec 5) : FaultLog :=
  { g with readIndex := p, overflowMark := if p = g.readIndex then g.overflowMark else false }

theorem takeFaultIndex_of_accepted {w : Word} {s : State} (off : Nat)
    (h : indexAccepted w s.ctl.log.writeIndex s.ctl.log.readIndex = true) :
    takeFaultIndex off w s =
      postChanged s [.faultStatus] (setLog (s.ctl.log.withReadIndex (BitVec.ofNat 5 w.toNat)) s) := by
  have hmark (p r : BitVec 5) (m : Bool) : (m && p == r) = if p = r then m else false := by
    by_cases hp : p = r <;> simp [hp]
  simp only [takeFaultIndex, h, if_true, hmark, FaultLog.withReadIndex]

theorem takeFaultIndex_of_ignored {w : Word} {s : State} (off : Nat)
    (h : indexAccepted w s.ctl.log.writeIndex s.ctl.log.readIndex = false) : takeFaultIndex off w s = s := by
  simp [takeFaultIndex, h]

/-- The fault status word holds the read index: it differs when the index does, whatever the overflow mark. -/
theorem faultStatus_ne_of_readIndex_ne {s : State} {p : BitVec 5} (hp : p ≠ s.ctl.log.readIndex) :
    (setLog (s.ctl.log.withReadIndex p) s).tableWords .faultStatus ≠ s.tableWords .faultStatus := by
  have hne : p.toNat ≠ s.ctl.log.readIndex.toNat := fun e => hp (BitVec.eq_of_toNat_eq e)
  have hmark : bitOf s.ctl.log.overflowMark 15 = 0 ∨ bitOf s.ctl.log.overflowMark 15 = 32768 := by
    cases s.ctl.log.overflowMark <;> simp [bitOf]
  have hclear : bitOf false 15 = 0 := rfl
  intro e
  have hnat := congrArg BitVec.toNat (List.cons.inj e).1
  simp only [setLog, FaultLog.withReadIndex, if_neg hp, hclear, BitVec.toNat_ofNat] at hnat
  omega

/-! ### The inbox read index (R35) -/

/-- The inbox read index is changed. -/
def setInboxRead (p : BitVec 6) (s : State) : State :=
  { s with ctl := { s.ctl with inbox := { s.ctl.inbox with readIndex := p } } }

theorem takeInboxIndex_of_accepted {w : Word} {s : State} (off : Nat)
    (h : indexAccepted w s.ctl.inbox.writeIndex s.ctl.inbox.readIndex = true) :
    takeInboxIndex off w s = postChanged s [.inboxStatus] (setInboxRead (BitVec.ofNat 6 w.toNat) s) := if_pos h

theorem takeInboxIndex_of_ignored {w : Word} {s : State} (off : Nat)
    (h : indexAccepted w s.ctl.inbox.writeIndex s.ctl.inbox.readIndex = false) : takeInboxIndex off w s = s := by
  simp [takeInboxIndex, h]

/-- The inbox status word holds the read index: it differs when the index does. -/
theorem inboxStatus_ne_of_readIndex_ne {s : State} {p : BitVec 6} (hp : p ≠ s.ctl.inbox.readIndex) :
    (setInboxRead p s).tableWords .inboxStatus ≠ s.tableWords .inboxStatus := by
  have hne : p.toNat ≠ s.ctl.inbox.readIndex.toNat := fun e => hp (BitVec.eq_of_toNat_eq e)
  intro e
  have hnat := congrArg BitVec.toNat (List.cons.inj e).1
  simp only [setInboxRead, BitVec.toNat_ofNat] at hnat
  omega

/-! ### Both -/

/-- Settles O18: each unit takes the handed word, decides by `indexAccepted`, and posts its status word when the
read index, and so the word, has changed. -/
theorem readIndexesTaken : Obligations.ReadIndexesTaken := by
  intro w rest s hr taken
  constructor
  · intro hh g p
    have hexec : exec .faultReadIndexWrite s = .next (grant (takeFaultIndex 0x10 w taken)) :=
      congrArg answer (onControlWord_taken hr hh rfl)
    constructor
    · intro hrange hfrees
      have hacc : indexAccepted w g.writeIndex g.readIndex = true := indexAccepted_iff.mpr ⟨by omega, hfrees⟩
      rw [takeFaultIndex_of_accepted (s := taken) 0x10 hacc] at hexec
      exact ⟨_, hexec,
        fun hp => postChanged_posted (List.mem_singleton_self _) (faultStatus_ne_of_readIndex_ne (s := taken) hp),
        postChanged_onlyPosts _ _ _⟩
    · intro hout
      have hign : indexAccepted w g.writeIndex g.readIndex = false := indexAccepted_eq_false_iff.mpr hout
      rwa [takeFaultIndex_of_ignored (s := taken) 0x10 hign] at hexec
  · intro hh b p
    have hexec : exec .inboxReadIndexWrite s = .next (grant (takeInboxIndex 0x11 w taken)) :=
      congrArg answer (onControlWord_taken hr hh rfl)
    constructor
    · intro hrange hfrees
      have hacc : indexAccepted w b.writeIndex b.readIndex = true := indexAccepted_iff.mpr ⟨by omega, hfrees⟩
      rw [takeInboxIndex_of_accepted (s := taken) 0x11 hacc] at hexec
      exact ⟨_, hexec,
        fun hp => postChanged_posted (List.mem_singleton_self _) (inboxStatus_ne_of_readIndex_ne (s := taken) hp),
        postChanged_onlyPosts _ _ _⟩
    · intro hout
      have hign : indexAccepted w b.writeIndex b.readIndex = false := indexAccepted_eq_false_iff.mpr hout
      rwa [takeInboxIndex_of_ignored (s := taken) 0x11 hign] at hexec

end Sys2Proof.Machine
end

section
/-! CLEAR CAUSES (R38): the record of causes is changed between two posts, that of the command's arrival and that of
the reset cause word. -/

namespace Sys2Proof.Machine

open Sys2Proof

/-! ### A change of the causes and the posts before it -/

theorem pumpWriteBack_setCauses (c : ResetCauses) (s : State) :
    pumpWriteBack (setCauses c s) = setCauses c (pumpWriteBack s) := by
  have hout : (setCauses c s).outstanding = s.outstanding := rfl
  simp only [pumpWriteBack, setCauses_ctl, hout]
  split
  · split <;> rfl
  · rfl

/-- A change of the causes goes before the post of any word but their own. `OnlyPosts` alone does not say so: it
leaves open that a value of the reset cause word, now old, was what was posted. -/
theorem post_setCauses {t : TableWord} (ht : t ≠ .resetCause) (c : ResetCauses) (s : State) :
    post t (setCauses c s) = setCauses c (post t s) := by
  have hword : (setCauses c s).tableWords t = s.tableWords t := by
    cases t with
    | resetCause => exact absurd rfl ht
    | _ => rfl
  unfold post
  rw [hword, ← pumpWriteBack_setCauses]
  rfl

/-- The causes may be changed before a command is taken as well as after. -/
theorem takeCommand_setCauses (w : Word) (c : ResetCauses) (s : State) :
    takeCommand w (setCommandCause false (popHanded (setCauses c s))) =
      setCauses c (takeCommand w (setCommandCause false (popHanded s))) := by
  unfold takeCommand
  rw [← post_setCauses (by decide)]
  rfl

/-- The value of a word that waits, the command status aside, goes on waiting when a command ends. -/
theorem posted_endCommand {t : TableWord} {s : State} (ht : t ≠ .commandStatus) (h : s.Posted t)
    (code : Option ResultCode) (d : Nat) : (endCommand code d s).Posted t := by
  cases t with
  | commandStatus => exact absurd rfl ht
  | _ => exact posted_post (t := .commandStatus) (s := setCommand _ s) h ht

/-! ### The command -/

/-- A word that names no flag but POWER, EXTERNAL and SUPPLY clears those it names. -/
theorem clearCausesTaken_of_lt {s : State} (h : (s.param 0).toNat < 8) :
    clearCausesTaken s =
      endCommand none 0 (post .resetCause (setCauses (s.ctl.causes.clear (s.param 0)) s)) := if_neg (by omega)

/-- A word with any other bit set is refused. -/
theorem clearCausesTaken_of_le {s : State} (h : 8 ≤ (s.param 0).toNat) :
    clearCausesTaken s = endCommand (some .badParameter) 0 s := if_pos h

/-- An offered CLEAR CAUSES is never refused before its own rule: it is carried out whatever the part state (R25). -/
theorem exec_clearCauses_offered {s : State} {w : Word} (ho : s.Offered w) (hc : commandCode w = 16) :
    exec .clearCauses s = answer (clearCausesTaken (takeCommand w (setCommandCause false (popHanded s)))) :=
  congrArg answer
    (onCommand_taken ho (by simp [hc]) (by simp [hc, unknownCode]) (fun _ => by simp [hc, takenUnloaded]))

/-- Settles O20: the parameter decides, and the change of the causes goes before every post. -/
theorem clearCausesDone : Obligations.ClearCausesDone := by
  intro w s ho hc p c
  have hexec := exec_clearCauses_offered ho hc
  have hp := takeCommand_param w s 0
  constructor
  · intro hlt
    have hcauses : (takeCommand w (setCommandCause false (popHanded s))).ctl.causes = c := by
      rw [(takeCommand_onlyPosts w s).eq]; rfl
    rw [clearCausesTaken_of_lt (by rwa [hp]), hp, hcauses, ← takeCommand_setCauses] at hexec
    have hposts := (takeCommand_onlyPosts w (setCauses (c.clear p) s)).trans (post_onlyPosts .resetCause _)
    exact ⟨_, hexec, posted_endCommand (by decide) (post_posted _ _) none 0, (endCommand_onlyPosts _ _ _).2,
      hposts.endCommand none 0⟩
  · intro hle
    rw [clearCausesTaken_of_le (by rwa [hp])] at hexec
    exact ⟨_, hexec, (takeCommand_onlyPosts w s).endCommand (some .badParameter) 0, (endCommand_onlyPosts _ _ _).2⟩

end Sys2Proof.Machine
end

section
/-! The tick of a trade (R90): a rule for each row of its table, and the tick of a record after each operation that
takes a trade or ends the day. -/

namespace Sys2Proof.Machine

open Sys2Proof

/-! ### The rows of the table -/

section
variable {l q : Nat} {tick : Tick}

@[simp] theorem tickAfter_noLast (tick : Tick) (q : Nat) : tickAfter none tick q = .none := rfl

theorem tickAfter_of_last_lt (h : l < q) : tickAfter (some l) tick q = .up := if_pos h

theorem tickAfter_of_lt_last (h : q < l) : tickAfter (some l) tick q = .down :=
  (if_neg h.le.not_gt).trans (if_pos h)

theorem tickAfter_sameStep_rising (h : tick = .up ∨ tick = .zeroUp) : tickAfter (some q) tick q = .zeroUp := by
  obtain rfl | rfl := h <;> simp [tickAfter]

theorem tickAfter_sameStep_falling (h : tick = .down ∨ tick = .zeroDown) :
    tickAfter (some q) tick q = .zeroDown := by
  obtain rfl | rfl := h <;> simp [tickAfter]

theorem tickAfter_sameStep_none (h : tick = .none) : tickAfter (some q) tick q = .none := by
  simp [tickAfter, h]

end

/-! ### The tick of a record -/

@[simp] theorem takeTrade_tick (q z : Nat) (rounding : Bool) (r : Instrument) :
    (takeTrade q z rounding r).tick = tickAfter r.last r.tick q := rfl

@[simp] theorem Instrument.closeDay_tick (r : Instrument) : r.closeDay.tick = r.tick := rfl

/-- A decided trade reaches the tick through its step alone, whether it is taken or held. -/
theorem afterTrade_tick (r : Instrument) (now captured : Time) (u z : Nat) :
    (r.afterTrade now u z captured).tick =
      if bandTakes r (quantize r.base u) then tickAfter r.last r.tick (quantize r.base u) else r.tick := by
  unfold Instrument.afterTrade
  exact apply_ite Instrument.tick _ _ _

/-- Settles O34: each row of R90 is a rule of `tickAfter`, and two trades of one step are decided alike. -/
theorem tickTable : Obligations.TickTable := by
  intro r q z rounding tick
  have htick : tick = tickAfter r.last r.tick q := takeTrade_tick q z rounding r
  rw [htick]
  refine ⟨fun hlast => ?_, fun l hlast => ?_, r.closeDay_tick, fun now captured u1 u2 hstep => ?_⟩
  · rw [hlast, tickAfter_noLast]
  · rw [hlast]
    refine ⟨tickAfter_of_last_lt, tickAfter_of_lt_last, ?_, ?_, ?_⟩
    · rintro rfl hrising
      exact tickAfter_sameStep_rising hrising
    · rintro rfl hfalling
      exact tickAfter_sameStep_falling hfalling
    · rintro rfl hnone
      exact tickAfter_sameStep_none hnone
  · rw [afterTrade_tick, afterTrade_tick, hstep]

end Sys2Proof.Machine
end

section
/-! The governor's effective limit (R139): a rule for each row of its table, the range of the limit P, and the stage
that a sample with a full window and a full count judges from them (R140). -/

namespace Sys2Proof.Machine

open Sys2Proof

/-! ### The rows of the table -/

section
variable (w : Word)

@[simp] theorem effectiveLimit_neither : effectiveLimit w false false = w.toNat * 16 := rfl

@[simp] theorem effectiveLimit_warm : effectiveLimit w true false = w.toNat * 16 * 3 / 4 := rfl

@[simp] theorem effectiveLimit_lwarn : effectiveLimit w false true = w.toNat * 16 / 2 := rfl

@[simp] theorem effectiveLimit_warm_lwarn : effectiveLimit w true true = w.toNat * 16 * 3 / 8 := rfl

/-- P is at most sixteen times the highest limit word (R139). -/
theorem limitWord_mul_le : w.toNat * 16 ≤ 1048560 := by
  have hword : w.toNat < 2 ^ 16 := w.isLt
  omega

end

/-! ### The judgement of a sample -/

section
variable {g : Governor} {warm lwarn : Bool} {load : Nat}

/-- With a full window and a full count, a sample raises the stage above P_eff, lowers it below the retreat level, and
else only joins the window (R140). -/
theorem Governor.sample_of_full (hwindow : (joinWindow g.n g.window load).length = g.n) (hcount : g.n ≤ g.count + 1) :
    g.sample warm lwarn load =
      let w := joinWindow g.n g.window load
      let limit := effectiveLimit g.limitWord warm lwarn
      let g1 := { g with window := w, count := g.n, lastSample := g.lastSample + 10 }
      if limit < w.sum / g.n ∧ g.stage < 4 then { g1 with stage := g.stage + 1, count := 0 }
      else if w.sum / g.n < retreatLevel limit ∧ 0 < g.stage then { g1 with stage := g.stage - 1, count := 0 }
      else g1 := by
  have hfull : min g.n (g.count + 1) = g.n := min_eq_left hcount
  unfold Governor.sample
  rw [hfull]
  exact if_pos ⟨hwindow, rfl⟩

theorem Governor.sample_stage_of_full (hwindow : (joinWindow g.n g.window load).length = g.n)
    (hcount : g.n ≤ g.count + 1) :
    (g.sample warm lwarn load).stage =
      let average := (joinWindow g.n g.window load).sum / g.n
      let limit := effectiveLimit g.limitWord warm lwarn
      if limit < average ∧ g.stage < 4 then g.stage + 1
      else if average < retreatLevel limit ∧ 0 < g.stage then g.stage - 1
      else g.stage := by
  rw [sample_of_full hwindow hcount]
  dsimp only
  rw [apply_ite Governor.stage, apply_ite Governor.stage]

end

/-- Settles O44: the four rows of R139's table, its limit's range and its retreat level, and the judgement of R140. -/
theorem effectiveLimit_holds : Obligations.EffectiveLimit := fun w =>
  ⟨effectiveLimit_neither w, effectiveLimit_warm w, effectiveLimit_lwarn w, effectiveLimit_warm_lwarn w,
    limitWord_mul_le w, fun _ => rfl, fun _ _ _ _ hwindow hcount => Governor.sample_stage_of_full hwindow hcount⟩

end Sys2Proof.Machine
end


section
/-! What the Memory Path's own events do to the RAM, to the guard windows and to their lock: the rules behind the
canonical form of the RAM, the list of the events that write it, and the lock. -/

namespace Sys2Proof.Machine

open Sys2Proof

/-! ### The RAM and the guards, as they stand behind the port -/

/-- The guard windows with their lock. -/
def MemoryPath.guarding (m : MemoryPath) : Vector GuardWindow 4 × Bool := (m.guards, m.guardLock)

theorem MemoryPath.guarding_of_standing {m n : MemoryPath} (h : n.standing = m.standing) : n.guarding = m.guarding :=
  (congrArg MemoryPath.guarding h :)

theorem MemoryPath.ram_of_standing {m n : MemoryPath} (h : n.standing = m.standing) : n.ram = m.ram :=
  (congrArg MemoryPath.ram h :)

@[simp] theorem grant_guarding (s : State) : (grant s).mem.guarding = s.mem.guarding :=
  MemoryPath.guarding_of_standing (grant_standing s)

@[simp] theorem postFault_guarding (k : FaultKind) (subj : Subject) (d : List Nat) (s : State) :
    (postFault k subj d s).mem.guarding = s.mem.guarding :=
  MemoryPath.guarding_of_standing (postFault_standing k subj d s)

@[simp] theorem postFault_ram (k : FaultKind) (subj : Subject) (d : List Nat) (s : State) :
    (postFault k subj d s).mem.ram = s.mem.ram :=
  MemoryPath.ram_of_standing (postFault_standing k subj d s)

/-! ### Host cycles -/

@[simp] theorem admitHost_ram (c : BusCycle) (s : State) : (admitHost c s).mem.ram = s.mem.ram := by
  fun_cases admitHost c s <;> rfl

@[simp] theorem admitHost_guarding (c : BusCycle) (s : State) : (admitHost c s).mem.guarding = s.mem.guarding := by
  fun_cases admitHost c s <;> rfl

@[simp] theorem refuseHost_ram (k : FaultKind) (c : BusCycle) (d : List Nat) (s : State) :
    (refuseHost k c d s).mem.ram = s.mem.ram := by
  rw [refuseHost, postFault_ram]; rfl

@[simp] theorem refuseHost_guarding (k : FaultKind) (c : BusCycle) (d : List Nat) (s : State) :
    (refuseHost k c d s).mem.guarding = s.mem.guarding := by
  rw [refuseHost, postFault_guarding]; rfl

@[simp] theorem disarm_ram (s : State) : (disarm s).mem.ram = s.mem.ram := rfl

@[simp] theorem disarm_guarding (s : State) : (disarm s).mem.guarding = s.mem.guarding := rfl

@[simp] theorem guardCheck_ram (c : BusCycle) (s : State) : (guardCheck c s).mem.ram = s.mem.ram := by
  fun_cases guardCheck c s <;> simp

@[simp] theorem guardCheck_guarding (c : BusCycle) (s : State) : (guardCheck c s).mem.guarding = s.mem.guarding := by
  fun_cases guardCheck c s with
  | case1 => simp
  | case2 => simp
  | case3 => rw [postFault_guarding]; rfl

@[simp] theorem writeCheck_ram (c : BusCycle) (s : State) : (writeCheck c s).mem.ram = s.mem.ram := by
  fun_cases writeCheck c s <;> simp

@[simp] theorem writeCheck_guarding (c : BusCycle) (s : State) : (writeCheck c s).mem.guarding = s.mem.guarding := by
  fun_cases writeCheck c s <;> simp

@[simp] theorem arriveHost_ram (c : BusCycle) (s : State) : (arriveHost c s).mem.ram = s.mem.ram := by
  fun_cases arriveHost c s <;> simp

@[simp] theorem arriveHost_guarding (c : BusCycle) (s : State) : (arriveHost c s).mem.guarding = s.mem.guarding := by
  fun_cases arriveHost c s with
  | case1 => rfl
  | case2 => simp
  | case3 => simp
  | case4 => simp
  | case5 => simp

@[simp] theorem serveRead_ram (c : HostCycle) (cut : Bool) (s : State) : (serveRead c cut s).mem.ram = s.mem.ram := by
  fun_cases serveRead c cut s <;> simp +zetaDelta

@[simp] theorem serveRead_guarding (c : HostCycle) (cut : Bool) (s : State) :
    (serveRead c cut s).mem.guarding = s.mem.guarding := by
  fun_cases serveRead c cut s with
  | case1 => rfl
  | case2 => rfl
  | case3 => rw [postFault_guarding]; rfl

/-- A served host write makes its write, or leaves the RAM as it was. -/
theorem serveWrite_ram (c : HostCycle) (cut : Bool) (s : State) :
    (serveWrite c cut s).mem.ram = s.mem.ram ∨ ∃ a w, (serveWrite c cut s).mem.ram = s.mem.ram.write a w := by
  fun_cases serveWrite c cut s with
  | case1 => exact .inl rfl
  | case2 => exact .inl (by simp +zetaDelta)
  | case3 => exact .inr ⟨_, _, rfl⟩
  | case4 => exact .inr ⟨c.addr.toNat, mergeLanes c (s.mem.ram.read c.addr.toNat).word, by simp +zetaDelta⟩

@[simp] theorem serveWrite_guarding (c : HostCycle) (cut : Bool) (s : State) :
    (serveWrite c cut s).mem.guarding = s.mem.guarding := by
  fun_cases serveWrite c cut s with
  | case1 => rfl
  | case2 => rw [postFault_guarding]; rfl
  | case3 => rfl
  | case4 => rw [handOver_mem]; rfl

/-! ### Part writes, the clearing and the resets -/

@[simp] theorem writeBackNext_standing (s : State) : (writeBackNext s).mem.standing = s.mem.standing := by
  fun_cases writeBackNext s with
  | case1 => simp
  | case2 => rfl
  | case3 e => simp

@[simp] theorem placeClear_standing (s : State) : (placeClear s).mem.standing = s.mem.standing := by
  fun_cases placeClear s <;> rfl

@[simp] theorem clearNext_ram (s : State) : (clearNext s).mem.ram = s.mem.ram.clearNext := by
  fun_cases clearNext s with
  | case1 => rfl
  | case2 s1 => exact MemoryPath.ram_of_standing (placeClear_standing s1)

@[simp] theorem clearNext_guarding (s : State) : (clearNext s).mem.guarding = s.mem.guarding := by
  fun_cases clearNext s with
  | case1 => rfl
  | case2 s1 => exact (MemoryPath.guarding_of_standing (placeClear_standing s1)).trans rfl

@[simp] theorem startClearing_ram (p : Straps) (s : State) :
    (startClearing p s).mem.ram = s.mem.ram.lose (regionBase p) :=
  MemoryPath.ram_of_standing (placeClear_standing _)

@[simp] theorem startClearing_guarding (p : Straps) (s : State) :
    (startClearing p s).mem.guarding = s.mem.guarding :=
  (MemoryPath.guarding_of_standing (placeClear_standing _)).trans rfl

@[simp] theorem readStraps_ram (p : Straps) (s : State) : (readStraps p s).mem.ram = s.mem.ram := rfl

@[simp] theorem readStraps_guarding (p : Straps) (s : State) : (readStraps p s).mem.guarding = s.mem.guarding := rfl

@[simp] theorem resetBlocks_ram (p : Straps) (s : State) : (resetBlocks p s).mem.ram = s.mem.ram := rfl

@[simp] theorem resetBlocks_guarding (p : Straps) (s : State) : (resetBlocks p s).mem.guarding = s.mem.guarding := rfl

@[simp] theorem beginExternal_ram (s : State) : (beginExternal s).mem.ram = s.mem.ram := rfl

@[simp] theorem beginPowerOn_ram (p : Straps) (s : State) :
    (beginPowerOn p s).mem.ram = s.mem.ram.lose (regionBase p) := by
  rw [beginPowerOn, startClearing_ram]
  fun_cases abandonHost s <;> rfl

@[simp] theorem beginSupplyLow_ram (s : State) :
    (beginSupplyLow s).mem.ram = s.mem.ram.lose s.mem.ram.clearedFrom := by
  unfold beginSupplyLow
  fun_cases abandonHost s <;> rfl

/-! ### The guard and trap commands -/

@[simp] theorem endCommand_ram (code : Option ResultCode) (d : Nat) (s : State) :
    (endCommand code d s).mem.ram = s.mem.ram := MemoryPath.ram_of_standing (endCommand_standing code d s)

@[simp] theorem endCommand_guarding (code : Option ResultCode) (d : Nat) (s : State) :
    (endCommand code d s).mem.guarding = s.mem.guarding :=
  MemoryPath.guarding_of_standing (endCommand_standing code d s)

@[simp] theorem setGuardTaken_ram (s : State) : (setGuardTaken s).mem.ram = s.mem.ram := by
  fun_cases setGuardTaken s with
  | case1 => exact endCommand_ram _ 0 s
  | case2 => exact endCommand_ram _ 0 s
  | case3 _ n g => exact endCommand_ram none 0 (setWindow n g s)

@[simp] theorem lockGuardsTaken_ram (s : State) : (lockGuardsTaken s).mem.ram = s.mem.ram :=
  endCommand_ram none 0 { s with mem := { s.mem with guardLock := true } }

@[simp] theorem armTrapTaken_ram (s : State) : (armTrapTaken s).mem.ram = s.mem.ram := by
  fun_cases armTrapTaken s with
  | case1 => exact endCommand_ram none 0 (setTrap _ s)
  | case2 => exact endCommand_ram _ 0 s

@[simp] theorem armTrapTaken_guarding (s : State) : (armTrapTaken s).mem.guarding = s.mem.guarding := by
  fun_cases armTrapTaken s with
  | case1 => exact endCommand_guarding none 0 (setTrap _ s)
  | case2 => exact endCommand_guarding _ 0 s

/-- A set lock refuses SET GUARD. -/
theorem setGuardTaken_of_locked {s : State} (h : s.mem.guardLock = true) :
    setGuardTaken s = endRefused .locked 0 s := if_pos h

/-! ### The events -/

/-- What an answered state keeps of the RAM, the next state keeps. -/
theorem answer_ram {u s t : State} (h : answer u = .next t) (hu : u.mem.ram = s.mem.ram) : t.mem.ram = s.mem.ram := by
  cases h
  rw [grant_ram, hu]

theorem answer_guarding {u s t : State} (h : answer u = .next t) (hu : u.mem.guarding = s.mem.guarding) :
    t.mem.guarding = s.mem.guarding := by
  cases h
  rw [grant_guarding, hu]

/-- No event but those of `touchesMemory` changes the RAM. -/
theorem exec_ram {c : Instr} {s t : State} (hc : touchesMemory c = false) (h : exec c s = .next t) :
    t.mem.ram = s.mem.ram := by
  by_cases hm : ofMemoryPath c = false
  · exact MemoryPath.ram_of_standing (exec_standing hm h)
  cases c with
  | hostCycle b => exact answer_ram h (by split <;> simp)
  | refreshRequest | refreshCycle | externalReset | externalResetRelease _ =>
    exact answer_ram h (by split <;> simp [MemoryPath.ram_of_standing (placeClear_standing _)])
  | resetEnd p =>
    refine answer_ram h ?_
    split
    · exact (MemoryPath.ram_of_standing (postAll_standing _ _)).trans rfl
    · rfl
  | hostReadServed =>
    refine answer_ram h ?_
    split
    · split <;> simp
    · rfl
  | setGuard => exact answer_ram h (onCommand_keeps MemoryPath.ram (fun _ => rfl) setGuardTaken_ram s)
  | lockGuards => exact answer_ram h (onCommand_keeps MemoryPath.ram (fun _ => rfl) lockGuardsTaken_ram s)
  | armTrap => exact answer_ram h (onCommand_keeps MemoryPath.ram (fun _ => rfl) armTrapTaken_ram s)
  | hostWriteServed | writeBackWritten | regionClearWritten | powerOnReset _ | supplyLowReset | supplyReturn _ =>
    cases hc
  | _ => exact absurd rfl hm

/-- Settles O9. -/
theorem onlyPortWritesMemory : Obligations.OnlyPortWritesMemory := fun _ _ _ hc h => exec_ram hc h

/-- What the port and the losses of contents do to the RAM keeps its canonical form. -/
theorem exec_canonical {c : Instr} {s t : State} (hs : s.MemoryCanonical) (h : exec c s = .next t) :
    t.MemoryCanonical := by
  have keep {u : State} (h : answer u = .next t) (hu : u.mem.ram.wf = true) : t.MemoryCanonical := by
    cases h
    rwa [State.MemoryCanonical, grant_ram]
  by_cases hc : touchesMemory c = false
  · rwa [State.MemoryCanonical, exec_ram hc h]
  cases c with
  | hostWriteServed =>
    refine keep h ?_
    split
    · split
      · rename_i b cut _ _
        rcases serveWrite_ram b cut s with e | ⟨a, w, e⟩ <;> rw [e]
        · exact hs
        · exact Ram.wf_write _ a w hs
      · exact hs
    · exact hs
  | writeBackWritten =>
    refine keep h ?_
    split
    · split
      · simp only
        split
        · rw [MemoryPath.ram_of_standing (pumpWriteBack_standing _)]
          exact Ram.wf_write _ _ _ hs
        · rw [MemoryPath.ram_of_standing (writeBackNext_standing _)]
          exact Ram.wf_write _ _ _ hs
      · exact hs
    · exact hs
  | regionClearWritten =>
    refine keep h ?_
    split
    · split
      · rw [clearNext_ram]
        exact Ram.wf_clearNext _ hs
      · exact hs
    · exact hs
  | powerOnReset p => exact keep h (by rw [beginPowerOn_ram]; rfl)
  | supplyLowReset =>
    refine keep h ?_
    split
    · exact hs
    · rw [beginSupplyLow_ram]; rfl
  | supplyReturn p =>
    refine keep h ?_
    split
    · rw [startClearing_ram]; rfl
    · exact hs
  | _ => exact absurd rfl hc

/-- A step that keeps a property through every command keeps it: on an empty queue the part idles. -/
theorem step_keeps {p : State → Prop} (hp : ∀ (s : State) (q : List Instr), p s → p { s with pending := q })
    (he : ∀ {c : Instr} {s t : State}, p s → exec c s = .next t → p t) {s t : State} (hs : p s)
    (h : step s = .next t) : p t := by
  unfold step at h
  split at h
  · cases h
    exact hs
  · exact he (hp s _ hs) h

/-- Settles O57. -/
theorem memoryCanonicalKept : Obligations.MemoryCanonicalKept := fun _ _ hs h =>
  step_keeps (fun _ _ h => h) exec_canonical hs h

/-- Settles O16: a set lock refuses SET GUARD, and no other event that begins no reset reaches the guards. -/
theorem guardLockHolds : Obligations.GuardLockHolds := by
  intro c s t h hr hl
  have done (e : t.mem.guarding = s.mem.guarding) : t.mem.guardLock = true ∧ t.mem.guards = s.mem.guards :=
    ⟨(congrArg Prod.snd e).trans hl, congrArg Prod.fst e⟩
  by_cases hm : ofMemoryPath c = false
  · exact done (MemoryPath.guarding_of_standing (exec_standing hm h))
  cases c with
  | externalReset | powerOnReset _ | supplyLowReset => cases hr
  | setGuard =>
    refine done (answer_guarding h ?_)
    rcases onCommand_cases (· == 13) setGuardTaken s with e | ⟨u, e, hu⟩
    · exact MemoryPath.guarding_of_standing e
    · have hlock : u.mem.guardLock = true := (congrArg MemoryPath.guardLock hu).trans hl
      rw [e, setGuardTaken_of_locked hlock, endRefused, endCommand_guarding]
      exact MemoryPath.guarding_of_standing hu
  | lockGuards =>
    refine done (answer_guarding h ?_)
    rcases onCommand_cases (· == 14) lockGuardsTaken s with e | ⟨u, e, hu⟩
    · exact MemoryPath.guarding_of_standing e
    · rw [e, lockGuardsTaken, endDone, endCommand_guarding]
      exact Prod.ext (congrArg MemoryPath.guards hu :) hl.symm
  | armTrap => exact done (answer_guarding h (onCommand_keeps MemoryPath.guarding (fun _ => rfl) armTrapTaken_guarding s))
  | hostCycle b => exact done (answer_guarding h (by split <;> simp))
  | refreshRequest | refreshCycle | externalResetRelease _ | supplyReturn _ =>
    exact done (answer_guarding h (by
      split <;> simp [MemoryPath.guarding_of_standing (placeClear_standing _)] <;> rfl))
  | resetEnd p =>
    refine done (answer_guarding h ?_)
    split
    · exact (MemoryPath.guarding_of_standing (postAll_standing _ _)).trans rfl
    · rfl
  | hostReadServed | hostWriteServed | regionClearWritten =>
    refine done (answer_guarding h ?_)
    split
    · split <;> simp
    · rfl
  | writeBackWritten =>
    refine done (answer_guarding h ?_)
    split
    · split
      · simp only
        split
        · exact (MemoryPath.guarding_of_standing (pumpWriteBack_standing _)).trans rfl
        · exact (MemoryPath.guarding_of_standing (writeBackNext_standing _)).trans rfl
      · rfl
    · rfl
  | _ => exact absurd rfl hm

end Sys2Proof.Machine
end


section
/-! What an operation does at the RAM port and to the write-back queue: the relation `Works`, which every operation of
the blocks keeps to, and which gives both the bounds of the port and the order of the write-back queue. -/

namespace Sys2Proof.Machine

open Sys2Proof

/-- The sources of the part cycles of each of the four blocks that place them (R16). -/
def portBlocks : List (PartSource → Bool) :=
  [fun p => p == .fetch || p == .phase2, (· == .directory), (· == .writeBack), (· == .regionClear)]

/-- `t` is `s` after work that reaches the RAM port by placing part cycles alone, a block that has none placing at most
one, and reaches the write-back queue by posting alone. -/
structure Works (s t : State) : Prop where
  mem : t.mem = { s.mem with parts := t.mem.parts }
  parts : ∃ l, t.mem.parts = s.mem.parts ++ l ∧ ∀ p ∈ l, p.passed = 0
  cycles : ∀ w ∈ portBlocks, s.cyclesOf w ≤ 1 → t.cyclesOf w ≤ 1
  kept : s.ctl.writeBack.Kept t.ctl.writeBack

theorem Works.of_eq {s t : State} (hm : t.mem = s.mem) (hw : t.ctl.writeBack = s.ctl.writeBack) : Works s t := by
  refine ⟨by rw [hm], ⟨[], by simp [hm], by simp⟩, fun w _ h => ?_, by rw [hw]; exact .refl _⟩
  simpa only [State.cyclesOf, hm] using h

@[simp] theorem Works.refl (s : State) : Works s s := .of_eq rfl rfl

theorem Works.trans {a b c : State} (h1 : Works a b) (h2 : Works b c) : Works a c := by
  obtain ⟨l1, e1, p1⟩ := h1.parts
  obtain ⟨l2, e2, p2⟩ := h2.parts
  refine ⟨?_, ⟨l1 ++ l2, by rw [e2, e1, List.append_assoc], ?_⟩, fun w hw h => h2.cycles w hw (h1.cycles w hw h),
    h1.kept.trans h2.kept⟩
  · rw [h2.mem, h1.mem]
  · intro p hp
    exact (List.mem_append.mp hp).elim (p1 p) (p2 p)

/-- Work goes on by a change that reaches neither the Memory Path nor the write-back queue. -/
theorem Works.step {s u t : State} (h : Works s u) (hm : t.mem = u.mem) (hw : t.ctl.writeBack = u.ctl.writeBack) :
    Works s t := h.trans (.of_eq hm hw)

theorem Works.port {s t : State} (h : Works s t) : t.mem.port = s.mem.port := by rw [h.mem]

theorem Works.ram {s t : State} (h : Works s t) : t.mem.ram = s.mem.ram := by rw [h.mem]

theorem Works.standing {s t : State} (h : Works s t) : t.mem.standing = s.mem.standing := by rw [h.mem]; rfl

/-! ### Counting cycles -/

theorem cyclesOf_placePart (w : PartSource → Bool) (src : PartSource) (a : Nat) (d : Option Word) (s : State) :
    (placePart src a d s).cyclesOf w = s.cyclesOf w + if w src then 1 else 0 := by
  simp only [State.cyclesOf, placePart_mem, List.countP_append, List.countP_singleton]
  omega

/-- Sources with nothing outstanding have no cycle. -/
theorem cyclesOf_eq_zero {s : State} {w : PartSource → Bool} (h : s.outstanding w = false) : s.cyclesOf w = 0 := by
  simp only [State.outstanding, Bool.or_eq_false_iff, List.any_eq_false] at h
  obtain ⟨hq, hp⟩ := h
  have hcount : s.mem.parts.countP (fun p => w p.source) = 0 :=
    List.countP_eq_zero.mpr (fun p hp => by simpa using hq p hp)
  unfold State.cyclesOf
  rw [hcount]
  split at hp <;> simp_all

/-- A block with nothing outstanding places a part cycle. -/
theorem placePart_works {w : PartSource → Bool} {src : PartSource} {a : Nat} {d : Option Word} {s : State}
    (hw : ∀ v ∈ portBlocks, v src = true → v = w) (h : s.cyclesOf w = 0) : Works s (placePart src a d s) := by
  refine ⟨rfl, ⟨[⟨src, a, d, 0⟩], rfl, by simp⟩, fun v hv hc => ?_, .refl _⟩
  rw [cyclesOf_placePart]
  cases hsrc : v src with
  | false => simpa using hc
  | true => simp [hw v hv hsrc, h]

/-- Which of the four blocks places a cycle of a source. -/
theorem portBlocks_unique :
    (∀ v ∈ portBlocks, v .fetch = true → v = fun p => p == .fetch || p == .phase2) ∧
    (∀ v ∈ portBlocks, v .phase2 = true → v = fun p => p == .fetch || p == .phase2) ∧
    (∀ v ∈ portBlocks, v .directory = true → v = (· == .directory)) ∧
    (∀ v ∈ portBlocks, v .writeBack = true → v = (· == .writeBack)) ∧
    (∀ v ∈ portBlocks, v .regionClear = true → v = (· == .regionClear)) := by
  simp [portBlocks]

/-! ### Posting -/

theorem pumpWriteBack_works (s : State) : Works s (pumpWriteBack s) := by
  have hk := (pumpWriteBack_onlyPosts s).kept
  fun_cases pumpWriteBack s with
  | case1 => exact .refl s
  | case2 e rest hq ha ho =>
    have hz : s.cyclesOf (· == .writeBack) = 0 := cyclesOf_eq_zero (by simpa using ho)
    have hp := placePart_works (s := { s with ctl := { s.ctl with writeBack := ⟨some (e, 0), rest⟩ } })
      (a := controlBase s.mem.installed + e.offset + 0) (d := some (wordAt e.words 0))
      portBlocks_unique.2.2.2.1 hz
    rw [pumpWriteBack, ha, hq] at hk
    simp only [ho] at hk
    exact ⟨hp.mem, hp.parts, hp.cycles, hk⟩
  | case3 => exact .refl s

section
variable {s u : State}

@[simp] theorem post_works (t : TableWord) (h : Works s u) : Works s (post t u) := by
  obtain ⟨f, b, hj, hp⟩ := joinTable_stand t (u.tableWords t) u.ctl.writeBack.queue
  refine (h.trans ?_).trans (pumpWriteBack_works _)
  exact ⟨rfl, ⟨[], by simp, by simp⟩, fun _ _ h => h, .queue hj hp⟩

@[simp] theorem postRecord_works (e : WbEntry) (h : Works s u) : Works s (postRecord e u) := by
  refine (h.trans ?_).trans (pumpWriteBack_works _)
  exact ⟨rfl, ⟨[], by simp, by simp⟩, fun _ _ h => h, .queue rfl (stand_refl _)⟩

@[simp] theorem postAll_works (ts : List TableWord) (h : Works s u) : Works s (postAll ts u) := by
  unfold postAll
  induction ts generalizing u with
  | nil => exact h
  | cons t ts ih => exact ih (post_works t h)

@[simp] theorem postChanged_works (old : State) (ts : List TableWord) (h : Works s u) :
    Works s (postChanged old ts u) := by
  unfold postChanged
  induction ts generalizing u with
  | nil => exact h
  | cons t ts ih =>
    rw [List.foldl_cons]
    split
    · exact ih h
    · exact ih (post_works t h)

@[simp] theorem setLog_works (g : FaultLog) (h : Works s u) : Works s (setLog g u) := h.step rfl rfl

@[simp] theorem postFault_works (k : FaultKind) (subj : Subject) (d : List Nat) (h : Works s u) :
    Works s (postFault k subj d u) := by
  unfold postFault
  split
  · exact h
  · dsimp only
    split
    · split <;> simp [h]
    · simp [h]

/-! ### Commands -/

@[simp] theorem setCommand_works (c : CommandRecord) (h : Works s u) : Works s (setCommand c u) := h.step rfl rfl

@[simp] theorem setCommandCause_works (b : Bool) (h : Works s u) : Works s (setCommandCause b u) := h.step rfl rfl

@[simp] theorem popHanded_works (h : Works s u) : Works s (popHanded u) := h.step rfl rfl

@[simp] theorem setCauses_works (c : ResetCauses) (h : Works s u) : Works s (setCauses c u) := h.step rfl rfl

@[simp] theorem endCommand_works (code : Option ResultCode) (d : Nat) (h : Works s u) :
    Works s (endCommand code d u) :=
  setCommandCause_works _ (post_works _ (setCommand_works _ h))

@[simp] theorem endDone_works (h : Works s u) : Works s (endDone u) := endCommand_works none 0 h

@[simp] theorem endRefused_works (c : ResultCode) (d : Nat) (h : Works s u) : Works s (endRefused c d u) :=
  endCommand_works (some c) d h

@[simp] theorem setPartState_works (p : PartState) (h : Works s u) : Works s (setPartState p u) :=
  post_works .partState (h.step rfl rfl)

@[simp] theorem takeCommand_works (w : Word) (h : Works s u) : Works s (takeCommand w u) :=
  post_works _ (setCommand_works _ h)

@[simp] theorem refuseBusy_works (w : Word) (h : Works s u) : Works s (refuseBusy w u) :=
  post_works .refusal (h.step rfl rfl)

/-- A command event works when its owning rule does. -/
theorem onCommand_works {owning : State → State} (ho : ∀ u, Works s u → Works s (owning u)) (codes : Nat → Bool) :
    Works s (onCommand codes owning s) := by
  fun_cases onCommand codes owning s with
  | case1 w _ _ _ =>
    have harrived : Works s (setCommandCause false (popHanded s)) := by simp
    fun_cases arrive w owning (popHanded s) with
    | case1 => exact refuseBusy_works w harrived
    | case2 =>
      have htaken := takeCommand_works w harrived
      fun_cases examine w owning (takeCommand w (setCommandCause false (popHanded s))) with
      | case1 => exact endRefused_works _ _ htaken
      | case2 => exact endRefused_works _ _ htaken
      | case3 => exact ho _ htaken
  | case2 => simp
  | case3 => simp

theorem onControlWord_works {take : Nat → Word → State → State} (ht : ∀ off w u, Works s u → Works s (take off w u))
    (offs : Nat → Bool) : Works s (onControlWord offs take s) := by
  fun_cases onControlWord offs take s with
  | case1 => exact ht _ _ _ (by simp)
  | case2 => simp
  | case3 => simp

theorem onCaptureWord_works {take : Nat → Nat → Word → State → State}
    (ht : ∀ i n w u, Works s u → Works s (take i n w u)) (nums : Nat → Bool) :
    Works s (onCaptureWord nums take s) := by
  fun_cases onCaptureWord nums take s with
  | case1 => exact ht _ _ _ _ (by simp)
  | case2 => simp
  | case3 => simp

/-! ### The board links and drive protection -/

@[simp] theorem setLink_works (k : Fin 8) (l : Link) (h : Works s u) : Works s (setLink k l u) := h.step rfl rfl

@[simp] theorem setDrive_works (d : DriveUnit) (h : Works s u) : Works s (setDrive d u) := h.step rfl rfl

@[simp] theorem setTape_works (t : TickerUnit) (h : Works s u) : Works s (setTape t u) := h.step rfl rfl

@[simp] theorem chooseFrame_works (k : Fin 8) (h : Works s u) : Works s (chooseFrame k u) :=
  h.step (by simp) (by rw [chooseFrame_eq])

@[simp] theorem chooseAll_works (h : Works s u) : Works s (chooseAll u) := h.step (by simp) (by rw [chooseAll_eq])

@[simp] theorem recomputeBoards_works (which : Nat → Bool) (h : Works s u) : Works s (recomputeBoards which u) :=
  h.step (by simp) (by rw [recomputeBoards_eq])

@[simp] theorem presentStill_works (h : Works s u) : Works s (presentStill u) := by
  fun_cases presentStill u <;> simp [h]

@[simp] theorem logReasons_works (h : Works s u) : Works s (logReasons u) := h.step rfl rfl

@[simp] theorem driveSettle_works (old : State) (h : Works s u) : Works s (driveSettle old u) :=
  postChanged_works _ _ (presentStill_works (logReasons_works h))

@[simp] theorem boardSettle_works (old : State) (k : Fin 8) (h : Works s u) : Works s (boardSettle old k u) :=
  chooseAll_works (driveSettle_works _ (postChanged_works _ _ h))

@[simp] theorem floorSettle_works (old : State) (h : Works s u) : Works s (floorSettle old u) := by
  simp [floorSettle, h]

@[simp] theorem autoRemap_works (k : Fin 8) (x : Fin 16) (h : Works s u) : Works s (autoRemap k x u) := by
  fun_cases autoRemap k x u <;> simp [h]

@[simp] theorem enterAbsent_works (k : Fin 8) (p : Fin 16) (h : Works s u) : Works s (enterAbsent k p u) :=
  autoRemap_works k p (postFault_works _ _ _ (setLink_works k _ h))

@[simp] theorem missedReply_works (k : Fin 8) (f : LinkFrame) (h : Works s u) : Works s (missedReply k f u) := by
  fun_cases missedReply k f u <;> simp [h]

@[simp] theorem disableByPolicy_works (k : Fin 8) (p : Fin 16) (h : Works s u) : Works s (disableByPolicy k p u) := by
  fun_cases disableByPolicy k p u with
  | case1 => simp [h]
  | case2 => simp [h]
  | case3 => exact h.step rfl rfl

/-- A new trip but for the remap that follows the third: the count, its post, the fault, the trip-disable flags, and the
state of the position (R113, R127, R128). -/
def tripTaken (k : Fin 8) (p : Fin 16) (left : ModuleState) (s : State) : State :=
  let l := s.links[k]
  let q := l.positions[p]
  let count := min 3 (q.trips + 1)
  let counted := postChanged s [.moduleWord k p] (setLink k (l.setPosition p { q with trips := count }) s)
  let faulted :=
    postFault (if count = 3 then .moduleFailed else .moduleTrip) (.physicalPosition (physical k p))
      [count, l.policy.code, left.code, moduleDetail k (l.targetedBy p)] counted
  let disabled := disableByPolicy k p faulted
  setLink k
    (disabled.links[k].setPosition p
      { disabled.links[k].positions[p] with state := if count = 3 then .failed else .tripped }) disabled

theorem takeTrip_eq (k : Fin 8) (p : Fin 16) (left : ModuleState) (s : State) :
    takeTrip k p left s =
      if min 3 (s.links[k].positions[p].trips + 1) = 3 then autoRemap k p (tripTaken k p left s)
      else tripTaken k p left s := rfl

@[simp] theorem tripTaken_works (k : Fin 8) (p : Fin 16) (left : ModuleState) (h : Works s u) :
    Works s (tripTaken k p left u) :=
  setLink_works k _ (disableByPolicy_works k p (postFault_works _ _ _ (postChanged_works _ _ (setLink_works k _ h))))

@[simp] theorem takeTrip_works (k : Fin 8) (p : Fin 16) (left : ModuleState) (h : Works s u) :
    Works s (takeTrip k p left u) := by
  rw [takeTrip_eq]
  split <;> simp [h]

@[simp] theorem goodReply_works (k : Fin 8) (f : LinkFrame) (trip : Bool) (h : Works s u) :
    Works s (goodReply k f trip u) := by
  fun_cases goodReply k f trip u <;> simp +zetaDelta [h]

@[simp] theorem quietLink_works (k : Fin 8) (h : Works s u) : Works s (quietLink k u) := h.step rfl rfl

@[simp] theorem setWire_works (k : Fin 8) (w : Wire) (h : Works s u) : Works s (setWire k w u) := h.step rfl rfl

@[simp] theorem stopFlash_works (k : Fin 8) (m : Fin 16) (h : Works s u) : Works s (stopFlash k m u) := h.step rfl rfl

@[simp] theorem frameGone_works (k : Fin 8) (h : Works s u) : Works s (frameGone k u) := by
  fun_cases frameGone k u <;> simp [h]

@[simp] theorem rearmLinks_works (ks : List (Fin 8)) (h : Works s u) : Works s (rearmLinks ks u) := by
  unfold rearmLinks
  induction ks generalizing u with
  | nil => exact h
  | cons k ks ih =>
    rw [List.foldl_cons]
    exact ih (postChanged_works u _ (setLink_works k _ h))

@[simp] theorem moveByCommand_works (k : Fin 8) (m p : Fin 16) (h : Works s u) : Works s (moveByCommand k m p u) :=
  boardSettle_works _ k (endDone_works (setLink_works k _ h))

@[simp] theorem remapTaken_works (h : Works s u) : Works s (remapTaken u) := by
  fun_cases remapTaken u <;> simp [h]

@[simp] theorem restoreTaken_works (h : Works s u) : Works s (restoreTaken u) := by
  fun_cases restoreTaken u <;> simp [h]

@[simp] theorem rearmTaken_works (h : Works s u) : Works s (rearmTaken u) := by
  fun_cases rearmTaken u with
  | case2 ks => exact floorSettle_works _ (endDone_works (rearmLinks_works ks h))
  | case1 | case3 | case4 => simp [h]

@[simp] theorem hotCheckPassed_works (c : HotCheck) (h : Works s u) : Works s (hotCheckPassed c u) :=
  floorSettle_works _ (endDone_works (rearmLinks_works _ (setDrive_works _ h)))

@[simp] theorem cutLampTest_works (h : Works s u) : Works s (cutLampTest u) := by
  fun_cases cutLampTest u <;> simp [h]

@[simp] theorem takeFilter_works (c : Comparator) (h : Works s u) : Works s (takeFilter c u) := by
  have hset := setDrive_works (u.drive.setFilter c ⟨(u.drive.filter c).raw, (u.drive.filter c).raw, none⟩) h
  fun_cases takeFilter c u with
  | case1 => exact cutLampTest_works (postFault_works _ _ _ (setDrive_works _ hset))
  | case2 => exact cutLampTest_works (postFault_works _ _ _ hset)
  | case3 | case4 | case5 => exact hset

@[simp] theorem changeInput_works (c : Comparator) (level : Bool) (h : Works s u) :
    Works s (changeInput c level u) := by
  have hset := setDrive_works (u.drive.setFilter c ((u.drive.filter c).change u.ctl.timeBase level)) h
  unfold changeInput
  fun_cases failHotCheck c level (setDrive (u.drive.setFilter c ((u.drive.filter c).change u.ctl.timeBase level)) u) with
  | case1 | case3 => exact hset
  | case2 => exact endRefused_works _ _ (setDrive_works _ hset)

@[simp] theorem takeSample_works (h : Works s u) : Works s (takeSample u) := by simp [takeSample, h]

@[simp] theorem testNext_works (ks : List (Fin 8)) (h : Works s u) : Works s (testNext ks u) := by
  cases ks with
  | nil => exact chooseAll_works (endDone_works (setDrive_works _ h))
  | cons k ks => exact chooseAll_works (setDrive_works _ h)

@[simp] theorem lampTestTaken_works (h : Works s u) : Works s (lampTestTaken u) := by
  fun_cases lampTestTaken u <;> simp [h]

@[simp] theorem clearLogTaken_works (h : Works s u) : Works s (clearLogTaken u) :=
  endDone_works (post_works _ (setDrive_works _ h))

/-! ### The ticker -/

@[simp] theorem updateTape_works (t : TickerUnit) (h : Works s u) : Works s (updateTape t u) :=
  postChanged_works u [.tickerState] (h.step rfl rfl)

@[simp] theorem setInstrument_works (i : Nat) (r : Instrument) (h : Works s u) : Works s (setInstrument i r u) :=
  h.step rfl rfl

@[simp] theorem joinPrint_works (p : Print) (r : Instrument) (h : Works s u) : Works s (joinPrint p r u) := by
  fun_cases joinPrint p r u <;> simp [h]

@[simp] theorem printTrade_works (i : Nat) (t : TradePart) (h : Works s u) : Works s (printTrade i t u) := by
  fun_cases printTrade i t u <;> simp [h]

@[simp] theorem takePrint_works (h : Works s u) : Works s (takePrint u) := by
  unfold takePrint
  split
  · exact h
  · refine post_works .tickerState ?_
    split <;> simp [h]

@[simp] theorem ribbonStep_works (h : Works s u) : Works s (ribbonStep u) := by
  fun_cases ribbonStep u <;> simp [h]

@[simp] theorem blankOutOver_works (h : Works s u) : Works s (blankOutOver u) := by
  fun_cases blankOutOver u <;> simp [h]

/-! ### The terminal lines -/

@[simp] theorem setLine_works (n : Fin 16) (l : Line) (h : Works s u) : Works s (setLine n l u) :=
  postChanged_works u [.lineWord n] (h.step rfl rfl)

@[simp] theorem countBad_works (n : Fin 16) (cause : BadCause) (h : Works s u) : Works s (countBad n cause u) := by
  fun_cases countBad n cause u <;> simp [h]

@[simp] theorem badFrame_works (n : Fin 16) (cause : BadCause) (h : Works s u) : Works s (badFrame n cause u) := by
  simp [badFrame, h]

@[simp] theorem changeWatchers_works (i : Nat) (f : List (Fin 16) → List (Fin 16)) (h : Works s u) :
    Works s (changeWatchers i f u) := by
  fun_cases changeWatchers i f u <;> simp [h]

@[simp] theorem submitMessage_works (n : Fin 16) (seq : Byte) (text : List Byte) (h : Works s u) :
    Works s (submitMessage n seq text u) := postRecord_works _ (h.step rfl rfl)

@[simp] theorem actOnFrame_works (n : Fin 16) (kind : Byte) (body : List Byte) (h : Works s u) :
    Works s (actOnFrame n kind body u) := by
  fun_cases actOnFrame n kind body u with
  | case1 => fun_cases requestWatch n body u <;> simp [h]
  | case2 => fun_cases requestDrop n body u <;> simp [h]
  | case3 => fun_cases requestPage n body u <;> simp [h]
  | case4 => fun_cases requestMessage n body u <;> simp [h]
  | case5 => exact h

@[simp] theorem goodFrame_works (n : Fin 16) (kind : Byte) (body : List Byte) (h : Works s u) :
    Works s (goodFrame n kind body u) := by
  unfold goodFrame
  dsimp only
  split <;> simp [h]

@[simp] theorem markArrives_works (n : Fin 16) (h : Works s u) : Works s (markArrives n u) := by
  unfold markArrives
  refine setLine_works n _ ?_
  split <;> simp [h]

@[simp] theorem receiveChar_works (n : Fin 16) (c : RxChar) (h : Works s u) : Works s (receiveChar n c u) := by
  fun_cases receiveChar n c u <;> simp [h]

@[simp] theorem onGoodFrame_works (n : Fin 16) (kinds : Byte → Bool) (h : Works s u) :
    Works s (onGoodFrame n kinds u) := by
  fun_cases onGoodFrame n kinds u <;> simp [h]

@[simp] theorem dozeOver_works (n : Fin 16) (h : Works s u) : Works s (dozeOver n u) := by simp [dozeOver, h]

@[simp] theorem serveLine_works (cls : Nat) (n : Fin 16) (h : Works s u) : Works s (serveLine cls n u) := by
  fun_cases serveLine cls n u with
  | case1 => exact h
  | case2 => exact (setLine_works n _ h).step rfl rfl

@[simp] theorem noticeLines_works (i : Nat) (h : Works s u) : Works s (noticeLines i u) := by
  fun_cases noticeLines i u with
  | case1 => exact h
  | case2 r =>
    rename_i hr
    clear hr
    generalize r.watchers = ws
    induction ws generalizing u with
    | nil => exact h
    | cons n ws ih =>
      rw [List.foldl_cons]
      split
      · exact ih h
      · exact ih (setLine_works n _ h)

@[simp] theorem reportWritten_works (n : Fin 16) (seq : Byte) (h : Works s u) : Works s (reportWritten n seq u) := by
  fun_cases reportWritten n seq u <;> simp [h]

@[simp] theorem leaveWatchers_works (n : Fin 16) (watch : List Nat) (h : Works s u) :
    Works s (leaveWatchers n watch u) := by
  unfold leaveWatchers
  induction watch generalizing u with
  | nil => exact h
  | cons i watch ih => exact ih (by simp [h])

@[simp] theorem carrySetLine_works (n : Fin 16) (rate : Rate) (cls doze : Nat) (h : Works s u) :
    Works s (carrySetLine n rate cls doze u) := by
  fun_cases carrySetLine n rate cls doze u <;> simp [h]

@[simp] theorem setLineTaken_works (h : Works s u) : Works s (setLineTaken u) := by
  fun_cases setLineTaken u <;> simp [h]

/-! ### Prices and capture -/

@[simp] theorem notify_works (i : Nat) (trade : Option TradePart) (h : Works s u) : Works s (notify i trade u) := by
  unfold notify
  refine chooseAll_works (recomputeBoards_works _ (noticeLines_works i ?_))
  cases trade <;> simp [h]

@[simp] theorem tradeArrives_works (i v z : Nat) (captured : Time) (h : Works s u) :
    Works s (tradeArrives i v z captured u).1 := by
  unfold tradeArrives
  split
  · exact h
  · dsimp only
    split <;> split <;> simp [h]

@[simp] theorem cancelHold_works (i : Nat) (h : Works s u) : Works s (cancelHold i u) := by
  fun_cases cancelHold i u <;> simp [h]

theorem settleHold_works {settle : Nat → Instrument → Hold → State → State}
    (hs : ∀ i r d u, Works s u → Works s (settle i r d u)) (h : Works s u) : Works s (settleHold settle u) := by
  fun_cases settleHold settle u <;> simp [h, hs]

@[simp] theorem confirmHold_works (i : Nat) (r : Instrument) (d : Hold) (h : Works s u) :
    Works s (confirmHold i r d u) :=
  endDone_works (notify_works i _ (setInstrument_works i _ h))

@[simp] theorem withdrawHold_works (i : Nat) (r : Instrument) (d : Hold) (h : Works s u) :
    Works s (withdrawHold i r d u) := by simp [withdrawHold, h]

@[simp] theorem setCap_works (c : CaptureUnit) (h : Works s u) : Works s (setCap c u) := h.step rfl rfl

@[simp] theorem applyHalt_works (i : Nat) (c : CommitFlags) (h : Works s u) : Works s (applyHalt i c u) := by
  fun_cases applyHalt i c u <;> simp [h]

@[simp] theorem applyQuote_works (i : Nat) (c : CommitFlags) (v : FieldValues) (h : Works s u) :
    Works s (applyQuote i c v u) := by
  fun_cases applyQuote i c v u <;> simp [h]

@[simp] theorem applyTrade_works (i : Nat) (c : CommitFlags) (seq : BitVec 12) (time : Time) (v : FieldValues)
    (h : Works s u) : Works s (applyTrade i c seq time v u).1 := by
  fun_cases applyTrade i c seq time v u <;> simp [h]

@[simp] theorem applyFast_works (i : Nat) (c : CommitFlags) (h : Works s u) : Works s (applyFast i c u) := by
  fun_cases applyFast i c u <;> simp [h]

@[simp] theorem applyCommit_works (i : Nat) (c : CommitFlags) (seq : BitVec 12) (time : Time) (v : FieldValues)
    (h : Works s u) : Works s (applyCommit i c seq time v u) := by
  have hs := applyFast_works i c (applyTrade_works i c seq time v (applyQuote_works i c v (applyHalt_works i c h)))
  unfold applyCommit
  dsimp only
  split
  · split
    · exact notify_works i _ hs
    · exact hs
  · exact hs

@[simp] theorem drainGroupless_works (fuel : Nat) (h : Works s u) : Works s (drainGroupless fuel u) := by
  fun_induction drainGroupless fuel u <;> simp_all

/-- The fetch places its read when no capture read is outstanding. -/
theorem placeFetch_works (h : Works s u)
    (hz : u.cyclesOf (fun p => p == .fetch || p == .phase2) = 0) : Works s (placeFetch u) := by
  fun_cases placeFetch u with
  | case1 => exact h
  | case2 => exact (setCap_works _ h).trans (placePart_works portBlocks_unique.1 hz)
  | case3 => exact (setCap_works _ h).trans (placePart_works portBlocks_unique.1 hz)

theorem placePhase2_works (h : Works s u)
    (hz : u.cyclesOf (fun p => p == .fetch || p == .phase2) = 0) : Works s (placePhase2 u) := by
  fun_cases placePhase2 u with
  | case1 r _ r1 =>
    have hbegun : Works s { setCap { u.cap with lastWasPhase2 := true } u with load := .phase2 r1 } := h.step rfl rfl
    exact hbegun.trans (placePart_works portBlocks_unique.2.1 hz)
  | case2 => exact h

@[simp] theorem pumpCapture_works (h : Works s u) : Works s (pumpCapture u) := by
  have hd := drainGroupless_works u.cap.fetchQueue.length h
  unfold pumpCapture
  generalize drainGroupless u.cap.fetchQueue.length u = v at hd
  dsimp only
  split
  · exact hd
  · rename_i ho
    have hz := cyclesOf_eq_zero (by simpa using ho)
    split
    · split
      · exact placeFetch_works hd hz
      · exact placePhase2_works hd hz
    · exact placeFetch_works hd hz
    · exact placePhase2_works hd hz
    · exact hd

theorem byStanding_works {take : State → State} (ht : ∀ u, Works s u → Works s (take u)) (i : Nat) (h : Works s u) :
    Works s (byStanding i take u) := by
  fun_cases byStanding i take u with
  | case1 => exact ht u h
  | case2 => exact h
  | case3 =>
    fun_cases tearPhase2 u with
    | case1 => exact h.step rfl rfl
    | case2 => exact h

@[simp] theorem stageWord_works (i : Nat) (n : Fin 7) (w : Word) (h : Works s u) : Works s (stageWord i n w u) := by
  fun_cases stageWord i n w u <;> simp [h]

@[simp] theorem tearFetch_works (i : Nat) (h : Works s u) : Works s (tearFetch i u) := by
  fun_cases tearFetch i u <;> simp [h]

@[simp] theorem takeField_works (i : Nat) (n : Fin 7) (w : Word) (h : Works s u) : Works s (takeField i n w u) := by
  simp [takeField, h]

@[simp] theorem settleCommit_works (i : Nat) (c : CommitFlags) (seq : BitVec 12) (h : Works s u) :
    Works s (settleCommit i c seq u) := by
  fun_cases settleCommit i c seq u with
  | case1 => exact h
  | case2 => exact setCap_works _ (setInstrument_works i _ (setCap_works _ h))
  | case3 => exact applyCommit_works _ _ _ _ _ (setInstrument_works i _ (setCap_works _ h))
  | case4 => exact setCap_works _ (setInstrument_works i _ (setCap_works _ h))

@[simp] theorem acceptCommit_works (i : Nat) (w : Word) (r : Instrument) (h : Works s u) :
    Works s (acceptCommit i w r u) := by
  unfold acceptCommit
  refine settleCommit_works _ _ _ ?_
  split <;> simp [h]

@[simp] theorem takeCommit_works (i : Nat) (w : Word) (h : Works s u) : Works s (takeCommit i w u) := by
  fun_cases takeCommit i w u <;> simp [h]

@[simp] theorem endAttempt_works (e : FetchEntry) (rest : List FetchEntry) (plan : List (Fin 7))
    (got : List (Word × Bool)) (h : Works s u) : Works s (endAttempt e rest plan got u) := by
  have hs := setCap_works { u.cap with attempt := none } h
  fun_cases endAttempt e rest plan got u with
  | case1 => exact applyCommit_works _ _ _ _ _ (setCap_works _ hs)
  | case2 => exact applyCommit_works _ _ _ _ _ (postFault_works _ _ _ (setCap_works _ hs))
  | case3 => exact hs

@[simp] theorem takeFetched_works (w : Word) (good : Bool) (h : Works s u) : Works s (takeFetched w good u) := by
  fun_cases takeFetched w good u <;> simp [h]

/-! ### LOAD and CLOSE -/

@[simp] theorem loadRefused_works (code : ResultCode) (d : Nat) (h : Works s u) : Works s (loadRefused code d u) :=
  endRefused_works code d (setPartState_works .unloaded (h.step rfl rfl))

@[simp] theorem placeDirectory_works (d : DirectoryRead) (h : Works s u) : Works s (placeDirectory d u) := by
  fun_cases placeDirectory d u with
  | case1 hd => exact h.trans (placePart_works portBlocks_unique.2.2.1 (cyclesOf_eq_zero hd.2))
  | case2 => exact h

@[simp] theorem pumpDirectory_works (h : Works s u) : Works s (pumpDirectory u) := by
  fun_cases pumpDirectory u <;> simp [h]

@[simp] theorem readOn_works (d : DirectoryRead) (h : Works s u) : Works s (readOn d u) :=
  placeDirectory_works d (h.step rfl rfl)

@[simp] theorem fillWatchLists_works (header : List Word) (h : Works s u) : Works s (fillWatchLists header u) := by
  unfold fillWatchLists
  generalize all16 = ls
  induction ls generalizing u with
  | nil => exact h
  | cons l ls ih => exact ih (by simp [h])

@[simp] theorem endPhase1_works (header : List Word) (rs : List Instrument) (h : Works s u) :
    Works s (endPhase1 header rs u) :=
  pumpCapture_works (fillWatchLists_works header (h.step rfl rfl))

@[simp] theorem takeHeaderWord_works (d : DirectoryRead) (w : Word) (h : Works s u) :
    Works s (takeHeaderWord d w u) := by
  fun_cases takeHeaderWord d w u <;> simp [h]

@[simp] theorem takeEntryWord_works (d : DirectoryRead) (w : Word) (h : Works s u) :
    Works s (takeEntryWord d w u) := by
  fun_cases takeEntryWord d w u <;> simp [h]

@[simp] theorem takeDirectoryWord_works (w : Word) (good : Bool) (h : Works s u) :
    Works s (takeDirectoryWord w good u) := by
  fun_cases takeDirectoryWord w good u <;> simp [h]

@[simp] theorem loadEnd_works (header : List Word) (h : Works s u) : Works s (loadEnd header u) := by
  unfold loadEnd
  refine chooseAll_works (driveSettle_works _ (endDone_works (setPartState_works _ (postAll_works _
    (setDrive_works _ (updateTape_works _ (h.step rfl rfl))))))) 

@[simp] theorem nextInstrument_works (r : RecordRead) (h : Works s u) : Works s (nextInstrument r u) := by
  fun_cases nextInstrument r u with
  | case1 => exact h.step rfl rfl
  | case2 => simp [h]

@[simp] theorem endRecordRead_works (r : RecordRead) (got : List (Word × Bool)) (h : Works s u) :
    Works s (endRecordRead r got u) := by
  unfold endRecordRead
  split
  · exact h.step rfl rfl
  · refine nextInstrument_works r ?_
    split <;> split <;> simp [h]

@[simp] theorem takeRecordWord_works (w : Word) (good : Bool) (h : Works s u) :
    Works s (takeRecordWord w good u) := by
  fun_cases takeRecordWord w good u with
  | case1 => exact h.step rfl rfl
  | case2 => simp [h]
  | case3 => exact h

@[simp] theorem noticeAll_works (h : Works s u) : Works s (noticeAll u) := by
  unfold noticeAll
  refine chooseAll_works (recomputeBoards_works _ ?_)
  generalize List.range u.tbl.instruments.length = is
  induction is generalizing u with
  | nil => exact h
  | cons i is ih => exact ih (noticeLines_works i h)

@[simp] theorem closeDay_works (h : Works s u) : Works s (closeDay u) := by
  fun_cases closeDay u with
  | case1 => simp [h]
  | case2 => exact endDone_works (noticeAll_works (post_works _ (h.step rfl rfl)))

/-- What the taking of LOAD clears, before anything is posted (R53). -/
def loadCleared (s : State) : State :=
  { s with
    mem := s.mem.withdrawCapture
    handed := keepControl s.handed
    tbl := InstrumentTable.empty
    cap := CaptureUnit.empty
    links := Vector.ofFn (fun k => s.links[k].loadTaken)
    tape := s.tape.loadTaken
    lines := Vector.replicate 16 Line.off }

theorem clearForLoad_works (s : State) : Works (loadCleared s) (clearForLoad s) :=
  driveSettle_works s (post_works _ (postAll_works _ (setPartState_works _ (.refl (loadCleared s)))))

theorem loadTaken_works (s : State) : Works (loadCleared s) (loadTaken s) := by
  have h := clearForLoad_works s
  fun_cases loadTaken s with
  | case1 => exact loadRefused_works _ _ h
  | case2 => exact readOn_works _ h

/-! ### The Control Unit's own events -/

@[simp] theorem latchWord_works (off : Nat) (w : Word) (h : Works s u) : Works s (latchWord off w u) := by
  fun_cases latchWord off w u with
  | case1 => exact h.step rfl rfl
  | case2 => exact h

@[simp] theorem takeFaultIndex_works (off : Nat) (w : Word) (h : Works s u) : Works s (takeFaultIndex off w u) := by
  fun_cases takeFaultIndex off w u <;> simp [h]

@[simp] theorem takeInboxIndex_works (off : Nat) (w : Word) (h : Works s u) : Works s (takeInboxIndex off w u) := by
  fun_cases takeInboxIndex off w u with
  | case1 => exact postChanged_works _ _ (h.step rfl rfl)
  | case2 => exact h

@[simp] theorem clearCausesTaken_works (h : Works s u) : Works s (clearCausesTaken u) := by
  fun_cases clearCausesTaken u with
  | case1 => exact endRefused_works _ _ h
  | case2 => exact endDone_works (post_works _ (setCauses_works _ h))

end

end Sys2Proof.Machine
end


section
/-! The bounds of the RAM port, kept by every command. -/

namespace Sys2Proof.Machine

open Sys2Proof

/-- The bounds of the port, with the four blocks under one quantifier. -/
structure PortSound (s : State) : Prop where
  postponed : s.mem.refresh.postponed ≤ 8
  passed : ∀ p ∈ s.mem.parts, p.passed ≤ 16
  cycles : ∀ w ∈ portBlocks, s.cyclesOf w ≤ 1

/-- Each source is a source of exactly one block. -/
theorem portBlocks_countP (l : List PartCycle) :
    l.length = (portBlocks.map (fun w => l.countP (fun p => w p.source))).sum := by
  induction l with
  | nil => rfl
  | cons p l ih =>
    simp only [portBlocks, List.map_cons, List.map_nil, List.sum_cons, List.sum_nil] at ih ⊢
    simp only [List.countP_cons, List.length_cons]
    cases p.source <;> simp <;> omega

theorem portBounded_iff (s : State) : s.PortBounded ↔ PortSound s := by
  constructor
  · rintro ⟨hr, hp, h1, h2, h3, h4, _⟩
    refine ⟨hr, hp, ?_⟩
    simp [portBlocks, h1, h2, h3, h4]
  · rintro ⟨hr, hp, hc⟩
    have hq := portBlocks_countP s.mem.parts
    simp only [portBlocks, List.forall_mem_cons, List.map_cons, List.map_nil, List.sum_cons, List.sum_nil] at hc hq
    obtain ⟨h1, h2, h3, h4, -⟩ := hc
    refine ⟨hr, hp, h1, h2, h3, h4, ?_⟩
    simp only [State.cyclesOf] at h1 h2 h3 h4
    omega

/-! ### What keeps the bounds -/

theorem PortSound.works {s t : State} (hs : PortSound s) (h : Works s t) : PortSound t := by
  refine ⟨by rw [h.mem]; exact hs.postponed, fun p hp => ?_, fun w hw => h.cycles w hw (hs.cycles w hw)⟩
  obtain ⟨l, hl, h0⟩ := h.parts
  rw [hl] at hp
  rcases List.mem_append.mp hp with hp | hp
  · exact hs.passed p hp
  · simp [h0 p hp]

/-- Fewer cycles in the queue, and nothing more on the port, keep the bounds. -/
theorem PortSound.of_fewer {s t : State} (hs : PortSound s) (hr : t.mem.refresh.postponed ≤ 8)
    (hp : t.mem.parts.Sublist s.mem.parts) (ho : t.mem.port = none ∨ t.mem.port = s.mem.port) : PortSound t := by
  refine ⟨hr, fun p h => hs.passed p (hp.subset h), fun w hw => le_trans ?_ (hs.cycles w hw)⟩
  have hc := hp.countP_le (p := fun p => w p.source)
  unfold State.cyclesOf
  rcases ho with ho | ho <;> rw [ho]
  · simp only
    omega
  · omega

theorem PortSound.free {s : State} (hs : PortSound s) : PortSound (freePort s) :=
  hs.of_fewer hs.postponed (List.Sublist.refl _) (.inl rfl)

/-- A state whose Memory Path differs in nothing that the bounds speak of. -/
theorem PortSound.of_eq {s t : State} (hs : PortSound s) (hr : t.mem.refresh = s.mem.refresh)
    (hp : t.mem.parts = s.mem.parts) (ho : t.mem.port = s.mem.port) : PortSound t :=
  hs.of_fewer (by rw [hr]; exact hs.postponed) (by rw [hp]) (.inr ho)

/-- Being passed over leaves a cycle's source. -/
theorem countP_passOver (w : PartSource → Bool) (l : List PartCycle) :
    (l.map PartCycle.passOver).countP (fun p => w p.source) = l.countP (fun p => w p.source) := by
  rw [List.countP_map]; rfl

theorem oldestPart_parts {s : State} {p : PartCycle} {rest : List PartCycle} (h : s.oldestPart = some (p, rest)) :
    s.mem.parts = p :: rest := by
  unfold State.oldestPart at h
  split at h
  · cases h
  · split at h
    · cases h
    · cases h
      assumption

/-- A granted part cycle was the oldest. -/
theorem arbiterChoice_part {s : State} {p : PartCycle} {rest : List PartCycle}
    (h : s.arbiterChoice = some (.part p rest)) : s.mem.parts = p :: rest := by
  revert h
  fun_cases State.arbiterChoice s <;> intro h <;> cases h <;> exact oldestPart_parts ‹_›

/-- The grant takes the oldest part cycle from the queue to the port, or counts against those that wait. -/
theorem PortSound.grant {s : State} (hs : PortSound s) : PortSound (grant s) := by
  unfold Machine.grant
  split
  · exact hs
  rename_i ho
  split
  · exact hs
  rename_i g hg
  have passed (m : MemoryPath) (hr : m.refresh = s.mem.refresh) (hp : m.parts = s.mem.parts.map PartCycle.passOver)
      (hport : ∀ p d, m.port ≠ some (.part p d)) : PortSound { s with mem := m } := by
    refine ⟨by rw [hr]; exact hs.postponed, fun p h => ?_, fun w hw => ?_⟩
    · rw [hp] at h
      obtain ⟨q, -, rfl⟩ := List.mem_map.mp h
      exact Nat.min_le_left 16 _
    · have hc := hs.cycles w hw
      simp only [State.cyclesOf, hp, countP_passOver, ho] at hc ⊢
      exact hc
  cases g with
  | refresh => exact passed _ rfl rfl (by simp [MemoryPath.give])
  | host c => exact passed _ rfl rfl (by simp [MemoryPath.give])
  | part p rest =>
    have hparts : s.mem.parts = p :: rest := arbiterChoice_part hg
    refine ⟨hs.postponed, fun q hq => hs.passed q (by rw [hparts]; exact List.mem_cons_of_mem p hq), fun w hw => ?_⟩
    have hc := hs.cycles w hw
    simp only [State.cyclesOf, hparts, ho, List.countP_cons, MemoryPath.give] at hc ⊢
    exact hc

/-! ### The operations of the Memory Path -/

section
variable {s : State}

theorem PortSound.postFault (hs : PortSound s) (k : FaultKind) (subj : Subject) (d : List Nat) :
    PortSound (postFault k subj d s) := hs.works (postFault_works k subj d (.refl s))

theorem PortSound.endHost (hs : PortSound s) (e : Ending) (r : Option RamWord) : PortSound (endHost e r s) :=
  hs.of_eq rfl rfl rfl

theorem PortSound.refuseHost (hs : PortSound s) (k : FaultKind) (c : BusCycle) (d : List Nat) :
    PortSound (refuseHost k c d s) := (hs.endHost _ _).postFault _ _ _

theorem PortSound.admitHost (hs : PortSound s) (c : BusCycle) : PortSound (admitHost c s) := by
  fun_cases Machine.admitHost c s with
  | case1 => exact hs.endHost _ _
  | case2 => exact hs.of_eq rfl rfl rfl

theorem PortSound.guardCheck (hs : PortSound s) (c : BusCycle) : PortSound (guardCheck c s) := by
  fun_cases Machine.guardCheck c s with
  | case1 => exact hs.admitHost c
  | case2 => exact hs.refuseHost _ _ _
  | case3 => exact (hs.endHost _ _).postFault _ _ _

theorem PortSound.writeCheck (hs : PortSound s) (c : BusCycle) : PortSound (writeCheck c s) := by
  fun_cases Machine.writeCheck c s with
  | case1 | case3 => exact hs.refuseHost _ _ _
  | case2 => exact PortSound.refuseHost (s := disarm s) (hs.of_eq rfl rfl rfl) _ _ _
  | case4 => exact hs.guardCheck c

theorem PortSound.arriveHost (hs : PortSound s) (c : BusCycle) : PortSound (arriveHost c s) := by
  fun_cases Machine.arriveHost c s with
  | case1 => exact hs.endHost _ _
  | case2 | case3 => exact hs.refuseHost _ _ _
  | case4 => exact hs.writeCheck c
  | case5 => exact hs.admitHost c

theorem PortSound.serveRead (hs : PortSound s) (c : HostCycle) (cut : Bool) : PortSound (serveRead c cut s) := by
  fun_cases Machine.serveRead c cut s with
  | case1 | case2 => exact hs.free.endHost _ _
  | case3 => exact (hs.free.endHost _ _).postFault _ _ _

theorem PortSound.writeRam (hs : PortSound s) (a : Nat) (w : Word) : PortSound (writeRam a w s) :=
  hs.of_eq rfl rfl rfl

theorem PortSound.handOver (hs : PortSound s) (a : Nat) (w : Word) : PortSound (handOver a w s) := by
  refine hs.of_eq ?_ ?_ ?_ <;> rw [handOver_mem]

theorem PortSound.serveWrite (hs : PortSound s) (c : HostCycle) (cut : Bool) : PortSound (serveWrite c cut s) := by
  fun_cases Machine.serveWrite c cut s with
  | case1 => exact hs.free.endHost _ _
  | case2 => exact (hs.free.endHost _ _).postFault _ _ _
  | case3 => exact (hs.free.writeRam _ _).endHost _ _
  | case4 => exact ((hs.free.writeRam _ _).endHost _ _).handOver _ _

/-- A cycle on the port is the only one of its block: once the port is free the block has none. -/
theorem PortSound.cyclesOf_freePort (hs : PortSound s) {p : PartCycle} {d : Bool} {w : PartSource → Bool}
    (hp : s.mem.port = some (.part p d)) (hw : w ∈ portBlocks) (hsrc : w p.source = true) :
    (freePort s).cyclesOf w = 0 := by
  have hc := hs.cycles w hw
  simp only [State.cyclesOf, hp, hsrc, freePort_mem] at hc ⊢
  simpa using hc

theorem completeEntry_works (e : WbEntry) {u : State} (h : Works s u) : Works s (completeEntry e u) := by
  cases e with
  | table => exact h
  | faultRecord => exact post_works _ (setLog_works _ h)
  | inboxSlot => exact reportWritten_works _ _ (post_works .inboxStatus (h.step rfl rfl))

/-- After a served write-back the next one is placed, the port holding none. -/
theorem PortSound.writeBackNext (hs : PortSound s) (hz : s.cyclesOf (· == .writeBack) = 0) :
    PortSound (writeBackNext s) := by
  have hset (a : Option (WbEntry × Nat)) : PortSound (setActive a s) := hs.of_eq rfl rfl rfl
  fun_cases Machine.writeBackNext s with
  | case1 => exact hs.works (pumpWriteBack_works s)
  | case2 e n => exact (hset _).works (placePart_works portBlocks_unique.2.2.2.1 hz)
  | case3 e n => exact (hset none).works ((completeEntry_works e (.refl _)).trans (pumpWriteBack_works _))

theorem placeClear_works (s : State) : Works s (placeClear s) := by
  fun_cases placeClear s with
  | case1 h =>
    refine placePart_works portBlocks_unique.2.2.2.2 (cyclesOf_eq_zero ?_)
    simpa using (Bool.and_eq_true_iff.mp h).2
  | case2 => exact .refl s

theorem PortSound.placeClear (hs : PortSound s) : PortSound (placeClear s) := hs.works (placeClear_works s)

theorem PortSound.clearNext (hs : PortSound s) : PortSound (clearNext s) := by
  have hfree : PortSound (freePort { s with mem := { s.mem with ram := s.mem.ram.clearNext } }) :=
    hs.of_fewer hs.postponed (List.Sublist.refl _) (.inl rfl)
  fun_cases Machine.clearNext s with
  | case1 => exact hfree.of_eq rfl rfl rfl
  | case2 => exact hfree.placeClear

/-! ### The resets -/

/-- With the queue empty a block has at most the cycle on the port. -/
theorem PortSound.of_empty (hr : s.mem.refresh.postponed ≤ 8) (hp : s.mem.parts = []) : PortSound s := by
  refine ⟨hr, by simp [hp], fun w _ => ?_⟩
  simp only [State.cyclesOf, hp, List.countP_nil]
  split
  · split <;> omega
  · omega

theorem PortSound.abandonHost (hs : PortSound s) : PortSound (abandonHost s) := by
  fun_cases Machine.abandonHost s with
  | case1 => exact hs.endHost _ _
  | case2 => exact hs

theorem PortSound.startClearing (hs : PortSound s) (p : Straps) : PortSound (startClearing p s) := by
  refine PortSound.placeClear (hs.of_fewer ?_ (List.Sublist.refl _) (.inr rfl))
  simp [Refresh.restart]

theorem loadCleared_sound (hs : PortSound s) : PortSound (loadCleared s) := by
  refine ⟨hs.postponed, fun p hp => hs.passed p (List.mem_of_mem_filter hp), fun w hw => le_trans ?_ (hs.cycles w hw)⟩
  have hc := (List.filter_sublist (p := fun p : PartCycle => !captureSource p.source) (l := s.mem.parts)).countP_le
    (p := fun p => w p.source)
  simp only [State.cyclesOf, loadCleared, MemoryPath.withdrawCapture]
  split <;> rename_i ho
  · split at ho <;> simp_all
  · omega

/-! ### The events -/

/-- A part read that returns works after the port has become free. -/
theorem PortSound.onPartRead (hs : PortSound s) {discarded : State → State} {take : Word → Bool → State → State}
    (hd : ∀ u, PortSound u → PortSound (discarded u)) (ht : ∀ w g u, PortSound u → PortSound (take w g u))
    (which : PartSource → Bool) (n : Nat) : PortSound (onPartRead which n discarded take s) := by
  have hreturn (p : PartCycle) : PortSound (partReturn p n s) := by
    refine PortSound.free ?_
    split
    · exact hs
    · exact hs.postFault _ _ _
  fun_cases Machine.onPartRead which n discarded take s with
  | case1 p => exact hd _ (hreturn p)
  | case2 p => exact ht _ _ _ (hreturn p)
  | case3 | case4 => exact hs

theorem PortSound.onCommand (hs : PortSound s) {owning : State → State}
    (ho : ∀ u, PortSound u → PortSound (owning u)) (codes : Nat → Bool) : PortSound (onCommand codes owning s) := by
  fun_cases Machine.onCommand codes owning s with
  | case1 w _ _ _ =>
    have harrived : PortSound (setCommandCause false (popHanded s)) := hs.of_eq rfl rfl rfl
    fun_cases arrive w owning (popHanded s) with
    | case1 => exact harrived.works (refuseBusy_works w (.refl _))
    | case2 =>
      have htaken := harrived.works (takeCommand_works w (.refl _))
      fun_cases examine w owning (takeCommand w (setCommandCause false (popHanded s))) with
      | case1 | case2 => exact htaken.works (endRefused_works _ _ (.refl _))
      | case3 => exact ho _ htaken
  | case2 | case3 => exact hs

end

/-- Every command keeps the bounds of the port. -/
theorem exec_portSound {c : Instr} {s t : State} (hs : PortSound s) (h : exec c s = .next t) : PortSound t := by
  have work {u : State} (h : answer u = .next t) (hu : Works s u) : PortSound t := by
    cases h
    exact (hs.works hu).grant
  have keep {u : State} (h : answer u = .next t) (hu : PortSound u) : PortSound t := by
    cases h
    exact hu.grant
  cases c with
  | hostCycle b => exact keep h (by split; exacts [hs, hs.arriveHost b])
  | hostReadServed =>
    refine keep h ?_
    split
    · split
      · exact hs
      · exact hs.serveRead _ _
    · exact hs
  | hostWriteServed =>
    refine keep h ?_
    split
    · split
      · exact hs.serveWrite _ _
      · exact hs
    · exact hs
  | refreshRequest =>
    refine keep h ?_
    split
    · exact hs.of_fewer (Nat.min_le_left 8 _) (List.Sublist.refl _) (.inr rfl)
    · exact hs
  | refreshCycle =>
    refine keep h ?_
    split
    · exact hs.of_fewer (le_trans (Nat.sub_le _ _) hs.postponed) (List.Sublist.refl _) (.inl rfl)
    · exact hs
  | externalReset => exact keep h (by split; exacts [hs, .of_empty hs.postponed rfl])
  | externalResetRelease p =>
    refine keep h ?_
    split
    · exact PortSound.placeClear (hs.of_eq rfl rfl rfl)
    · exact hs
  | powerOnReset p =>
    refine keep h (PortSound.startClearing ?_ p)
    exact .of_empty hs.abandonHost.postponed rfl
  | supplyLowReset =>
    refine keep h ?_
    split
    · exact hs
    · exact .of_empty hs.abandonHost.postponed rfl
  | supplyReturn p =>
    refine keep h ?_
    split
    · refine PortSound.startClearing ?_ p
      exact hs.of_eq rfl rfl rfl
    · exact hs
  | regionClearWritten =>
    refine keep h ?_
    split
    · split
      · exact hs.clearNext
      · exact hs
    · exact hs
  | resetEnd p =>
    refine keep h ?_
    split
    · exact PortSound.works (s := resetBlocks p s) (hs.of_eq rfl rfl rfl) (postAll_works _ (.refl _))
    · exact hs
  | writeBackWritten =>
    refine keep h ?_
    split
    · rename_i p d hp
      split
      · rename_i w hsrc _
        have hfree : PortSound (freePort (writeRam p.addr w s)) := (hs.writeRam _ _).free
        simp only
        split
        · exact hfree.works (pumpWriteBack_works _)
        · refine hfree.writeBackNext ?_
          exact (hs.writeRam p.addr w).cyclesOf_freePort hp (by simp [portBlocks]) (by simp [hsrc])
      · exact hs
    · exact hs
  | setGuard =>
    refine keep h (hs.onCommand (fun u hu => ?_) _)
    fun_cases setGuardTaken u with
    | case1 | case2 => exact hu.works (endRefused_works _ _ (.refl _))
    | case3 _ n g =>
      exact PortSound.works (s := setWindow n g u) (hu.of_eq rfl rfl rfl) (endDone_works (.refl _))
  | lockGuards =>
    refine keep h (hs.onCommand (fun u hu => ?_) _)
    exact PortSound.works (s := { u with mem := { u.mem with guardLock := true } }) (hu.of_eq rfl rfl rfl)
      (endDone_works (.refl _))
  | armTrap =>
    refine keep h (hs.onCommand (fun u hu => ?_) _)
    fun_cases armTrapTaken u with
    | case1 a m =>
      exact PortSound.works (s := { u with mem := { u.mem with trap := ⟨BitVec.ofNat 20 a, BitVec.ofNat 20 m, true⟩ } })
        (hu.of_eq rfl rfl rfl) (endDone_works (.refl _))
    | case2 => exact hu.works (endRefused_works _ _ (.refl _))
  | load => exact keep h (hs.onCommand (fun u hu => (loadCleared_sound hu).works (loadTaken_works u)) _)
  | parameterWordWrite => exact work h (onControlWord_works (fun _ _ _ => latchWord_works _ _) _)
  | faultReadIndexWrite => exact work h (onControlWord_works (fun _ _ _ => takeFaultIndex_works _ _) _)
  | inboxReadIndexWrite => exact work h (onControlWord_works (fun _ _ _ => takeInboxIndex_works _ _) _)
  | alertEnablesWrite =>
    exact work h (onControlWord_works (take := takeEnables) (fun _ _ _ hu => hu.step rfl rfl) _)
  | unknownCommand => exact work h (onCommand_works (fun _ hu => hu) _)
  | close => exact work h (onCommand_works (fun _ => closeDay_works) _)
  | confirm =>
    exact work h (onCommand_works (fun _ => settleHold_works (fun _ _ _ _ => confirmHold_works _ _ _)) _)
  | withdraw =>
    exact work h (onCommand_works (fun _ => settleHold_works (fun _ _ _ _ => withdrawHold_works _ _ _)) _)
  | remap => exact work h (onCommand_works (fun _ => remapTaken_works) _)
  | restore => exact work h (onCommand_works (fun _ => restoreTaken_works) _)
  | rearm => exact work h (onCommand_works (fun _ => rearmTaken_works) _)
  | lampTest => exact work h (onCommand_works (fun _ => lampTestTaken_works) _)
  | clearLimitLog => exact work h (onCommand_works (fun _ => clearLogTaken_works) _)
  | tapeHold => exact work h (onCommand_works (fun _ hu => endDone_works (updateTape_works _ hu)) _)
  | tapeResume => exact work h (onCommand_works (fun _ hu => endDone_works (updateTape_works _ hu)) _)
  | setLine => exact work h (onCommand_works (fun _ => setLineTaken_works) _)
  | clearCauses => exact work h (onCommand_works (fun _ => clearCausesTaken_works) _)
  | directoryReadReturn =>
    refine keep h ?_
    split
    · split
      · exact hs
      · exact hs.works (loadRefused_works _ _ (.refl s))
    · exact hs.onPartRead (fun _ hu => hu.works (pumpDirectory_works (.refl _)))
        (fun w g _ hu => hu.works (takeDirectoryWord_works w g (.refl _))) _ _
  | phase2ReadReturn =>
    exact keep h (hs.onPartRead (fun _ hu => hu.works (pumpCapture_works (.refl _)))
      (fun w g _ hu => hu.works (pumpCapture_works (takeRecordWord_works w g (.refl _)))) _ _)
  | fetchReadReturn =>
    exact keep h (hs.onPartRead (fun _ hu => hu.works (pumpCapture_works (.refl _)))
      (fun w g _ hu => hu.works (pumpCapture_works (takeFetched_works w g (.refl _)))) _ _)
  | fieldWrite =>
    refine work h (onCaptureWord_works (fun i n w u hu => ?_) _)
    split
    · exact byStanding_works (fun _ => takeField_works _ _ _) i hu
    · exact hu
  | commitWrite =>
    exact work h (onCaptureWord_works
      (fun i _ w u hu => pumpCapture_works (byStanding_works (fun _ => takeCommit_works i w) i hu)) _)
  | frameSent k => exact work h (frameGone_works k (.refl s))
  | pollDue k => exact work h (chooseFrame_works k (.refl s))
  | transmitterEmpty n => exact work h (setLine_works n _ (.refl s))
  | timeBaseAdvance => exact work h (.of_eq rfl rfl)
  | watchRequest n | watchDrop n | pageRequest n | messageRequest n | ping n | goodFrameOtherKind n =>
    exact work h (onGoodFrame_works n _ (.refl s))
  | reply k _ _ _ =>
    refine work h ?_
    split
    · refine boardSettle_works s k ?_
      split <;> simp
    · exact .refl s
  | replyTimeout k =>
    refine work h ?_
    split
    · split
      · exact boardSettle_works s k (missedReply_works k _ (quietLink_works k (.refl s)))
      · exact .refl s
    · exact .refl s
  | holdExpired i =>
    refine work h ?_
    split
    · exact .refl s
    · split
      · exact .refl s
      · split <;> simp
  | staleStaging _ | flashTimerExpiry _ _ | filterTaken _ | hotCheckEnd | lampTestLinkEnd | frameAbandoned _
  | dozeExpiry _ | lineService =>
    refine work h ?_
    split
    · exact .refl s
    · split <;> simp
  | comparatorInputChange _ _ | governorSample | take | ribbonStep | blankOutEnd | markReceived _
  | characterReceived _ _ | badFrame _ _ => exact work h (by split <;> simp)

end Sys2Proof.Machine
end


section
/-! Which blocks an operation reaches: `State.outside x` is what the state holds outside the blocks of a scope `x`, and an
operation that keeps to the scope leaves it as it was. The Memory Path, what is posted, the command record, the fault log
and the handed writes are outside no scope: every operation may reach them. -/

namespace Sys2Proof.Machine

open Sys2Proof

/-- The blocks that an operation may reach: the board links with Drive Protection and the ribbon port; the ribbon and the
Print Queue; the terminal lines with the watcher sets; the Capture Unit with the Instrument Records. -/
structure Scope where
  floor : Bool
  tape : Bool
  lines : Bool
  records : Bool

/-- An Instrument Record less what a scope reaches. -/
def Scope.record (x : Scope) (r : Instrument) : Instrument :=
  { r with
    close := if x.records then none else r.close
    last := if x.records then none else r.last
    high := if x.records then none else r.high
    low := if x.records then none else r.low
    lastSize := if x.records then 0 else r.lastSize
    volume := if x.records then 0 else r.volume
    tick := if x.records then .none else r.tick
    bid := if x.records then none else r.bid
    ask := if x.records then none else r.ask
    halted := if x.records then false else r.halted
    fast := if x.records then false else r.fast
    offIncrement := if x.records then false else r.offIncrement
    lastSeq := if x.records then 0 else r.lastSeq
    hold := if x.records then none else r.hold
    fetchOnCommit := if x.records then false else r.fetchOnCommit
    watchers := if x.lines then [] else r.watchers
    lastPrintedWhole := if x.tape then none else r.lastPrintedWhole
    full := if x.tape then false else r.full }

/-- The progress of LOAD less the attempt of phase 2. -/
def LoadProgress.course : LoadProgress → LoadProgress
  | .phase2 r => .phase2 ⟨r.header, r.instr, 0, false, false, []⟩
  | l => l

/-- What a state holds outside a scope. -/
def State.outside (x : Scope) (s : State) : State :=
  { State.reset with
    rst := s.rst
    ctl := { State.reset.ctl with latches := s.ctl.latches, timeBase := s.ctl.timeBase }
    tbl := { s.tbl with instruments := s.tbl.instruments.map x.record }
    load := if x.records then s.load.course else s.load
    cap := if x.records then CaptureUnit.empty else s.cap
    links := if x.floor then Vector.replicate 8 Link.cleared else s.links
    flashTime := s.flashTime
    drive := if x.floor then State.reset.drive else s.drive
    tape :=
      if x.tape then TickerUnit.reset
      else if x.floor then { s.tape with portBrightness := 0 } else s.tape
    lines := if x.lines then Vector.replicate 16 Line.off else s.lines
    service := if x.lines then ⟨15, 15, 15⟩ else s.service
    pending := s.pending }

variable {x : Scope}

/-! ### Posting and commands: outside every scope -/

theorem OnlyPosts.outside {a b : State} (h : OnlyPosts a b) : b.outside x = a.outside x := by rw [h.eq]; rfl

@[simp] theorem grant_outside (s : State) : (grant s).outside x = s.outside x := by rw [grant_eq]; rfl

@[simp] theorem freePort_outside (s : State) : (freePort s).outside x = s.outside x := rfl

@[simp] theorem placePart_outside (p : PartSource) (a : Nat) (w : Option Word) (s : State) :
    (placePart p a w s).outside x = s.outside x := rfl

@[simp] theorem post_outside (t : TableWord) (s : State) : (post t s).outside x = s.outside x :=
  (post_onlyPosts t s).outside

@[simp] theorem postRecord_outside (e : WbEntry) (s : State) : (postRecord e s).outside x = s.outside x := by
  unfold postRecord
  exact (pumpWriteBack_onlyPosts _).outside.trans rfl

@[simp] theorem postAll_outside (ts : List TableWord) (s : State) : (postAll ts s).outside x = s.outside x :=
  (postAll_onlyPosts ts s).outside

@[simp] theorem postChanged_outside (old : State) (ts : List TableWord) (s : State) :
    (postChanged old ts s).outside x = s.outside x := (postChanged_onlyPosts old ts s).outside

@[simp] theorem postFault_outside (k : FaultKind) (subj : Subject) (d : List Nat) (s : State) :
    (postFault k subj d s).outside x = s.outside x := (postFault_onlyPosts k subj d s).outside

@[simp] theorem endCommand_outside (code : Option ResultCode) (d : Nat) (s : State) :
    (endCommand code d s).outside x = s.outside x := by
  rw [endCommand]
  exact (post_outside .commandStatus _).trans rfl

@[simp] theorem endDone_outside (s : State) : (endDone s).outside x = s.outside x := endCommand_outside none 0 s

@[simp] theorem endRefused_outside (c : ResultCode) (d : Nat) (s : State) :
    (endRefused c d s).outside x = s.outside x := endCommand_outside (some c) d s

@[simp] theorem setPartState_outside (p : PartState) (s : State) : (setPartState p s).outside x = s.outside x :=
  (post_outside .partState _).trans rfl

/-- What the owning rule of a command keeps outside a scope, the command keeps. -/
theorem onCommand_outside {owning : State → State} (ho : ∀ u, (owning u).outside x = u.outside x)
    (codes : Nat → Bool) (s : State) : (onCommand codes owning s).outside x = s.outside x := by
  fun_cases onCommand codes owning s with
  | case1 w _ _ _ =>
    fun_cases arrive w owning (popHanded s) with
    | case1 => exact (post_outside .refusal _).trans rfl
    | case2 =>
      have htaken : (takeCommand w (setCommandCause false (popHanded s))).outside x = s.outside x :=
        (post_outside .commandStatus _).trans rfl
      fun_cases examine w owning (takeCommand w (setCommandCause false (popHanded s))) with
      | case1 | case2 => rw [endRefused_outside, htaken]
      | case3 => rw [ho, htaken]
  | case2 | case3 => rfl

theorem onControlWord_outside {take : Nat → Word → State → State}
    (ht : ∀ off w u, (take off w u).outside x = u.outside x) (offs : Nat → Bool) (s : State) :
    (onControlWord offs take s).outside x = s.outside x := by
  fun_cases onControlWord offs take s with
  | case1 => exact (ht _ _ _).trans rfl
  | case2 | case3 => rfl

theorem onCaptureWord_outside {take : Nat → Nat → Word → State → State}
    (ht : ∀ i n w u, (take i n w u).outside x = u.outside x) (nums : Nat → Bool) (s : State) :
    (onCaptureWord nums take s).outside x = s.outside x := by
  fun_cases onCaptureWord nums take s with
  | case1 => exact (ht _ _ _ _).trans rfl
  | case2 | case3 => rfl

theorem onPartRead_outside {discarded : State → State} {take : Word → Bool → State → State}
    (hd : ∀ u, (discarded u).outside x = u.outside x) (ht : ∀ w g u, (take w g u).outside x = u.outside x)
    (which : PartSource → Bool) (n : Nat) (s : State) :
    (onPartRead which n discarded take s).outside x = s.outside x := by
  have hreturn (p : PartCycle) : (partReturn p n s).outside x = s.outside x := by
    unfold partReturn
    dsimp only
    split <;> simp
  fun_cases onPartRead which n discarded take s with
  | case1 p => rw [hd, hreturn]
  | case2 p => rw [ht, hreturn]
  | case3 | case4 => rfl

@[simp] theorem clearCausesTaken_outside (s : State) : (clearCausesTaken s).outside x = s.outside x := by
  fun_cases clearCausesTaken s with
  | case1 => simp
  | case2 => rw [endDone_outside, post_outside]; rfl

@[simp] theorem takeFaultIndex_outside (off : Nat) (w : Word) (s : State) :
    (takeFaultIndex off w s).outside x = s.outside x := by
  fun_cases takeFaultIndex off w s with
  | case1 => rw [postChanged_outside]; rfl
  | case2 => rfl

@[simp] theorem takeInboxIndex_outside (off : Nat) (w : Word) (s : State) :
    (takeInboxIndex off w s).outside x = s.outside x := by
  fun_cases takeInboxIndex off w s with
  | case1 => rw [postChanged_outside]; rfl
  | case2 => rfl

@[simp] theorem completeTable_outside (a : Option (WbEntry × Nat)) (s : State) :
    (setActive a s).outside x = s.outside x := rfl

/-! ### The board links, Drive Protection and the ribbon port -/

section Floor
variable (hx : x.floor = true)
include hx

@[simp] theorem setLink_outside (k : Fin 8) (l : Link) (s : State) : (setLink k l s).outside x = s.outside x := by
  simp [State.outside, setLink, hx]

@[simp] theorem setDrive_outside (d : DriveUnit) (s : State) : (setDrive d s).outside x = s.outside x := by
  simp [State.outside, setDrive, hx]

@[simp] theorem chooseFrame_outside (k : Fin 8) (s : State) : (chooseFrame k s).outside x = s.outside x := by
  rw [chooseFrame_eq]; simp [State.outside, hx]

@[simp] theorem chooseAll_outside (s : State) : (chooseAll s).outside x = s.outside x := by
  rw [chooseAll_eq]; simp [State.outside, hx]

@[simp] theorem recomputeBoards_outside (which : Nat → Bool) (s : State) :
    (recomputeBoards which s).outside x = s.outside x := by
  rw [recomputeBoards_eq]; simp [State.outside, hx]

@[simp] theorem presentStill_outside (s : State) : (presentStill s).outside x = s.outside x := by
  fun_cases presentStill s with
  | case1 => simp [State.outside, setTape, hx]
  | case2 => rfl

@[simp] theorem logReasons_outside (s : State) : (logReasons s).outside x = s.outside x := setDrive_outside hx _ s

@[simp] theorem driveSettle_outside (old s : State) : (driveSettle old s).outside x = s.outside x := by
  simp [driveSettle, hx]

@[simp] theorem boardSettle_outside (old : State) (k : Fin 8) (s : State) :
    (boardSettle old k s).outside x = s.outside x := by simp [boardSettle, hx]

@[simp] theorem floorSettle_outside (old s : State) : (floorSettle old s).outside x = s.outside x := by
  simp [floorSettle, hx]

@[simp] theorem autoRemap_outside (k : Fin 8) (p : Fin 16) (s : State) : (autoRemap k p s).outside x = s.outside x := by
  fun_cases autoRemap k p s <;> simp [hx]

@[simp] theorem enterAbsent_outside (k : Fin 8) (p : Fin 16) (s : State) :
    (enterAbsent k p s).outside x = s.outside x := by simp [enterAbsent, hx]

@[simp] theorem missedReply_outside (k : Fin 8) (f : LinkFrame) (s : State) :
    (missedReply k f s).outside x = s.outside x := by
  fun_cases missedReply k f s <;> simp [hx]

@[simp] theorem disableByPolicy_outside (k : Fin 8) (p : Fin 16) (s : State) :
    (disableByPolicy k p s).outside x = s.outside x := by
  fun_cases disableByPolicy k p s with
  | case1 | case2 => simp [hx]
  | case3 => simp [State.outside, hx]

@[simp] theorem tripTaken_outside (k : Fin 8) (p : Fin 16) (left : ModuleState) (s : State) :
    (tripTaken k p left s).outside x = s.outside x := by simp [tripTaken, hx]

@[simp] theorem takeTrip_outside (k : Fin 8) (p : Fin 16) (left : ModuleState) (s : State) :
    (takeTrip k p left s).outside x = s.outside x := by
  rw [takeTrip_eq]
  split <;> simp [hx]

@[simp] theorem goodReply_outside (k : Fin 8) (f : LinkFrame) (trip : Bool) (s : State) :
    (goodReply k f trip s).outside x = s.outside x := by
  fun_cases goodReply k f trip s <;> simp +zetaDelta [hx]

@[simp] theorem quietLink_outside (k : Fin 8) (s : State) : (quietLink k s).outside x = s.outside x :=
  setLink_outside hx k _ s

@[simp] theorem setWire_outside (k : Fin 8) (w : Wire) (s : State) : (setWire k w s).outside x = s.outside x :=
  setLink_outside hx k _ s

@[simp] theorem stopFlash_outside (k : Fin 8) (m : Fin 16) (s : State) : (stopFlash k m s).outside x = s.outside x :=
  setLink_outside hx k _ s

@[simp] theorem frameGone_outside (k : Fin 8) (s : State) : (frameGone k s).outside x = s.outside x := by
  fun_cases frameGone k s <;> simp [hx]

@[simp] theorem rearmLinks_outside (ks : List (Fin 8)) (s : State) : (rearmLinks ks s).outside x = s.outside x := by
  unfold rearmLinks
  induction ks generalizing s with
  | nil => rfl
  | cons k ks ih => rw [List.foldl_cons, ih, postChanged_outside, setLink_outside hx]

@[simp] theorem moveByCommand_outside (k : Fin 8) (m p : Fin 16) (s : State) :
    (moveByCommand k m p s).outside x = s.outside x := by simp [moveByCommand, hx]

@[simp] theorem remapTaken_outside (s : State) : (remapTaken s).outside x = s.outside x := by
  fun_cases remapTaken s <;> simp [hx]

@[simp] theorem restoreTaken_outside (s : State) : (restoreTaken s).outside x = s.outside x := by
  fun_cases restoreTaken s <;> simp [hx]

@[simp] theorem rearmTaken_outside (s : State) : (rearmTaken s).outside x = s.outside x := by
  fun_cases rearmTaken s <;> simp [rearmDone, hx]

@[simp] theorem hotCheckPassed_outside (c : HotCheck) (s : State) : (hotCheckPassed c s).outside x = s.outside x := by
  simp [hotCheckPassed, hx]

@[simp] theorem cutLampTest_outside (s : State) : (cutLampTest s).outside x = s.outside x := by
  fun_cases cutLampTest s <;> simp [hx]

@[simp] theorem takeFilter_outside (c : Comparator) (s : State) : (takeFilter c s).outside x = s.outside x := by
  fun_cases takeFilter c s <;> simp +zetaDelta [hotRise, llowRise, hx]

@[simp] theorem changeInput_outside (c : Comparator) (level : Bool) (s : State) :
    (changeInput c level s).outside x = s.outside x := by
  unfold changeInput
  fun_cases failHotCheck c level (setDrive (s.drive.setFilter c ((s.drive.filter c).change s.ctl.timeBase level)) s) <;>
    simp [hx]

@[simp] theorem takeSample_outside (s : State) : (takeSample s).outside x = s.outside x := by simp [takeSample, hx]

@[simp] theorem testNext_outside (ks : List (Fin 8)) (s : State) : (testNext ks s).outside x = s.outside x := by
  cases ks <;> simp [testNext, hx]

@[simp] theorem lampTestTaken_outside (s : State) : (lampTestTaken s).outside x = s.outside x := by
  fun_cases lampTestTaken s <;> simp [hx]

@[simp] theorem clearLogTaken_outside (s : State) : (clearLogTaken s).outside x = s.outside x := by
  simp [clearLogTaken, hx]

end Floor

/-! ### The ribbon and the Print Queue -/

/-- A record that differs from the one it replaces in what the scope reaches alone. -/
theorem setInstrument_outside {i : Nat} {r r0 : Instrument} {s : State} (h0 : s.instrument? i = some r0)
    (h : x.record r = x.record r0) : (setInstrument i r s).outside x = s.outside x := by
  have hmap : (s.tbl.instruments.set i r).map x.record = s.tbl.instruments.map x.record := by
    rw [List.map_set, h]
    refine List.ext_getElem? fun n => ?_
    rw [List.getElem?_set]
    split
    · subst i
      have hlt := (List.getElem?_eq_some_iff.mp h0).1
      rw [List.length_map, if_pos hlt, List.getElem?_map]
      exact (congrArg (Option.map x.record) h0).symm
    · rfl
  simp only [State.outside, setInstrument, hmap]

section Tape
variable (hx : x.tape = true)
include hx

@[simp] theorem setTape_outside (t : TickerUnit) (s : State) : (setTape t s).outside x = s.outside x := by
  simp [State.outside, setTape, hx]

@[simp] theorem updateTape_outside (t : TickerUnit) (s : State) : (updateTape t s).outside x = s.outside x := by
  exact (postChanged_outside s _ _).trans (setTape_outside hx t s)

@[simp] theorem joinPrint_outside {p : Print} {r : Instrument} {s : State} (hr : s.instrument? p.instr = some r) :
    (joinPrint p r s).outside x = s.outside x := by
  fun_cases joinPrint p r s with
  | case1 => exact updateTape_outside hx _ s
  | case2 =>
    rw [postFault_outside]
    exact setInstrument_outside hr (by simp [Scope.record, hx])

@[simp] theorem printTrade_outside (i : Nat) (t : TradePart) (s : State) :
    (printTrade i t s).outside x = s.outside x := by
  fun_cases printTrade i t s with
  | case1 | case3 => rfl
  | case2 r hr => exact joinPrint_outside hx hr

@[simp] theorem takePrint_outside (s : State) : (takePrint s).outside x = s.outside x := by
  unfold takePrint
  split
  · rfl
  · rename_i p _ _
    rw [post_outside]
    split
    · exact setTape_outside hx _ s
    · rename_i r hr
      refine (setInstrument_outside (s := setTape (s.tape.afterTake s.ctl.timeBase (s.instrument? p.instr) p) s)
        hr ?_).trans (setTape_outside hx _ s)
      simp [Scope.record, hx]

@[simp] theorem ribbonStep_outside (s : State) : (ribbonStep s).outside x = s.outside x := by
  fun_cases ribbonStep s <;> simp [hx]

@[simp] theorem blankOutOver_outside (s : State) : (blankOutOver s).outside x = s.outside x := by
  fun_cases blankOutOver s with
  | case1 => exact setTape_outside hx _ s
  | case2 =>
    fun_cases presentStill (setTape { s.tape with phase := 0, condition := .still } s) <;> simp [hx]

end Tape

/-! ### The terminal lines and the watcher sets -/

@[simp] theorem submitMessage_outside (n : Fin 16) (seq : Byte) (text : List Byte) (s : State) :
    (submitMessage n seq text s).outside x = s.outside x := (postRecord_outside _ _).trans rfl

section Lines
variable (hx : x.lines = true)
include hx

@[simp] theorem setLine_outside (n : Fin 16) (l : Line) (s : State) : (setLine n l s).outside x = s.outside x := by
  rw [setLine, postChanged_outside]
  simp [State.outside, hx]

@[simp] theorem countBad_outside (n : Fin 16) (cause : BadCause) (s : State) :
    (countBad n cause s).outside x = s.outside x := by
  fun_cases countBad n cause s <;> simp [hx]

@[simp] theorem badFrame_outside (n : Fin 16) (cause : BadCause) (s : State) :
    (badFrame n cause s).outside x = s.outside x := by simp [badFrame, hx]

@[simp] theorem changeWatchers_outside (i : Nat) (f : List (Fin 16) → List (Fin 16)) (s : State) :
    (changeWatchers i f s).outside x = s.outside x := by
  fun_cases changeWatchers i f s with
  | case1 => rfl
  | case2 r hr =>
    exact setInstrument_outside hr (by simp [Scope.record, hx])

@[simp] theorem actOnFrame_outside (n : Fin 16) (kind : Byte) (body : List Byte) (s : State) :
    (actOnFrame n kind body s).outside x = s.outside x := by
  fun_cases actOnFrame n kind body s with
  | case1 => fun_cases requestWatch n body s <;> simp [hx]
  | case2 => fun_cases requestDrop n body s <;> simp [hx]
  | case3 => fun_cases requestPage n body s <;> simp [hx]
  | case4 => fun_cases requestMessage n body s <;> simp [hx]
  | case5 => rfl

@[simp] theorem goodFrame_outside (n : Fin 16) (kind : Byte) (body : List Byte) (s : State) :
    (goodFrame n kind body s).outside x = s.outside x := by
  unfold goodFrame
  dsimp only
  split <;> simp [hx]

@[simp] theorem markArrives_outside (n : Fin 16) (s : State) : (markArrives n s).outside x = s.outside x := by
  unfold markArrives
  rw [setLine_outside hx]
  split <;> simp [hx]

@[simp] theorem receiveChar_outside (n : Fin 16) (c : RxChar) (s : State) :
    (receiveChar n c s).outside x = s.outside x := by
  fun_cases receiveChar n c s <;> simp [hx]

@[simp] theorem onGoodFrame_outside (n : Fin 16) (kinds : Byte → Bool) (s : State) :
    (onGoodFrame n kinds s).outside x = s.outside x := by
  fun_cases onGoodFrame n kinds s <;> simp [hx]

@[simp] theorem dozeOver_outside (n : Fin 16) (s : State) : (dozeOver n s).outside x = s.outside x :=
  setLine_outside hx n _ s

@[simp] theorem serveLine_outside (cls : Nat) (n : Fin 16) (s : State) :
    (serveLine cls n s).outside x = s.outside x := by
  fun_cases serveLine cls n s with
  | case1 => rfl
  | case2 l e rest _ =>
    rw [← setLine_outside hx n { l with out := leftAfter e rest, transmitter := buildEntry s e } s]
    simp +zetaDelta [State.outside, hx]

@[simp] theorem noticeLines_outside (i : Nat) (s : State) : (noticeLines i s).outside x = s.outside x := by
  fun_cases noticeLines i s with
  | case1 => rfl
  | case2 r hr =>
    clear hr
    generalize r.watchers = ws
    induction ws generalizing s with
    | nil => rfl
    | cons n ws ih =>
      rw [List.foldl_cons, ih]
      split
      · rfl
      · exact setLine_outside hx n _ s

@[simp] theorem reportWritten_outside (n : Fin 16) (seq : Byte) (s : State) :
    (reportWritten n seq s).outside x = s.outside x := by
  fun_cases reportWritten n seq s <;> simp [hx]

@[simp] theorem leaveWatchers_outside (n : Fin 16) (watch : List Nat) (s : State) :
    (leaveWatchers n watch s).outside x = s.outside x := by
  unfold leaveWatchers
  induction watch generalizing s with
  | nil => rfl
  | cons i watch ih => rw [List.foldl_cons, ih, changeWatchers_outside hx]

@[simp] theorem carrySetLine_outside (n : Fin 16) (rate : Rate) (cls doze : Nat) (s : State) :
    (carrySetLine n rate cls doze s).outside x = s.outside x := by
  fun_cases carrySetLine n rate cls doze s <;> simp [hx]

@[simp] theorem setLineTaken_outside (s : State) : (setLineTaken s).outside x = s.outside x := by
  fun_cases setLineTaken s <;> simp [hx]

@[simp] theorem completeEntry_outside (e : WbEntry) (s : State) : (completeEntry e s).outside x = s.outside x := by
  cases e with
  | table => rfl
  | faultRecord => exact (post_outside .faultStatus _).trans rfl
  | inboxSlot =>
    rw [completeEntry, reportWritten_outside hx, post_outside]
    rfl

end Lines

/-! ### The change notice: the tape, the lines and the boards -/

section Notice
variable (hf : x.floor = true) (ht : x.tape = true) (hl : x.lines = true)
include hf ht hl

@[simp] theorem notify_outside (i : Nat) (trade : Option TradePart) (s : State) :
    (notify i trade s).outside x = s.outside x := by
  unfold notify
  rw [chooseAll_outside hf, recomputeBoards_outside hf, noticeLines_outside hl]
  cases trade <;> simp [ht]

end Notice

/-! ### The Instrument Records and the Capture Unit -/

theorem OnlyPosts.tbl {a b : State} (h : OnlyPosts a b) : b.tbl = a.tbl := by rw [h.eq]

@[simp] theorem postFault_tbl (k : FaultKind) (subj : Subject) (d : List Nat) (s : State) :
    (postFault k subj d s).tbl = s.tbl := (postFault_onlyPosts k subj d s).tbl

@[simp] theorem postFault_instrument? (k : FaultKind) (subj : Subject) (d : List Nat) (s : State) (i : Nat) :
    (postFault k subj d s).instrument? i = s.instrument? i := by
  simp [State.instrument?]

theorem settleHold_outside {settle : Nat → Instrument → Hold → State → State}
    (hs : ∀ i r d u, u.instrument? i = some r → (settle i r d u).outside x = u.outside x) (s : State) :
    (settleHold settle s).outside x = s.outside x := by
  fun_cases settleHold settle s with
  | case1 | case2 => simp
  | case3 i r h0 => exact hs _ _ _ _ h0

section Records
variable (hr : x.records = true)
include hr

@[simp] theorem setCap_outside (c : CaptureUnit) (s : State) : (setCap c s).outside x = s.outside x := by
  simp [State.outside, setCap, hr]

@[simp] theorem tearPhase2_outside (s : State) : (tearPhase2 s).outside x = s.outside x := by
  fun_cases tearPhase2 s with
  | case1 p hp => simp [State.outside, LoadProgress.course, hp, hr]
  | case2 => rfl

theorem byStanding_outside {take : State → State} (ht : ∀ u, (take u).outside x = u.outside x) (i : Nat) (s : State) :
    (byStanding i take s).outside x = s.outside x := by
  fun_cases byStanding i take s with
  | case1 => exact ht s
  | case2 => rfl
  | case3 => exact tearPhase2_outside hr s

@[simp] theorem cancelHold_outside (i : Nat) (s : State) : (cancelHold i s).outside x = s.outside x := by
  fun_cases cancelHold i s with
  | case1 | case2 => rfl
  | case3 r h0 =>
    rw [setInstrument_outside (r0 := r) (by simpa using h0) (by simp [Scope.record, hr]), postFault_outside]

@[simp] theorem applyHalt_outside (i : Nat) (c : CommitFlags) (s : State) : (applyHalt i c s).outside x = s.outside x := by
  fun_cases applyHalt i c s with
  | case1 | case2 | case5 => rfl
  | case3 r h0 => rw [cancelHold_outside hr, setInstrument_outside h0 (by simp [Scope.record, hr])]
  | case4 r h0 => exact setInstrument_outside h0 (by simp [Scope.record, hr])

@[simp] theorem applyQuote_outside (i : Nat) (c : CommitFlags) (v : FieldValues) (s : State) :
    (applyQuote i c v s).outside x = s.outside x := by
  fun_cases applyQuote i c v s with
  | case1 | case3 => rfl
  | case2 r h0 => exact setInstrument_outside h0 (by simp [Scope.record, hr])

@[simp] theorem applyFast_outside (i : Nat) (c : CommitFlags) (s : State) : (applyFast i c s).outside x = s.outside x := by
  fun_cases applyFast i c s with
  | case1 | case4 => rfl
  | case2 r h0 => exact setInstrument_outside h0 (by simp [Scope.record, hr])
  | case3 r h0 => exact setInstrument_outside h0 (by simp [Scope.record, hr])

@[simp] theorem tradeArrives_outside (i v z : Nat) (captured : Time) (s : State) :
    (tradeArrives i v z captured s).1.outside x = s.outside x := by
  unfold tradeArrives
  split
  · rfl
  · rename_i r h0
    have hold (s1 : State) (r1 : Instrument) (h1 : s1 = s ∨ ∃ k subj d, s1 = postFault k subj d s)
        (hrec : x.record r1 = x.record r) : (setInstrument i r1 s1).outside x = s.outside x := by
      rcases h1 with rfl | ⟨k, subj, d, rfl⟩
      · exact setInstrument_outside h0 hrec
      · rw [setInstrument_outside (r0 := r) (by simpa using h0) hrec, postFault_outside]
    dsimp only
    split
    · refine hold _ _ ?_ (by simp [Scope.record, takeTrade, hr])
      split
      exacts [.inl rfl, .inr ⟨_, _, _, rfl⟩]
    · refine hold _ _ ?_ (by simp [Scope.record, hr])
      split
      exacts [.inl rfl, .inr ⟨_, _, _, rfl⟩]

@[simp] theorem applyTrade_outside (i : Nat) (c : CommitFlags) (seq : BitVec 12) (time : Time) (v : FieldValues)
    (s : State) : (applyTrade i c seq time v s).1.outside x = s.outside x := by
  fun_cases applyTrade i c seq time v s <;> simp [hr]

@[simp] theorem withdrawHold_outside {i : Nat} {r : Instrument} {s : State} (h0 : s.instrument? i = some r) (d : Hold) :
    (withdrawHold i r d s).outside x = s.outside x := by
  rw [withdrawHold, endDone_outside, setInstrument_outside h0 (by simp [Scope.record, hr])]

@[simp] theorem placeFetch_outside (s : State) : (placeFetch s).outside x = s.outside x := by
  fun_cases placeFetch s <;> simp [hr]

@[simp] theorem placePhase2_outside (s : State) : (placePhase2 s).outside x = s.outside x := by
  unfold placePhase2
  split
  · rename_i r hp
    rw [placePart_outside]
    dsimp only
    split <;> simp [State.outside, setCap, LoadProgress.course, hp, hr]
  · rfl

@[simp] theorem stageWord_outside (i : Nat) (n : Fin 7) (w : Word) (s : State) :
    (stageWord i n w s).outside x = s.outside x := by
  fun_cases stageWord i n w s with
  | case4 r h0 => exact setInstrument_outside h0 (by simp [Scope.record, hr])
  | _ => simp [hr]

@[simp] theorem takeField_outside (i : Nat) (n : Fin 7) (w : Word) (s : State) :
    (takeField i n w s).outside x = s.outside x := by
  rw [takeField, stageWord_outside hr]
  fun_cases tearFetch i s <;> simp [hr]

variable (hf : x.floor = true) (ht : x.tape = true) (hl : x.lines = true)
include hf ht hl

@[simp] theorem confirmHold_outside {i : Nat} {r : Instrument} {s : State} (h0 : s.instrument? i = some r) (d : Hold) :
    (confirmHold i r d s).outside x = s.outside x := by
  rw [confirmHold, endDone_outside, notify_outside hf ht hl,
    setInstrument_outside h0 (by simp [Scope.record, takeTrade, hr])]

@[simp] theorem applyCommit_outside (i : Nat) (c : CommitFlags) (seq : BitVec 12) (time : Time) (v : FieldValues)
    (s : State) : (applyCommit i c seq time v s).outside x = s.outside x := by
  unfold applyCommit
  dsimp only
  split
  · split <;> simp [hr, hf, ht, hl]
  · simp [hr]

@[simp] theorem drainGroupless_outside (fuel : Nat) (s : State) : (drainGroupless fuel s).outside x = s.outside x := by
  fun_induction drainGroupless fuel s <;> simp_all

@[simp] theorem pumpCapture_outside (s : State) : (pumpCapture s).outside x = s.outside x := by
  unfold pumpCapture
  dsimp only
  split
  · simp [hr, hf, ht, hl]
  · split
    · split <;> simp [hr, hf, ht, hl]
    all_goals simp [hr, hf, ht, hl]

@[simp] theorem settleCommit_outside (i : Nat) (c : CommitFlags) (seq : BitVec 12) (s : State) :
    (settleCommit i c seq s).outside x = s.outside x := by
  have hset {r : Instrument} (h0 : s.instrument? i = some r) (c1 : CaptureUnit) :
      (setInstrument i { r with fetchOnCommit := false } (setCap c1 s)).outside x = s.outside x :=
    (setInstrument_outside (s := setCap c1 s) h0 (by simp [Scope.record, hr])).trans (setCap_outside hr c1 s)
  fun_cases settleCommit i c seq s with
  | case1 => rfl
  | case2 r h0 => exact (setCap_outside hr _ _).trans (hset h0 _)
  | case3 r h0 => exact (applyCommit_outside hr hf ht hl _ _ _ _ _ _).trans (hset h0 _)
  | case4 r h0 => exact (setCap_outside hr _ _).trans (hset h0 _)

theorem acceptCommit_outside {i : Nat} {r : Instrument} {s : State} (h0 : s.instrument? i = some r) (w : Word) :
    (acceptCommit i w r s).outside x = s.outside x := by
  unfold acceptCommit
  dsimp only
  rw [settleCommit_outside hr hf ht hl]
  split
  · rw [postFault_outside, setInstrument_outside h0 (by simp [Scope.record, hr])]
  · exact setInstrument_outside h0 (by simp [Scope.record, hr])

@[simp] theorem takeCommit_outside (i : Nat) (w : Word) (s : State) : (takeCommit i w s).outside x = s.outside x := by
  fun_cases takeCommit i w s with
  | case1 | case2 => rfl
  | case3 r h0 => exact acceptCommit_outside hr hf ht hl h0 w
  | case4 r h0 => rw [acceptCommit_outside hr hf ht hl (by simpa using h0) w, postFault_outside]

@[simp] theorem takeFetched_outside (w : Word) (good : Bool) (s : State) :
    (takeFetched w good s).outside x = s.outside x := by
  fun_cases takeFetched w good s with
  | case1 => simp [hr]
  | case2 a e rest => fun_cases endAttempt e rest a.plan _ s <;> simp +zetaDelta [hr, hf, ht, hl]
  | case3 => rfl

end Records

/-! ### The events -/

/-- The scope of each event; what LOAD, CLOSE, the resets, the clearing and the time base reach is more than a scope. -/
def scopeOf : Instr → Option Scope
  | .remap | .restore | .rearm | .lampTest | .clearLimitLog => some ⟨true, false, false, false⟩
  | .frameSent _ | .reply _ _ _ _ | .replyTimeout _ | .pollDue _ | .flashTimerExpiry _ _ =>
    some ⟨true, false, false, false⟩
  | .comparatorInputChange _ _ | .filterTaken _ | .hotCheckEnd | .governorSample | .lampTestLinkEnd =>
    some ⟨true, false, false, false⟩
  | .tapeHold | .tapeResume | .take | .ribbonStep | .blankOutEnd => some ⟨false, true, false, false⟩
  | .setLine | .markReceived _ | .watchRequest _ | .watchDrop _ | .pageRequest _ | .messageRequest _ =>
    some ⟨false, false, true, false⟩
  | .ping _ | .badFrame _ _ | .frameAbandoned _ | .dozeExpiry _ | .lineService | .transmitterEmpty _ =>
    some ⟨false, false, true, false⟩
  | .characterReceived _ _ | .goodFrameOtherKind _ | .writeBackWritten => some ⟨false, false, true, false⟩
  | .withdraw | .fieldWrite | .staleStaging _ | .holdExpired _ => some ⟨false, false, false, true⟩
  | .confirm | .commitWrite | .fetchReadReturn => some ⟨true, true, true, true⟩
  | .hostCycle _ | .hostReadServed | .hostWriteServed | .refreshRequest | .refreshCycle =>
    some ⟨false, false, false, false⟩
  | .faultReadIndexWrite | .inboxReadIndexWrite | .alertEnablesWrite | .unknownCommand | .setGuard | .lockGuards
  | .armTrap | .clearCauses => some ⟨false, false, false, false⟩
  | .externalReset | .externalResetRelease _ | .powerOnReset _ | .supplyLowReset | .supplyReturn _ | .resetEnd _ => none
  | .parameterWordWrite | .load | .close | .directoryReadReturn | .phase2ReadReturn | .timeBaseAdvance | .regionClearWritten =>
    none

theorem answer_outside {u s t : State} (h : answer u = .next t) (hu : u.outside x = s.outside x) :
    t.outside x = s.outside x := by
  cases h
  rw [grant_outside, hu]

theorem arriveHost_outside (c : BusCycle) (s : State) : (arriveHost c s).outside x = s.outside x := by
  have refuse (k : FaultKind) (d : List Nat) (u : State) : (refuseHost k c d u).outside x = u.outside x :=
    (postFault_outside _ _ _ _).trans rfl
  have hadmit : (admitHost c s).outside x = s.outside x := by
    fun_cases admitHost c s <;> rfl
  fun_cases arriveHost c s with
  | case1 => rfl
  | case2 | case3 => exact refuse _ _ _
  | case4 =>
    fun_cases writeCheck c s with
    | case1 | case3 => exact refuse _ _ _
    | case2 => exact (refuse _ _ _).trans rfl
    | case4 =>
      fun_cases guardCheck c s with
      | case1 => exact hadmit
      | case2 => exact refuse _ _ _
      | case3 => exact (postFault_outside _ _ _ _).trans rfl
  | case5 => exact hadmit

theorem lockGuardsTaken_outside (s : State) : (lockGuardsTaken s).outside x = s.outside x :=
  (endDone_outside _).trans rfl

theorem handOver_outside (a : Nat) (w : Word) (s : State) : (handOver a w s).outside x = s.outside x := by
  fun_cases handOver a w s <;> rfl

/-- An event reaches nothing outside its scope. -/
theorem exec_outside {c : Instr} {s t : State} (hc : scopeOf c = some x) (h : exec c s = .next t) :
    t.outside x = s.outside x := by
  cases c with
  | externalReset | externalResetRelease _ | powerOnReset _ | supplyLowReset | supplyReturn _ | resetEnd _ => cases hc
  | parameterWordWrite | load | close | directoryReadReturn | phase2ReadReturn | timeBaseAdvance | regionClearWritten =>
    cases hc
  | remap => cases hc; exact answer_outside h (onCommand_outside (remapTaken_outside rfl) _ s)
  | restore => cases hc; exact answer_outside h (onCommand_outside (restoreTaken_outside rfl) _ s)
  | rearm => cases hc; exact answer_outside h (onCommand_outside (rearmTaken_outside rfl) _ s)
  | lampTest => cases hc; exact answer_outside h (onCommand_outside (lampTestTaken_outside rfl) _ s)
  | clearLimitLog => cases hc; exact answer_outside h (onCommand_outside (clearLogTaken_outside rfl) _ s)
  | frameSent k => cases hc; exact answer_outside h (frameGone_outside rfl k s)
  | pollDue k => cases hc; exact answer_outside h (chooseFrame_outside rfl k s)
  | reply k _ _ _ =>
    cases hc
    refine answer_outside h ?_
    split
    · rw [boardSettle_outside rfl]
      split <;> simp
    · rfl
  | replyTimeout k =>
    cases hc
    refine answer_outside h ?_
    split
    · split <;> simp
    · rfl
  | tapeHold | tapeResume =>
    cases hc
    exact answer_outside h (onCommand_outside (fun u => (endDone_outside _).trans (updateTape_outside rfl _ u)) _ s)
  | setLine => cases hc; exact answer_outside h (onCommand_outside (setLineTaken_outside rfl) _ s)
  | watchRequest n | watchDrop n | pageRequest n | messageRequest n | ping n | goodFrameOtherKind n =>
    cases hc
    exact answer_outside h (onGoodFrame_outside rfl n _ s)
  | transmitterEmpty n => cases hc; exact answer_outside h (setLine_outside rfl n _ s)
  | withdraw =>
    cases hc
    exact answer_outside h (onCommand_outside (settleHold_outside (fun _ _ d _ h0 => withdrawHold_outside rfl h0 d)) _ s)
  | confirm =>
    cases hc
    exact answer_outside h
      (onCommand_outside (settleHold_outside (fun _ _ d _ h0 => confirmHold_outside rfl rfl rfl rfl h0 d)) _ s)
  | fieldWrite =>
    cases hc
    refine answer_outside h (onCaptureWord_outside (fun i n w u => ?_) _ s)
    split
    · exact byStanding_outside rfl (takeField_outside rfl i _ w) i u
    · rfl
  | commitWrite =>
    cases hc
    refine answer_outside h (onCaptureWord_outside (fun i _ w u => ?_) _ s)
    rw [pumpCapture_outside rfl rfl rfl rfl, byStanding_outside rfl (takeCommit_outside rfl rfl rfl rfl i w)]
  | fetchReadReturn =>
    cases hc
    exact answer_outside h (onPartRead_outside (pumpCapture_outside rfl rfl rfl rfl) (by simp) _ _ s)
  | holdExpired i =>
    cases hc
    refine answer_outside h ?_
    split
    · rfl
    · rename_i r h0
      split
      · rfl
      · split
        · refine (setInstrument_outside (r0 := r) ?_ (by simp [Scope.record])).trans (postFault_outside _ _ _ _)
          rwa [postFault_instrument?]
        · rfl
  | hostCycle b =>
    refine answer_outside h ?_
    split
    · rfl
    · exact arriveHost_outside b s
  | hostReadServed =>
    refine answer_outside h ?_
    split
    · rename_i c cut _
      split
      · rfl
      · fun_cases serveRead c cut s with
        | case1 | case2 => rfl
        | case3 => exact (postFault_outside _ _ _ _).trans rfl
    · rfl
  | hostWriteServed =>
    refine answer_outside h ?_
    split
    · rename_i c cut _
      split
      · fun_cases serveWrite c cut s with
        | case1 | case3 => rfl
        | case2 => exact (postFault_outside _ _ _ _).trans rfl
        | case4 => exact (handOver_outside _ _ _).trans rfl
      · rfl
    · rfl
  | refreshRequest | refreshCycle => exact answer_outside h (by split <;> rfl)
  | writeBackWritten =>
    cases hc
    refine answer_outside h ?_
    split
    · split
      · dsimp only
        split
        · exact (pumpWriteBack_onlyPosts _).outside.trans rfl
        · fun_cases writeBackNext (freePort (writeRam _ _ s)) with
          | case1 => exact (pumpWriteBack_onlyPosts _).outside.trans rfl
          | case2 => rfl
          | case3 => exact (pumpWriteBack_onlyPosts _).outside.trans (completeEntry_outside rfl _ _)
      · rfl
    · rfl
  | faultReadIndexWrite => exact answer_outside h (onControlWord_outside takeFaultIndex_outside _ s)
  | inboxReadIndexWrite => exact answer_outside h (onControlWord_outside takeInboxIndex_outside _ s)
  | alertEnablesWrite => exact answer_outside h (onControlWord_outside (take := takeEnables) (fun _ _ _ => rfl) _ s)
  | unknownCommand => exact answer_outside h (onCommand_outside (fun _ => rfl) _ s)
  | clearCauses => exact answer_outside h (onCommand_outside clearCausesTaken_outside _ s)
  | setGuard =>
    refine answer_outside h (onCommand_outside (fun u => ?_) _ s)
    fun_cases setGuardTaken u with
    | case1 | case2 => simp
    | case3 => exact (endDone_outside _).trans rfl
  | lockGuards => exact answer_outside h (onCommand_outside lockGuardsTaken_outside _ s)
  | armTrap =>
    refine answer_outside h (onCommand_outside (fun u => ?_) _ s)
    fun_cases armTrapTaken u with
    | case1 => exact (endDone_outside _).trans rfl
    | case2 => simp
  | staleStaging _ | flashTimerExpiry _ _ | filterTaken _ | hotCheckEnd | lampTestLinkEnd | frameAbandoned _
  | dozeExpiry _ | lineService =>
    cases hc
    refine answer_outside h ?_
    split
    · rfl
    · split <;> simp
  | comparatorInputChange _ _ | governorSample | take | ribbonStep | blankOutEnd | markReceived _
  | characterReceived _ _ | badFrame _ _ =>
    cases hc
    exact answer_outside h (by split <;> simp)

/-- What the blocks but for the Memory Path and the Control Unit hold outside a scope. -/
def State.blocks (x : Scope) (s : State) : State :=
  { s.outside x with rst := State.reset.rst, ctl := State.reset.ctl }

/-- The events that change the reset's flags, the latches or the time base, and reach no other block. -/
def sparesBlocks : Instr → Bool
  | .externalResetRelease _ | .supplyReturn _ | .regionClearWritten | .parameterWordWrite | .timeBaseAdvance => true
  | _ => false

theorem placeClear_outside (s : State) : (placeClear s).outside x = s.outside x := by
  fun_cases placeClear s <;> rfl

theorem blocks_of_outside {s t : State} (h : t.outside x = s.outside x) : t.blocks x = s.blocks x := by
  rw [State.blocks, h]; rfl

theorem exec_spares {c : Instr} {s t : State} (hc : sparesBlocks c = true) (h : exec c s = .next t) :
    t.blocks x = s.blocks x := by
  have keep {u : State} (h : answer u = .next t) (hu : u.blocks x = s.blocks x) : t.blocks x = s.blocks x := by
    cases h
    rw [blocks_of_outside (grant_outside u), hu]
  cases c with
  | externalResetRelease p | supplyReturn p =>
    refine keep h ?_
    split
    · exact (blocks_of_outside (placeClear_outside _)).trans rfl
    · rfl
  | regionClearWritten =>
    refine keep h ?_
    split
    · split
      · fun_cases clearNext s with
        | case1 => rfl
        | case2 => exact (blocks_of_outside (placeClear_outside _)).trans rfl
      · rfl
    · rfl
  | parameterWordWrite =>
    refine keep h ?_
    fun_cases onControlWord (fun off => decide (1 ≤ off ∧ off ≤ 6)) latchWord s with
    | case1 off w => fun_cases latchWord off w (popHanded s) <;> rfl
    | case2 | case3 => rfl
  | timeBaseAdvance => exact keep h rfl
  | _ => cases hc

/-- An event of no scope that reaches the blocks: the beginnings and the end of resets, LOAD, CLOSE, and the two reads of
LOAD. -/
def unscoped : Instr → Bool
  | .externalReset | .powerOnReset _ | .supplyLowReset | .resetEnd _ => true
  | .load | .close | .directoryReadReturn | .phase2ReadReturn => true
  | _ => false

/-- The scope of an event in the blocks. -/
def blockScope (c : Instr) : Scope := (scopeOf c).getD ⟨false, false, false, false⟩

theorem exec_blocks {c : Instr} {s t : State} (hc : unscoped c = false) (h : exec c s = .next t) :
    t.blocks (blockScope c) = s.blocks (blockScope c) := by
  cases hx : scopeOf c with
  | some x => 
    rw [blockScope, hx]
    exact blocks_of_outside (exec_outside hx h)
  | none =>
    refine exec_spares ?_ h
    cases c <;> simp_all [scopeOf, unscoped, sparesBlocks]

/-! ### What a scope spares -/

section Spared
variable {s t : State} (h : t.blocks x = s.blocks x)
include h

theorem cap_of_blocks (hx : x.records = false) : t.cap = s.cap := by
  simpa [State.blocks, State.outside, hx] using congrArg State.cap h

theorem load_of_blocks (hx : x.records = false) : t.load = s.load := by
  simpa [State.blocks, State.outside, hx] using congrArg State.load h

theorem links_of_blocks (hx : x.floor = false) : t.links = s.links := by
  simpa [State.blocks, State.outside, hx] using congrArg State.links h

theorem drive_of_blocks (hx : x.floor = false) : t.drive = s.drive := by
  simpa [State.blocks, State.outside, hx] using congrArg State.drive h

theorem lines_of_blocks (hx : x.lines = false) : t.lines = s.lines := by
  simpa [State.blocks, State.outside, hx] using congrArg State.lines h

theorem records_of_blocks : t.tbl.instruments.map x.record = s.tbl.instruments.map x.record :=
  (congrArg (fun u : State => u.tbl.instruments) h :)

theorem tape_of_blocks (hx : x.tape = false) : ∃ b, t.tape = { s.tape with portBrightness := b } := by
  have ht := congrArg State.tape h
  simp only [State.blocks, State.outside, hx] at ht
  refine ⟨t.tape.portBrightness, ?_⟩
  cases hf : x.floor
  · have he : t.tape = s.tape := by simpa [hf] using ht
    rw [he]
  · have he : { t.tape with portBrightness := 0 } = { s.tape with portBrightness := 0 } := by simpa [hf] using ht
    exact (congrArg (fun u : TickerUnit => { u with portBrightness := t.tape.portBrightness }) he :)

theorem course_of_blocks : t.load.course = s.load.course := by
  have hl := congrArg State.load h
  simp only [State.blocks, State.outside] at hl
  split at hl
  · exact hl
  · rw [hl]

end Spared

end Sys2Proof.Machine
end


section
/-! The bounds of the Capture Unit, kept by every command. -/

namespace Sys2Proof.Machine

open Sys2Proof

/-- The scope of a change notice: everything but the records and the Capture Unit. -/
def noticeScope : Scope := ⟨true, true, true, false⟩

@[simp] theorem postFault_cap (k : FaultKind) (subj : Subject) (d : List Nat) (s : State) :
    (postFault k subj d s).cap = s.cap :=
  cap_of_blocks (blocks_of_outside (x := noticeScope) (postFault_outside k subj d s)) rfl

@[simp] theorem notify_cap (i : Nat) (t : Option TradePart) (s : State) : (notify i t s).cap = s.cap :=
  cap_of_blocks (blocks_of_outside (x := noticeScope) (notify_outside rfl rfl rfl i t s)) rfl

/-- The scope that reaches no block. -/
def noScope : Scope := ⟨false, false, false, false⟩

/-! ### Properties that look at no more than the blocks -/

/-- What a property asks of the Control Unit's steps around a command: it looks at no more than the blocks. -/
theorem onCommand_blocks {p : State → Prop} (hp : ∀ u v : State, v.outside noScope = u.outside noScope → p u → p v)
    {owning : State → State} (ho : ∀ u, p u → p (owning u)) (codes : Nat → Bool) {s : State} (hs : p s) :
    p (onCommand codes owning s) := by
  fun_cases onCommand codes owning s with
  | case1 w _ _ _ =>
    fun_cases arrive w owning (popHanded s) with
    | case1 => exact hp s _ ((post_outside .refusal _).trans rfl) hs
    | case2 =>
      have htaken := hp s (takeCommand w (setCommandCause false (popHanded s)))
        ((post_outside .commandStatus _).trans rfl) hs
      fun_cases examine w owning (takeCommand w (setCommandCause false (popHanded s))) with
      | case1 | case2 => exact hp _ _ (endRefused_outside _ _ _) htaken
      | case3 => exact ho _ htaken
  | case2 | case3 => exact hs

theorem onCaptureWord_blocks {p : State → Prop} (hpop : ∀ u : State, p u → p (popHanded u))
    {take : Nat → Nat → Word → State → State} (ht : ∀ i n w u, p u → p (take i n w u)) (nums : Nat → Bool) {s : State} (hs : p s) :
    p (onCaptureWord nums take s) := by
  fun_cases onCaptureWord nums take s with
  | case1 => exact ht _ _ _ _ (hpop _ hs)
  | case2 | case3 => exact hs

theorem onPartRead_blocks {p : State → Prop} (hp : ∀ u v : State, v.outside noScope = u.outside noScope → p u → p v)
    {discarded : State → State} {take : Word → Bool → State → State} (hd : ∀ u, p u → p (discarded u))
    (ht : ∀ w g u, p u → p (take w g u)) (which : PartSource → Bool) (n : Nat) {s : State} (hs : p s) :
    p (onPartRead which n discarded take s) := by
  have hreturn (c : PartCycle) : p (partReturn c n s) := by
    refine hp s _ ?_ hs
    unfold partReturn
    dsimp only
    split <;> simp
  fun_cases onPartRead which n discarded take s with
  | case1 c => exact hd _ (hreturn c)
  | case2 c => exact ht _ _ _ (hreturn c)
  | case3 | case4 => exact hs

/-! ### The operations of the Capture Unit, on its queues -/

@[simp] theorem cancelHold_cap (i : Nat) (s : State) : (cancelHold i s).cap = s.cap := by
  fun_cases cancelHold i s <;> simp

@[simp] theorem applyHalt_cap (i : Nat) (c : CommitFlags) (s : State) : (applyHalt i c s).cap = s.cap := by
  fun_cases applyHalt i c s <;> simp

@[simp] theorem applyQuote_cap (i : Nat) (c : CommitFlags) (v : FieldValues) (s : State) :
    (applyQuote i c v s).cap = s.cap := by
  fun_cases applyQuote i c v s <;> simp

@[simp] theorem applyFast_cap (i : Nat) (c : CommitFlags) (s : State) : (applyFast i c s).cap = s.cap := by
  fun_cases applyFast i c s <;> simp

@[simp] theorem tradeArrives_cap (i v z : Nat) (captured : Time) (s : State) :
    (tradeArrives i v z captured s).1.cap = s.cap := by
  unfold tradeArrives
  split
  · rfl
  · dsimp only
    split <;> split <;> simp

@[simp] theorem applyTrade_cap (i : Nat) (c : CommitFlags) (seq : BitVec 12) (time : Time) (v : FieldValues)
    (s : State) : (applyTrade i c seq time v s).1.cap = s.cap := by
  fun_cases applyTrade i c seq time v s <;> simp

@[simp] theorem applyCommit_cap (i : Nat) (c : CommitFlags) (seq : BitVec 12) (time : Time) (v : FieldValues)
    (s : State) : (applyCommit i c seq time v s).cap = s.cap := by
  unfold applyCommit
  dsimp only
  split
  · split <;> simp
  · simp

/-- No slot is found for an instrument that has none. -/
theorem slot_eq_none {c : CaptureUnit} {i : Nat} (h : c.slot i = none) : i ∉ c.staging.map StagingSlot.instr := by
  intro hi
  obtain ⟨t, ht, rfl⟩ := List.mem_map.mp hi
  exact List.find?_eq_none.mp h t ht (by simp)

/-- A merged commit stays in its entry: the instruments of the queue stand. -/
theorem mergeInto_instr (i : Nat) (c : CommitFlags) (seq : BitVec 12) (p : Bool) (q : List FetchEntry) :
    (mergeInto i c seq p q).map FetchEntry.instr = q.map FetchEntry.instr := by
  induction q generalizing p with
  | nil => rfl
  | cons e q ih =>
    unfold mergeInto
    split
    · rfl
    · rw [List.map_cons, ih, List.map_cons]

section
variable {s t : State}

/-- Slots freed and entries taken away, or nothing at all, keep the bounds. -/
theorem State.CaptureBounded.of_fewer (hs : s.CaptureBounded) (h1 : t.cap.staging.Sublist s.cap.staging)
    (h2 : (t.cap.fetchQueue.map FetchEntry.instr).Sublist (s.cap.fetchQueue.map FetchEntry.instr)) :
    t.CaptureBounded :=
  ⟨h1.length_le.trans hs.slots, (h1.map _).nodup hs.oneSlot, h2.nodup hs.oneEntry⟩

theorem State.CaptureBounded.of_eq (hs : s.CaptureBounded) (h : t.cap = s.cap) : t.CaptureBounded :=
  hs.of_fewer (by rw [h]) (by rw [h])

theorem captureBounded_of_empty (h : s.cap = CaptureUnit.empty) : s.CaptureBounded := by
  constructor <;> simp [h, CaptureUnit.empty]

theorem drainGroupless_bounded (fuel : Nat) (hs : s.CaptureBounded) : (drainGroupless fuel s).CaptureBounded := by
  fun_induction drainGroupless fuel s with
  | case2 fuel s e rest hq ha hp ih =>
    refine ih (hs.of_fewer (by simp) ?_)
    simp [ha]
  | _ => exact hs

theorem placeFetch_bounded (hs : s.CaptureBounded) : (placeFetch s).CaptureBounded := by
  fun_cases placeFetch s with
  | case1 => exact hs
  | case2 => exact hs.of_fewer (by simp) (by simp)
  | case3 e rest hq => exact hs.of_fewer (by simp) (by simp [hq])

theorem placePhase2_bounded (hs : s.CaptureBounded) : (placePhase2 s).CaptureBounded := by
  fun_cases placePhase2 s with
  | case1 => exact ⟨hs.slots, hs.oneSlot, hs.oneEntry⟩
  | case2 => exact hs

theorem pumpCapture_bounded (hs : s.CaptureBounded) : (pumpCapture s).CaptureBounded := by
  have hd := drainGroupless_bounded s.cap.fetchQueue.length hs
  unfold pumpCapture
  dsimp only
  split
  · exact hd
  · split
    · split
      exacts [placeFetch_bounded hd, placePhase2_bounded hd]
    · exact placeFetch_bounded hd
    · exact placePhase2_bounded hd
    · exact hd

theorem stageWord_bounded (i : Nat) (n : Fin 7) (w : Word) (hs : s.CaptureBounded) :
    (stageWord i n w s).CaptureBounded := by
  fun_cases stageWord i n w s with
  | case1 =>
    have hmap : (s.cap.staging.map (fun t => if t.instr = i then t.write n w else t)).map StagingSlot.instr =
        s.cap.staging.map StagingSlot.instr := by
      rw [List.map_map]
      refine List.map_congr_left fun t _ => ?_
      dsimp only [Function.comp]
      split <;> rfl
    exact ⟨by simpa using hs.slots, by simpa only [setCap_cap, hmap] using hs.oneSlot, hs.oneEntry⟩
  | case3 r h0 hn _ hlt =>
    refine ⟨?_, ?_, hs.oneEntry⟩
    · simp only [setCap_cap, List.length_append, List.length_singleton]
      omega
    · simp only [setCap_cap, List.map_append, List.map_cons, List.map_nil]
      exact List.nodup_append.mpr ⟨hs.oneSlot, by simp, by simpa using slot_eq_none hn⟩
  | case4 => exact hs.of_eq rfl
  | case2 | case5 => exact hs

theorem tearFetch_bounded (i : Nat) (hs : s.CaptureBounded) : (tearFetch i s).CaptureBounded := by
  fun_cases tearFetch i s with
  | case1 a e rest hq => exact hs.of_fewer (by simp) (by simp [hq])
  | case2 | case3 => exact hs

theorem byStanding_bounded {take : State → State} (ht : ∀ u : State, u.CaptureBounded → (take u).CaptureBounded)
    (i : Nat) (hs : s.CaptureBounded) : (byStanding i take s).CaptureBounded := by
  fun_cases byStanding i take s with
  | case1 => exact ht s hs
  | case2 => exact hs
  | case3 => fun_cases tearPhase2 s <;> exact hs.of_eq rfl

theorem settleCommit_bounded (i : Nat) (c : CommitFlags) (seq : BitVec 12) (hs : s.CaptureBounded) :
    (settleCommit i c seq s).CaptureBounded := by
  fun_cases settleCommit i c seq s with
  | case1 => exact hs
  | case2 => exact hs.of_fewer List.filter_sublist (by simp +zetaDelta [mergeInto_instr])
  | case3 => exact hs.of_fewer (by simp +zetaDelta) (by simp +zetaDelta)
  | case4 r _ _ _ hq =>
    refine ⟨?_, ?_, ?_⟩
    · exact (List.length_filter_le _ _).trans hs.slots
    · exact (List.filter_sublist.map _).nodup hs.oneSlot
    · have hnot : i ∉ s.cap.fetchQueue.map FetchEntry.instr := by
        simpa [List.any_eq_true] using hq
      simp only [setCap_cap, List.map_append, List.map_cons, List.map_nil]
      exact List.nodup_append.mpr ⟨hs.oneEntry, by simp, by simpa using fun a ha h => hnot (by simpa using ⟨a, ha, h⟩)⟩

theorem takeCommit_bounded (i : Nat) (w : Word) (hs : s.CaptureBounded) : (takeCommit i w s).CaptureBounded := by
  have accept (r : Instrument) (u : State) (hu : u.CaptureBounded) : (acceptCommit i w r u).CaptureBounded := by
    refine settleCommit_bounded _ _ _ (hu.of_eq ?_)
    split <;> simp
  fun_cases takeCommit i w s with
  | case1 | case2 => exact hs
  | case3 r => exact accept r s hs
  | case4 r => exact accept r _ (hs.of_eq (by simp))

theorem takeFetched_bounded (w : Word) (good : Bool) (hs : s.CaptureBounded) : (takeFetched w good s).CaptureBounded := by
  fun_cases takeFetched w good s with
  | case1 => exact hs.of_fewer (by simp) (by simp)
  | case3 => exact hs
  | case2 a e rest hq =>
    fun_cases endAttempt e rest a.plan _ s with
    | case1 | case2 => exact hs.of_fewer (by simp +zetaDelta) (by simp +zetaDelta [hq])
    | case3 => exact hs.of_fewer (by simp +zetaDelta) (by simp +zetaDelta)

end

/-! ### LOAD and CLOSE -/

@[simp] theorem fillWatchLists_outside {x : Scope} (hx : x.lines = true) (header : List Word) (s : State) :
    (fillWatchLists header s).outside x = s.outside x := by
  unfold fillWatchLists
  generalize all16 = ls
  induction ls generalizing s with
  | nil => rfl
  | cons l ls ih => rw [List.foldl_cons, ih, setLine_outside hx]

/-- An operation within the scope of a change notice leaves the Capture Unit. -/
theorem cap_of_noticeScope {s t : State} (h : t.outside noticeScope = s.outside noticeScope) : t.cap = s.cap :=
  cap_of_blocks (blocks_of_outside h) rfl

@[simp] theorem loadRefused_cap (code : ResultCode) (d : Nat) (s : State) : (loadRefused code d s).cap = s.cap :=
  cap_of_noticeScope (s := { s with tbl := InstrumentTable.empty, load := .idle })
    ((endRefused_outside _ _ _).trans (setPartState_outside _ _))

@[simp] theorem readOn_cap (d : DirectoryRead) (s : State) : (readOn d s).cap = s.cap := by
  unfold readOn placeDirectory
  split <;> rfl

/-- The end of LOAD before the tape, the governor and the posts: the lines and the links are up (R61). -/
def loadUp (header : List Word) (s : State) : State :=
  linesUp header (linksUp header { s with load := .idle, tbl := { s.tbl with dayNumber := 0 } })

theorem loadEnd_outside {x : Scope} (hf : x.floor = true) (ht : x.tape = true) (header : List Word) (s : State) :
    (loadEnd header s).outside x = (loadUp header s).outside x := by
  unfold loadEnd
  dsimp only
  rw [chooseAll_outside hf, driveSettle_outside hf, endDone_outside, setPartState_outside, postAll_outside,
    setDrive_outside hf]
  exact updateTape_outside ht _ _

@[simp] theorem loadEnd_cap (header : List Word) (s : State) : (loadEnd header s).cap = s.cap :=
  (cap_of_noticeScope (loadEnd_outside rfl rfl header s)).trans rfl

theorem clearForLoad_outside {x : Scope} (hf : x.floor = true) (s : State) :
    (clearForLoad s).outside x = (loadCleared s).outside x := by
  unfold clearForLoad
  dsimp only
  rw [driveSettle_outside hf, post_outside, postAll_outside, setPartState_outside]
  rfl

@[simp] theorem endRecordRead_cap (r : RecordRead) (got : List (Word × Bool)) (s : State) :
    (endRecordRead r got s).cap = s.cap := by
  have hnext (u : State) : (nextInstrument r u).cap = u.cap := by
    fun_cases nextInstrument r u with
    | case1 => rfl
    | case2 => simp
  unfold endRecordRead
  split
  · rfl
  · dsimp only
    rw [hnext]
    split <;> split <;> simp

theorem noticeAll_outside {x : Scope} (hf : x.floor = true) (hl : x.lines = true) (s : State) :
    (noticeAll s).outside x = s.outside x := by
  unfold noticeAll
  rw [chooseAll_outside hf, recomputeBoards_outside hf]
  generalize List.range s.tbl.instruments.length = is
  induction is generalizing s with
  | nil => rfl
  | cons i is ih => rw [List.foldl_cons, ih, noticeLines_outside hl]

section
variable {s t : State}

theorem endPhase1_bounded (header : List Word) (rs : List Instrument) (hs : s.CaptureBounded) :
    (endPhase1 header rs s).CaptureBounded := by
  refine pumpCapture_bounded (State.CaptureBounded.of_fewer hs ?_ ?_) <;>
    rw [cap_of_noticeScope (fillWatchLists_outside rfl header _)]

theorem takeDirectoryWord_bounded (w : Word) (good : Bool) (hs : s.CaptureBounded) :
    (takeDirectoryWord w good s).CaptureBounded := by
  fun_cases takeDirectoryWord w good s with
  | case1 => exact hs.of_eq (by simp)
  | case2 d => fun_cases takeHeaderWord d w s <;> exact hs.of_eq (by simp)
  | case3 d =>
    fun_cases takeEntryWord d w s with
    | case4 => exact endPhase1_bounded _ _ hs
    | _ => exact hs.of_eq (by simp)
  | case4 => exact hs

theorem takeRecordWord_bounded (w : Word) (good : Bool) (hs : s.CaptureBounded) :
    (takeRecordWord w good s).CaptureBounded := by
  fun_cases takeRecordWord w good s with
  | case1 => exact hs.of_eq rfl
  | case2 => exact hs.of_eq (by simp)
  | case3 => exact hs

theorem loadTaken_cap (s : State) : (loadTaken s).cap = CaptureUnit.empty := by
  have hclear : (clearForLoad s).cap = CaptureUnit.empty :=
    (cap_of_noticeScope (clearForLoad_outside rfl s)).trans rfl
  fun_cases loadTaken s with
  | case1 => rw [loadRefused_cap, hclear]
  | case2 => rw [readOn_cap, hclear]

theorem closeDay_cap (s : State) : (closeDay s).cap = s.cap := by
  fun_cases closeDay s with
  | case1 => exact cap_of_noticeScope (endRefused_outside _ _ _)
  | case2 =>
    rw [cap_of_noticeScope (endDone_outside _), cap_of_noticeScope (noticeAll_outside rfl rfl _),
      cap_of_noticeScope (post_outside .partState _)]

/-! ### The events -/

/-- Every command keeps the bounds of the Capture Unit. -/
theorem exec_captureBounded {c : Instr} (hs : s.CaptureBounded) (h : exec c s = .next t) : t.CaptureBounded := by
  have keep {u : State} (h : answer u = .next t) (hu : u.CaptureBounded) : t.CaptureBounded := by
    cases h
    exact hu.of_eq (by simp)
  have hout (u v : State) (h : v.outside noScope = u.outside noScope) (hu : u.CaptureBounded) :
      v.CaptureBounded := hu.of_eq (cap_of_blocks (blocks_of_outside h) rfl)
  by_cases hspared : unscoped c = false ∧ (blockScope c).records = false
  · exact hs.of_eq (cap_of_blocks (exec_blocks hspared.1 h) hspared.2)
  cases c with
  | externalReset => exact keep h (by split; exacts [hs, captureBounded_of_empty rfl])
  | powerOnReset p =>
    exact keep h (captureBounded_of_empty ((cap_of_noticeScope (placeClear_outside _)).trans rfl))
  | supplyLowReset => exact keep h (by split; exacts [hs, captureBounded_of_empty rfl])
  | resetEnd p =>
    refine keep h ?_
    split
    · exact captureBounded_of_empty ((cap_of_noticeScope (postAll_outside _ _)).trans rfl)
    · exact hs
  | load => exact keep h (onCommand_blocks hout (fun u _ => captureBounded_of_empty (loadTaken_cap u)) _ hs)
  | close => exact keep h (onCommand_blocks hout (fun u hu => hu.of_eq (closeDay_cap u)) _ hs)
  | directoryReadReturn =>
    refine keep h ?_
    split
    · split
      · exact hs
      · exact hs.of_eq (by simp)
    · refine onPartRead_blocks hout (fun u hu => ?_) (fun w g u hu => takeDirectoryWord_bounded w g hu) _ _ hs
      fun_cases pumpDirectory u with
      | case1 d => fun_cases placeDirectory d u <;> exact hu.of_eq rfl
      | case2 => exact hu
  | phase2ReadReturn =>
    exact keep h (onPartRead_blocks hout (fun _ => pumpCapture_bounded)
      (fun w g _ hu => pumpCapture_bounded (takeRecordWord_bounded w g hu)) _ _ hs)
  | fetchReadReturn =>
    exact keep h (onPartRead_blocks hout (fun _ => pumpCapture_bounded)
      (fun w g _ hu => pumpCapture_bounded (takeFetched_bounded w g hu)) _ _ hs)
  | confirm =>
    refine keep h (onCommand_blocks hout (fun u hu => ?_) _ hs)
    fun_cases settleHold confirmHold u with
    | case1 | case2 => exact hout _ _ (endRefused_outside _ _ _) hu
    | case3 => exact hu.of_eq ((cap_of_noticeScope (endDone_outside _)).trans (by simp))
  | withdraw =>
    refine keep h (onCommand_blocks hout (fun u hu => ?_) _ hs)
    fun_cases settleHold withdrawHold u with
    | case1 | case2 => exact hout _ _ (endRefused_outside _ _ _) hu
    | case3 => exact hu.of_eq ((cap_of_noticeScope (endDone_outside _)).trans (by simp))
  | fieldWrite =>
    refine keep h (onCaptureWord_blocks (fun _ hu => hu.of_eq rfl) (fun i n w u hu => ?_) _ hs)
    split
    · exact byStanding_bounded (fun v hv => stageWord_bounded i _ w (tearFetch_bounded i hv)) i hu
    · exact hu
  | commitWrite =>
    refine keep h (onCaptureWord_blocks (fun _ hu => hu.of_eq rfl) (fun i n w u hu => ?_) _ hs)
    exact pumpCapture_bounded (byStanding_bounded (fun v hv => takeCommit_bounded i w hv) i hu)
  | staleStaging i =>
    refine keep h ?_
    split
    · exact hs
    · split
      · exact hs.of_fewer (by simp) (by simp)
      · exact hs
  | holdExpired i =>
    refine keep h ?_
    split
    · exact hs
    · split
      · exact hs
      · split
        · exact hs.of_eq (by simp)
        · exact hs
  | _ => exact absurd ⟨rfl, rfl⟩ hspared

end

/-- Settles O58. -/
theorem portBoundsKept : Obligations.PortBoundsKept := by
  refine ⟨fun s t hs h => ?_, fun s t hs h => ?_⟩
  · rw [portBounded_iff] at hs ⊢
    exact step_keeps (p := PortSound) (fun _ _ h => h.of_eq rfl rfl rfl) exec_portSound hs h
  · exact step_keeps (p := State.CaptureBounded) (fun _ _ h => h.of_eq rfl) exec_captureBounded hs h

end Sys2Proof.Machine
end


section
/-! How the Instrument Records, the Fetch Queue and the Print Queue evolve under the work of the Capture Unit and the Price
Unit: one relation for the bounds of the tape and for the laws of the records. -/

namespace Sys2Proof.Machine

open Sys2Proof

/-! ### What may happen to a record -/

/-- The fields of a record that its laws and the bounds of the tape speak of. -/
def Instrument.core (r : Instrument) :
    (List Byte × FractionBase) × (Option Nat × Option Nat × Option Nat) × Option Hold × Bool :=
  ((r.symbol, r.base), (r.last, r.high, r.low), r.hold, r.halted)

/-- A hold is of a price and a size that a quote record can give. -/
def Hold.InRange (b : FractionBase) (d : Hold) : Prop := PriceInRange b d.price ∧ d.size ≤ 65535

/-- One change of a record (R82, R91, R94 to R97): a change outside its core, a trade taken, a trade held, a hold let go
with or without a halt, and the end of a halt. -/
inductive RecordStep : Instrument → Instrument → Prop
  | quiet {r r1 : Instrument} : r1.core = r.core → RecordStep r r1
  | taken (q z : Nat) (b : Bool) (r : Instrument) : RecordStep r { takeTrade q z b r with hold := none }
  | held {r : Instrument} (d : Hold) : r.halted = false → d.InRange r.base → RecordStep r { r with hold := some d }
  | freed (b : Bool) (r : Instrument) : RecordStep r { r with hold := none, halted := b }
  | resumed (r : Instrument) : RecordStep r { r with halted := false }

/-- A run of changes. -/
abbrev RecordRun : Instrument → Instrument → Prop := Relation.ReflTransGen RecordStep

theorem RecordStep.lawful {r r1 : Instrument} (h : RecordStep r r1) (hr : r.Lawful) : r1.Lawful := by
  cases h with
  | quiet h =>
    simp only [Instrument.core, Prod.mk.injEq] at h
    obtain ⟨-, ⟨hlast, hhigh, hlow⟩, hhold, hhalted⟩ := h
    refine ⟨?_, ?_, ?_⟩
    · rw [hlow, hhigh]; exact hr.together
    · rw [hlow, hhigh, hlast]; exact hr.ordered
    · rw [hhalted, hhold]; exact hr.halted
  | taken q z b =>
    refine ⟨by simp [takeTrade], fun lo hi hlo hhi => ⟨q, rfl, ?_, ?_⟩, fun _ => rfl⟩
    · simp only [takeTrade, Option.some.injEq] at hlo
      subst lo
      split <;> omega
    · simp only [takeTrade, Option.some.injEq] at hhi
      subst hi
      split <;> omega
  | held d hd => exact ⟨hr.together, hr.ordered, by simp [hd]⟩
  | freed b => exact ⟨hr.together, hr.ordered, fun _ => rfl⟩
  | resumed => exact ⟨hr.together, hr.ordered, by simp⟩

/-- What a record brings to the bounds of the tape: a symbol of at most five letters, and a hold in range. -/
def Instrument.Bounded (r : Instrument) : Prop := r.symbol.length ≤ 5 ∧ ∀ d, r.hold = some d → d.InRange r.base

theorem RecordStep.same {r r1 : Instrument} (h : RecordStep r r1) : r1.symbol = r.symbol ∧ r1.base = r.base := by
  cases h with
  | quiet h =>
    simp only [Instrument.core, Prod.mk.injEq] at h
    exact h.1
  | _ => exact ⟨rfl, rfl⟩

theorem RecordStep.bounded {r r1 : Instrument} (h : RecordStep r r1) (hr : r.Bounded) : r1.Bounded := by
  obtain ⟨hsym, hbase⟩ := h.same
  refine ⟨by rw [hsym]; exact hr.1, fun d hd => ?_⟩
  rw [hbase]
  cases h with
  | quiet h =>
    simp only [Instrument.core, Prod.mk.injEq] at h
    exact hr.2 d (h.2.2.1 ▸ hd)
  | taken | freed => cases hd
  | held d' _ hd' => cases hd; exact hd'
  | resumed => exact hr.2 d hd

theorem RecordRun.lawful {r r1 : Instrument} (h : RecordRun r r1) (hr : r.Lawful) : r1.Lawful := by
  induction h with
  | refl => exact hr
  | tail _ h ih => exact h.lawful ih

theorem RecordRun.bounded {r r1 : Instrument} (h : RecordRun r r1) (hr : r.Bounded) : r1.Bounded := by
  induction h with
  | refl => exact hr
  | tail _ h ih => exact h.bounded ih

theorem RecordRun.base {r r1 : Instrument} (h : RecordRun r r1) : r1.base = r.base := by
  induction h with
  | refl => rfl
  | tail _ h ih => rw [h.same.2, ih]

/-! ### What may happen to the records, the queues and the tape -/

/-- `t` is `s` after changes of the records in `J`, and of no more than their outskirts outside it; every entry of the
Fetch Queue is then of an instrument of `J`, and LOAD stands as it stood but for an attempt. -/
structure Evolves (J : Nat → Prop) (s t : State) : Prop where
  course : t.load.course = s.load.course
  count : t.tbl.instruments.length = s.tbl.instruments.length
  records : ∀ i r1, t.instrument? i = some r1 → ∃ r, s.instrument? i = some r ∧ RecordRun r r1 ∧ (¬ J i → r1.core = r.core)
  queue : ∀ e ∈ t.cap.fetchQueue, J e.instr

/-- A print of a price and a size that a quote record can give. -/
def Print.InRange (p : Print) : Prop := PriceInRange p.base p.price ∧ p.size ≤ 65535

/-- The tape has at most gained prints, in range and within the 128 (R145, R146). -/
def TapeGrows (t t1 : TickerUnit) : Prop :=
  ∃ l b, t1 = { t with queue := t.queue ++ l, portBrightness := b } ∧ (∀ p ∈ l, p.InRange) ∧
    (t.queue.length ≤ 128 → t1.queue.length ≤ 128)

/-- Records and queues evolve, and the tape grows. -/
structure Trades (J : Nat → Prop) (s t : State) : Prop extends Evolves J s t where
  tape : TapeGrows s.tape t.tape

theorem TapeGrows.refl (t : TickerUnit) : TapeGrows t t := ⟨[], t.portBrightness, by simp, by simp, id⟩

theorem TapeGrows.trans {a b c : TickerUnit} (h1 : TapeGrows a b) (h2 : TapeGrows b c) : TapeGrows a c := by
  obtain ⟨l1, b1, rfl, p1, n1⟩ := h1
  obtain ⟨l2, b2, rfl, p2, n2⟩ := h2
  refine ⟨l1 ++ l2, b2, by simp, fun p hp => (List.mem_append.mp hp).elim (p1 p) (p2 p), fun h => n2 (n1 h)⟩

variable {J : Nat → Prop} {s u t : State}

theorem Evolves.refl (hq : ∀ e ∈ s.cap.fetchQueue, J e.instr) : Evolves J s s :=
  ⟨rfl, rfl, fun _ r h => ⟨r, h, .refl, fun _ => rfl⟩, hq⟩

theorem Evolves.trans (h1 : Evolves J s u) (h2 : Evolves J u t) : Evolves J s t := by
  refine ⟨h2.course.trans h1.course, h2.count.trans h1.count, fun i r2 hr2 => ?_, h2.queue⟩
  obtain ⟨r1, hr1, run2, c2⟩ := h2.records i r2 hr2
  obtain ⟨r, hr, run1, c1⟩ := h1.records i r1 hr1
  exact ⟨r, hr, run1.trans run2, fun hj => (c2 hj).trans (c1 hj)⟩

theorem Trades.refl (hq : ∀ e ∈ s.cap.fetchQueue, J e.instr) : Trades J s s := ⟨.refl hq, .refl _⟩

theorem Trades.trans (h1 : Trades J s u) (h2 : Trades J u t) : Trades J s t :=
  ⟨h1.toEvolves.trans h2.toEvolves, h1.tape.trans h2.tape⟩

/-- What reaches no more than the outskirts of the records. -/
theorem evolves_of_blocks {x : Scope} (hq : ∀ e ∈ s.cap.fetchQueue, J e.instr) (hx : x.records = false)
    (h : t.blocks x = s.blocks x) : Evolves J s t := by
  have hrec := records_of_blocks h
  have hcap := cap_of_blocks h hx
  refine ⟨course_of_blocks h, ?_, fun i r1 hr1 => ?_, by rwa [hcap]⟩
  · simpa using congrArg List.length hrec
  · have hi : (t.instrument? i).map x.record = (s.instrument? i).map x.record := by
      simpa [State.instrument?] using congrArg (fun l => l[i]?) hrec
    rw [hr1, Option.map_some] at hi
    obtain ⟨r, hr, he⟩ := Option.map_eq_some_iff.mp hi.symm
    have hcore : r1.core = r.core := by
      have h := congrArg Instrument.core he
      simpa [Instrument.core, Scope.record, hx] using h.symm
    exact ⟨r, hr, .single (.quiet hcore), fun _ => hcore⟩

theorem trades_of_blocks {x : Scope} (hq : ∀ e ∈ s.cap.fetchQueue, J e.instr) (hx : x.records = false)
    (ht : x.tape = false) (h : t.blocks x = s.blocks x) : Trades J s t := by
  obtain ⟨b, hb⟩ := tape_of_blocks h ht
  exact ⟨evolves_of_blocks hq hx h, [], b, by simpa using hb, by simp, by rw [hb]; exact id⟩

/-- The scope of a change notice but for its print. -/
def boardScope : Scope := ⟨true, false, true, false⟩

theorem Trades.outside (h : Trades J s u) (ho : t.outside boardScope = u.outside boardScope) : Trades J s t :=
  h.trans (trades_of_blocks h.queue rfl rfl (blocks_of_outside ho))

/-- A record of `J` is changed, as records may be. -/
theorem Trades.setInstrument (h : Trades J s u) {i : Nat} {r r1 : Instrument} (h0 : u.instrument? i = some r)
    (hj : J i) (hrun : RecordRun r r1) : Trades J s (setInstrument i r1 u) := by
  refine h.trans ⟨⟨rfl, by simp, fun n r2 h2 => ?_, h.queue⟩, .refl _⟩
  simp only [State.instrument?, setInstrument_tbl, List.getElem?_set] at h2
  split at h2
  · subst n
    split at h2
    · cases h2
      exact ⟨r, h0, hrun, fun hn => absurd hj hn⟩
    · cases h2
  · exact ⟨r2, h2, .refl, fun _ => rfl⟩

/-- A record is changed in its outskirts. -/
theorem Trades.setQuiet (h : Trades J s u) {i : Nat} {r r1 : Instrument} (h0 : u.instrument? i = some r)
    (hc : r1.core = r.core) : Trades J s (Machine.setInstrument i r1 u) := by
  refine h.trans ⟨⟨rfl, by simp, fun n r2 h2 => ?_, h.queue⟩, .refl _⟩
  simp only [State.instrument?, setInstrument_tbl, List.getElem?_set] at h2
  split at h2
  · subst n
    split at h2
    · cases h2
      exact ⟨r, h0, .single (.quiet hc), fun _ => hc⟩
    · cases h2
  · exact ⟨r2, h2, .refl, fun _ => rfl⟩

theorem Trades.setCap (h : Trades J s u) (c : CaptureUnit) (hq : ∀ e ∈ c.fetchQueue, J e.instr) :
    Trades J s (setCap c u) :=
  h.trans ⟨⟨rfl, rfl, fun _ r h => ⟨r, h, .refl, fun _ => rfl⟩, hq⟩, .refl _⟩

theorem Trades.postFault (h : Trades J s u) (k : FaultKind) (subj : Subject) (d : List Nat) :
    Trades J s (postFault k subj d u) := h.outside (postFault_outside _ _ _ _)

/-! ### Quantizing in range -/

theorem step_pos (b : FractionBase) : 0 < b.step := by cases b <;> decide

/-- A price of 32 bits in units quantizes to a price in range. -/
theorem quantize_inRange (b : FractionBase) {v : Nat} (hv : v < 4294967296) : PriceInRange b (quantize b v) := by
  have key (k : Nat) (hk : 0 < k) (hd : ∃ m, 4294967296 = k * m) :
      (v / k + if k ≤ 2 * (v % k) then 1 else 0) * k ≤ 4294967296 := by
    obtain ⟨m, hm⟩ := hd
    have hlt : v / k < m := by
      rw [Nat.div_lt_iff_lt_mul hk, Nat.mul_comm]
      omega
    have hle : (v / k + if k ≤ 2 * (v % k) then 1 else 0) ≤ m := by split <;> omega
    calc _ ≤ m * k := Nat.mul_le_mul_right k hle
      _ = 4294967296 := by rw [Nat.mul_comm, hm]
  unfold PriceInRange quantize
  exact key b.step (step_pos b) ⟨4294967296 / b.step, by cases b <;> rfl⟩

theorem pairValue_lt (h l : Word) : pairValue h l < 4294967296 := by
  unfold pairValue
  omega

/-! ### The operations -/

/-- A trade part makes a print in range of an instrument. -/
def TradePart.InRange (p : TradePart) (s : State) (i : Nat) : Prop :=
  ∀ r, s.instrument? i = some r → PriceInRange r.base p.price ∧ p.size ≤ 65535

theorem OnlyPosts.tape {a b : State} (h : OnlyPosts a b) : b.tape = a.tape := by rw [h.eq]

theorem joinPrint_trades {p : Print} {r : Instrument} (h : Trades J s u) (h0 : u.instrument? p.instr = some r)
    (hp : p.InRange) : Trades J s (joinPrint p r u) := by
  fun_cases joinPrint p r u with
  | case1 hlen =>
    refine h.trans ⟨evolves_of_blocks (x := ⟨false, true, false, false⟩) h.queue rfl
      (blocks_of_outside (updateTape_outside rfl _ u)), [p], u.tape.portBrightness, ?_, by simpa using hp, ?_⟩
    · exact (updateTape_onlyPosts _ u).tape
    · rw [(updateTape_onlyPosts _ u).tape, List.length_append, List.length_singleton]
      omega
  | case2 => exact (h.setQuiet (r1 := { r with full := true }) h0 rfl).postFault _ _ _

theorem printTrade_trades {i : Nat} {p : TradePart} (h : Trades J s u) (hp : p.InRange u i) :
    Trades J s (printTrade i p u) := by
  fun_cases printTrade i p u with
  | case1 | case3 => exact h
  | case2 r h0 => exact joinPrint_trades h h0 (hp r h0)

theorem notify_trades {i : Nat} {trade : Option TradePart} (h : Trades J s u)
    (hp : ∀ p, trade = some p → p.InRange u i) : Trades J s (notify i trade u) := by
  unfold notify
  dsimp only
  have hout (v : State) : (chooseAll (recomputeBoards (· == i) (noticeLines i v))).outside boardScope =
      v.outside boardScope := by
    rw [chooseAll_outside rfl, recomputeBoards_outside rfl, noticeLines_outside rfl]
  cases trade with
  | none => exact h.outside (hout u)
  | some p => exact (printTrade_trades h (hp p rfl)).outside (hout _)

/-- A record set over another one is set once. -/
theorem setInstrument_over {x : Scope} {i : Nat} {r1 r2 : Instrument} {u v : State}
    (hv : v.outside x = (setInstrument i r2 u).outside x) :
    (setInstrument i r1 v).outside x = (setInstrument i r1 u).outside x := by
  have hset (w : State) : (setInstrument i r1 w).outside x =
      { w.outside x with
        tbl := { (w.outside x).tbl with instruments := (w.outside x).tbl.instruments.set i (x.record r1) } } := by
    simp [State.outside, List.map_set]
  rw [hset v, hv, hset u]
  simp [State.outside, List.map_set]

/-- A halt with its cancelled hold is one change of the record. -/
theorem applyHalt_trades {i : Nat} (c : CommitFlags) (h : Trades J s u) (hj : J i) :
    Trades J s (applyHalt i c u) := by
  fun_cases applyHalt i c u with
  | case1 | case2 | case5 => exact h
  | case3 r h0 =>
    have hlt := (List.getElem?_eq_some_iff.mp h0).1
    have h1 : (setInstrument i { r with halted := true } u).instrument? i = some { r with halted := true } := by
      simp [State.instrument?, hlt]
    have hfreed := h.setInstrument h0 hj (.single (.freed true r))
    unfold cancelHold
    rw [h1]
    cases hd : r.hold with
    | none => exact hfreed
    | some d => exact hfreed.outside (setInstrument_over (postFault_outside _ _ _ _))
  | case4 r h0 => exact h.setInstrument h0 hj (.single (.resumed r))

theorem applyQuote_trades {i : Nat} (c : CommitFlags) (v : FieldValues) (h : Trades J s u) :
    Trades J s (applyQuote i c v u) := by
  fun_cases applyQuote i c v u with
  | case1 | case3 => exact h
  | case2 r h0 => exact h.setQuiet h0 rfl

theorem applyFast_trades {i : Nat} (c : CommitFlags) (h : Trades J s u) : Trades J s (applyFast i c u) := by
  fun_cases applyFast i c u with
  | case1 | case4 => exact h
  | case2 r h0 => exact h.setQuiet h0 rfl
  | case3 r h0 => exact h.setQuiet h0 rfl

/-- HOLD SUPERSEDED is posted when a trade of `q` steps arrives over a hold (R95). -/
def supersedeHold (i q : Nat) (r : Instrument) (s : State) : State :=
  match r.hold with
  | none => s
  | some h => postFault .holdSuperseded (.instrument i) [h.price, h.size, if bandTakes r q then 0 else 1] s

/-- A trade of an instrument is taken or held, as the band decides (R93, R94). -/
theorem tradeArrives_of {i : Nat} {r : Instrument} (h0 : u.instrument? i = some r) (v z : Nat) (captured : Time) :
    tradeArrives i v z captured u =
      let q := quantize r.base v
      let b := needsRounding r.base v
      if bandTakes r q then
        (setInstrument i { takeTrade q z b r with hold := none } (supersedeHold i q r u), some ⟨q, z, captured⟩)
      else
        (setInstrument i { r with hold := some (makeHold u.ctl.timeBase r q z captured b) } (supersedeHold i q r u),
          none) := by
  simp only [tradeArrives, h0]
  rfl

theorem supersedeHold_trades {i : Nat} (q : Nat) (r : Instrument) (h : Trades J s u) :
    Trades J s (supersedeHold i q r u) := by
  unfold supersedeHold
  split
  · exact h
  · exact h.postFault _ _ _

@[simp] theorem supersedeHold_instrument? (i q : Nat) (r : Instrument) (u : State) (n : Nat) :
    (supersedeHold i q r u).instrument? n = u.instrument? n := by
  unfold supersedeHold
  split <;> simp

/-- A trade that arrives for an instrument that is not halted is taken or held (R93, R94). -/
theorem tradeArrives_trades {i v z : Nat} {captured : Time} {r : Instrument} (h : Trades J s u)
    (h0 : u.instrument? i = some r) (hj : J i) (hr : r.halted = false) (hv : v < 4294967296) (hz : z ≤ 65535) :
    Trades J s (tradeArrives i v z captured u).1 ∧
      ∀ p, (tradeArrives i v z captured u).2 = some p → PriceInRange r.base p.price ∧ p.size ≤ 65535 := by
  have hin := quantize_inRange r.base hv
  have ht := supersedeHold_trades (i := i) (quantize r.base v) r h
  rw [tradeArrives_of h0]
  dsimp only
  split
  · refine ⟨ht.setInstrument (by simpa using h0) hj (.single (.taken _ _ _ r)), fun p hp => ?_⟩
    cases hp
    exact ⟨hin, hz⟩
  · exact ⟨ht.setInstrument (by simpa using h0) hj (.single (.held _ hr ⟨hin, hz⟩)), fun p hp => by cases hp⟩

theorem applyTrade_trades {i : Nat} (c : CommitFlags) (seq : BitVec 12) (time : Time) (v : FieldValues)
    (h : Trades J s u) (hj : J i) :
    Trades J s (applyTrade i c seq time v u).1 ∧
      ∀ p, (applyTrade i c seq time v u).2 = some p → p.InRange u i := by
  fun_cases applyTrade i c seq time v u with
  | case1 => exact ⟨h.postFault _ _ _, fun p hp => by cases hp⟩
  | case2 hi lo z r h0 _ _ _ _ hr =>
    obtain ⟨ht, hp⟩ := tradeArrives_trades (captured := time) h h0 hj (by simpa using hr) (pairValue_lt hi lo)
      (z := z.toNat) (by omega)
    refine ⟨ht, fun p he r1 h1 => ?_⟩
    cases h0.symm.trans h1
    exact hp p he
  | case3 => exact ⟨h, fun p hp => by cases hp⟩

/-- A record keeps its base, so a print in range stays in range. -/
theorem TradePart.InRange.evolves {p : TradePart} {i : Nat} (h : Evolves J u t) (hp : p.InRange u i) : p.InRange t i := by
  intro r1 h1
  obtain ⟨r, hr, run, -⟩ := h.records i r1 h1
  rw [run.base]
  exact hp r hr

theorem applyCommit_trades {i : Nat} (c : CommitFlags) (seq : BitVec 12) (time : Time) (v : FieldValues)
    (h : Trades J s u) (hj : J i) : Trades J s (applyCommit i c seq time v u) := by
  have h2 := applyQuote_trades (i := i) c v (applyHalt_trades c h hj)
  obtain ⟨h3, hp⟩ := applyTrade_trades c seq time v h2 hj
  have h4 := applyFast_trades (i := i) c h3
  have hown := applyFast_trades (i := i) c (applyTrade_trades (i := i) c seq time v (Trades.refl h2.queue) hj).1
  unfold applyCommit
  dsimp only
  split
  · split
    · exact notify_trades h4 (fun p he => (hp p he).evolves hown.toEvolves)
    · exact h4
  · exact h4

theorem drainGroupless_trades (fuel : Nat) (h : Trades J s u) : Trades J s (drainGroupless fuel u) := by
  fun_induction drainGroupless fuel u with
  | case2 fuel u e rest ha hq hp ih =>
    have hqueue := h.queue
    rw [hq] at hqueue
    exact ih (applyCommit_trades _ _ _ _ (h.setCap _ fun e' he => hqueue e' (List.mem_cons_of_mem e he))
      (hqueue e List.mem_cons_self))
  | _ => exact h

theorem placePart_trades (p : PartSource) (a : Nat) (w : Option Word) (h : Trades J s u) :
    Trades J s (placePart p a w u) := h.outside rfl

theorem placeFetch_trades (h : Trades J s u) : Trades J s (placeFetch u) := by
  fun_cases placeFetch u with
  | case1 => exact h
  | case2 => exact placePart_trades _ _ _ (h.setCap _ h.queue)
  | case3 e rest hq =>
    have hqueue := h.queue
    rw [hq] at hqueue
    refine placePart_trades _ _ _ (h.setCap _ fun e' he => ?_)
    rcases List.mem_cons.mp he with rfl | he
    · exact hqueue e List.mem_cons_self
    · exact hqueue e' (List.mem_cons_of_mem e he)

/-- LOAD stands as it stood but for an attempt. -/
theorem Trades.setLoad (h : Trades J s u) (p : LoadProgress) (hp : p.course = u.load.course) :
    Trades J s { u with load := p } :=
  h.trans ⟨⟨hp, rfl, fun _ r h => ⟨r, h, .refl, fun _ => rfl⟩, h.queue⟩, .refl _⟩

theorem placePhase2_trades (h : Trades J s u) : Trades J s (placePhase2 u) := by
  unfold placePhase2
  split
  · rename_i r hp
    refine placePart_trades _ _ _ ((h.setCap { u.cap with lastWasPhase2 := true } h.queue).setLoad _ ?_)
    rw [setCap_load, hp]
    split <;> rfl
  · exact h

theorem pumpCapture_trades (h : Trades J s u) : Trades J s (pumpCapture u) := by
  have hd := drainGroupless_trades u.cap.fetchQueue.length h
  unfold pumpCapture
  dsimp only
  split
  · exact hd
  · split
    · split
      exacts [placeFetch_trades hd, placePhase2_trades hd]
    · exact placeFetch_trades hd
    · exact placePhase2_trades hd
    · exact hd

theorem stageWord_trades (i : Nat) (n : Fin 7) (w : Word) (h : Trades J s u) : Trades J s (stageWord i n w u) := by
  fun_cases stageWord i n w u with
  | case1 | case3 => exact h.setCap _ h.queue
  | case4 r h0 => exact h.setQuiet h0 rfl
  | case2 | case5 => exact h

theorem tearFetch_trades (i : Nat) (h : Trades J s u) : Trades J s (tearFetch i u) := by
  fun_cases tearFetch i u with
  | case1 a e rest hq =>
    have hqueue := h.queue
    rw [hq] at hqueue
    refine h.setCap _ fun e' he => ?_
    rcases List.mem_cons.mp he with rfl | he
    · exact hqueue e List.mem_cons_self
    · exact hqueue e' (List.mem_cons_of_mem e he)
  | case2 | case3 => exact h

theorem tearPhase2_trades (h : Trades J s u) : Trades J s (tearPhase2 u) := by
  fun_cases tearPhase2 u with
  | case1 r hp => exact h.setLoad _ (by rw [hp]; rfl)
  | case2 => exact h

theorem mergeInto_within {i : Nat} {c : CommitFlags} {seq : BitVec 12} {b : Bool} {q : List FetchEntry}
    (h : ∀ e ∈ q, J e.instr) : ∀ e ∈ mergeInto i c seq b q, J e.instr := by
  intro e he
  have hmem : e.instr ∈ q.map FetchEntry.instr := by
    rw [← mergeInto_instr i c seq b q]
    exact List.mem_map_of_mem he
  obtain ⟨e', he', h'⟩ := List.mem_map.mp hmem
  exact h' ▸ h e' he'

theorem settleCommit_trades {i : Nat} (c : CommitFlags) (seq : BitVec 12) (h : Trades J s u) (hj : J i) :
    Trades J s (settleCommit i c seq u) := by
  have hset {r : Instrument} (h0 : u.instrument? i = some r) (c1 : CaptureUnit) (hc : c1.fetchQueue = u.cap.fetchQueue) :
      Trades J s (Machine.setInstrument i { r with fetchOnCommit := false } (Machine.setCap c1 u)) :=
    (h.setCap c1 (by rw [hc]; exact h.queue)).setQuiet (u := Machine.setCap c1 u) h0 rfl
  fun_cases settleCommit i c seq u with
  | case1 => exact h
  | case2 r h0 => exact (hset h0 _ rfl).setCap _ (mergeInto_within h.queue)
  | case3 r h0 => exact applyCommit_trades _ _ _ _ (hset h0 _ rfl) hj
  | case4 r h0 =>
    refine (hset h0 _ rfl).setCap _ fun e he => ?_
    rcases List.mem_append.mp he with he | he
    · exact h.queue e he
    · rw [List.mem_singleton.mp he]
      exact hj

theorem acceptCommit_trades {i : Nat} (w : Word) {r : Instrument} (h : Trades J s u) (h0 : u.instrument? i = some r)
    (hj : J i) : Trades J s (acceptCommit i w r u) := by
  have hset := h.setQuiet (r1 := { r with lastSeq := commitSeq w }) h0 rfl
  unfold acceptCommit
  refine settleCommit_trades _ _ ?_ hj
  split
  · exact hset.postFault _ _ _
  · exact hset

theorem takeCommit_trades {i : Nat} (w : Word) (h : Trades J s u) (hj : J i) : Trades J s (takeCommit i w u) := by
  fun_cases takeCommit i w u with
  | case1 | case2 => exact h
  | case3 r h0 => exact acceptCommit_trades w h h0 hj
  | case4 r h0 => exact acceptCommit_trades w (h.postFault _ _ _) (by simpa using h0) hj

theorem takeFetched_trades (w : Word) (good : Bool) (h : Trades J s u) : Trades J s (takeFetched w good u) := by
  fun_cases takeFetched w good u with
  | case1 => exact h.setCap _ h.queue
  | case3 => exact h
  | case2 a e rest hq =>
    have hqueue := h.queue
    rw [hq] at hqueue
    have hrest : ∀ e' ∈ rest, J e'.instr := fun e' he => hqueue e' (List.mem_cons_of_mem e he)
    have hdone := (h.setCap { u.cap with attempt := none } h.queue)
    fun_cases endAttempt e rest a.plan _ u with
    | case1 => exact applyCommit_trades _ _ _ _ (hdone.setCap _ hrest) (hqueue e List.mem_cons_self)
    | case2 => exact applyCommit_trades _ _ _ _ ((hdone.setCap _ hrest).postFault _ _ _) (hqueue e List.mem_cons_self)
    | case3 => exact hdone

end Sys2Proof.Machine
end


section
/-! The bounds of the tape and the laws of the Instrument Records, kept by every command. -/

namespace Sys2Proof.Machine

open Sys2Proof

/-! ### The text of a print -/

theorem length_decDigits_le {fuel k n : Nat} (hk : 0 < k) (h : n < 10 ^ k) : (decDigits fuel n).length ≤ k := by
  induction fuel generalizing k n with
  | zero => simp [decDigits]
  | succ fuel ih =>
    unfold decDigits
    split
    · exact hk
    · obtain ⟨k, rfl⟩ : ∃ m, k = m + 2 := by
        match k, hk with
        | 1, _ => omega
        | m + 2, _ => exact ⟨m, rfl⟩
      have hdiv : n / 10 < 10 ^ (k + 1) := by
        rw [Nat.div_lt_iff_lt_mul (by decide)]
        simpa [Nat.pow_succ] using h
      have := ih (Nat.succ_pos k) hdiv
      simp
      omega

theorem length_decimalText_le {k n : Nat} (hk : 0 < k) (h : n < 10 ^ k) : (decimalText n).length ≤ k := by
  simpa [decimalText] using length_decDigits_le (fuel := 10) hk h

/-- Halving keeps a numerator small. -/
theorem lowestTerms_num_le (fuel n d : Nat) : (lowestTerms fuel n d).num ≤ n := by
  induction fuel generalizing n d with
  | zero => exact le_refl n
  | succ fuel ih =>
    unfold lowestTerms
    split
    · exact (ih _ _).trans (Nat.div_le_self n 2)
    · exact le_refl n

theorem den_bounds (b : FractionBase) : 4 ≤ b.den ∧ b.den ≤ 16 := by cases b <;> decide

theorem length_fractionText_le (b : FractionBase) (q : Nat) : (fractionText (displayForm b q)).length ≤ 4 := by
  unfold fractionText displayForm
  have hden := den_bounds b
  by_cases hq : q % b.den = 0
  · simp [hq]
  · have hnum := lowestTerms_num_le 4 (q % b.den) b.den
    have hmod := Nat.mod_lt q (Nat.lt_of_lt_of_le (by decide) hden.1)
    have := length_decimalText_le (k := 2) (by decide) (show (lowestTerms 4 (q % b.den) b.den).num < 10 ^ 2 by omega)
    simp [hq]
    omega

/-- The text of a print in range of a symbol of at most five letters has at most 24 characters (R151). -/
theorem length_printText_le (mode : TapeMode) (threshold : Nat) {symbol : List Byte} (lastWhole : Option Nat)
    (full : Bool) {p : Print} (hs : symbol.length ≤ 5) (hp : p.InRange) :
    (printText mode threshold symbol lastWhole full p).length ≤ 24 := by
  obtain ⟨hprice, hsize⟩ := hp
  have hwhole : (displayForm p.base p.price).whole < 10 ^ 8 := by
    unfold PriceInRange at hprice
    unfold displayForm
    cases hb : p.base <;> rw [hb] at hprice <;> simp only [FractionBase.den] at hprice ⊢ <;> omega
  have hfrac := length_fractionText_le p.base p.price
  have hsz := length_decimalText_le (k := 5) (by decide) (show p.size < 10 ^ 5 by omega)
  have hw (w : Nat) (h : w ≤ (displayForm p.base p.price).whole) : (decimalText w).length ≤ 8 :=
    length_decimalText_le (by decide) (by omega)
  have hab := hw ((displayForm p.base p.price).whole % 10) (Nat.mod_le _ _)
  have hwh := hw _ (le_refl _)
  unfold printText
  simp only [List.length_append, List.length_singleton]
  split <;> split <;> simp <;> omega

@[simp] theorem length_itemOf (l : List Byte) : (itemOf l).length = l.length := by
  induction l with
  | nil => rfl
  | cons c l ih =>
    cases l with
    | nil => rfl
    | cons d l => simpa [itemOf] using ih

/-! ### The bounds of the Ticker Unit -/

/-- The bounds of the queue and of the texts. -/
structure TapeSound (t : TickerUnit) : Prop where
  queue : t.queue.length ≤ 128
  buffer : t.buffer.length ≤ 40
  held : t.held.length ≤ 24
  prints : ∀ p ∈ t.queue, p.InRange

theorem length_bannerText_le (a b : TapeMode) : (bannerText a b).length ≤ 14 := by cases a <;> cases b <;> decide

/-- With at most 16 characters before them the text buffer holds a banner and a text within 40, or keeps the text, whole,
as held text (R153). -/
theorem TapeSound.writeText {t : TickerUnit} (ht : TapeSound t) (hb : t.buffer.length ≤ 16) {banner text : List Byte}
    (hbanner : banner.length ≤ 14) (htext : text.length ≤ 24) : TapeSound (t.writeText banner text) := by
  unfold TickerUnit.writeText
  dsimp only
  split
  · rename_i h
    refine ⟨ht.queue, ?_, ht.held, ht.prints⟩
    simp only [List.length_append, length_itemOf] at h ⊢
    omega
  · refine ⟨ht.queue, ?_, by simpa using htext, ht.prints⟩
    simp only [List.length_append, length_itemOf]
    omega

/-- A take keeps the bounds (R147). -/
theorem TapeSound.afterTake {t : TickerUnit} (ht : TapeSound t) {p : Print} {q : List Print} (hq : t.queue = p :: q)
    (hb : t.buffer.length ≤ 16) (now : Time) {r : Option Instrument}
    (hr : ∀ r0, r = some r0 → r0.symbol.length ≤ 5) : TapeSound (t.afterTake now r p) := by
  have hp : p.InRange := ht.prints p (by rw [hq]; exact List.mem_cons_self)
  have htail : TapeSound { t with queue := t.queue.drop 1 } :=
    ⟨by have := ht.queue; simp; omega, ht.buffer, ht.held, fun p' hp' => ht.prints p' (List.mem_of_mem_drop hp')⟩
  unfold TickerUnit.afterTake
  dsimp only
  refine TapeSound.writeText ?_ ?_ (length_bannerText_le _ _) ?_
  · exact ⟨htail.queue, htail.buffer, htail.held, htail.prints⟩
  · exact hb
  · split
    · exact length_printText_le _ _ _ _ (by simp) hp
    · exact length_printText_le _ _ _ _ (hr _ rfl) hp

theorem TapeSound.enterHeld {t : TickerUnit} (ht : TapeSound t) : TapeSound t.enterHeld := by
  fun_cases TickerUnit.enterHeld t with
  | case1 h => exact ⟨ht.queue, by simpa using h.2, by simp, ht.prints⟩
  | case2 => exact ht

theorem TapeSound.runStep {t : TickerUnit} (ht : TapeSound t) (brightness : Nat) : TapeSound (t.runStep brightness) := by
  have hdraw : t.draw.2.1.length ≤ 40 := by
    have := ht.buffer
    fun_cases TickerUnit.draw t with
    | case1 => exact ht.buffer
    | case2 => simp
    | case3 hg c rest hb =>
      rw [hb] at this
      simp only [List.length_cons] at this ⊢
      omega
  have h1 : TapeSound
      (if t.phase = 0 then
        { t with window := slideWindow t.window t.draw.1, buffer := t.draw.2.1, gapDue := t.draw.2.2 }.enterHeld
      else t) := by
    split
    · exact TapeSound.enterHeld ⟨ht.queue, hdraw, ht.held, ht.prints⟩
    · exact ht
  exact ⟨h1.queue, h1.buffer, h1.held, h1.prints⟩

theorem TapeSound.grows {t t1 : TickerUnit} (ht : TapeSound t) (h : TapeGrows t t1) : TapeSound t1 := by
  obtain ⟨l, b, rfl, hl, hn⟩ := h
  exact ⟨hn ht.queue, ht.buffer, ht.held, fun p hp => (List.mem_append.mp hp).elim (ht.prints p) (hl p)⟩

/-- What the bounds of the tape look at, by part. -/
theorem tapeBounded_iff (s : State) :
    s.TapeBounded ↔ TapeSound s.tape ∧ (∀ i r, s.instrument? i = some r → r.Bounded) ∧
      ∀ d, s.load = .phase1 d → ∀ r ∈ d.built, r.symbol.length ≤ 5 ∧ r.hold = none := by
  constructor
  · intro h
    refine ⟨⟨h.queue, h.buffer, h.held, h.prints⟩, fun i r hr => ?_, h.building⟩
    have hm := List.mem_of_getElem? hr
    exact ⟨h.symbols r hm, h.holds r hm⟩
  · rintro ⟨ht, hr, hb⟩
    refine ⟨ht.queue, ht.buffer, ht.held, ht.prints, fun r hm => ?_, fun r hm => ?_, hb⟩ <;>
      obtain ⟨i, hi⟩ := List.mem_iff_getElem?.mp hm
    · exact (hr i r hi).1
    · exact (hr i r hi).2

/-- What the laws of the records look at, by instrument. -/
theorem recordsLawful_records {s : State} : (∀ r ∈ s.tbl.instruments, r.Lawful) ↔
    ∀ i r, s.instrument? i = some r → r.Lawful := by
  constructor
  · exact fun h i r hr => h r (List.mem_of_getElem? hr)
  · intro h r hm
    obtain ⟨i, hi⟩ := List.mem_iff_getElem?.mp hm
    exact h i r hi

/-! ### What evolves keeps the bounds and the laws -/

variable {J : Nat → Prop} {s t u : State}

theorem phase1_of_course {d : DirectoryRead} (hc : t.load.course = s.load.course) (h : t.load = .phase1 d) :
    s.load = .phase1 d := by
  rw [h] at hc
  cases hs : s.load <;> simp [LoadProgress.course, hs] at hc ⊢
  exact hc.symm

theorem phase2_of_course {p : RecordRead} (hc : t.load.course = s.load.course) (h : t.load = .phase2 p) :
    ∃ p1, s.load = .phase2 p1 ∧ p1.instr = p.instr := by
  rw [h] at hc
  cases hs : s.load with
  | phase2 p1 =>
    simp only [LoadProgress.course, hs, LoadProgress.phase2.injEq, RecordRead.mk.injEq] at hc
    exact ⟨p1, rfl, hc.2.1.symm⟩
  | _ => simp [LoadProgress.course, hs] at hc

/-- The instruments that may be traded: all of them but during LOAD, none in phase 1, those read in phase 2 (R56, R58). -/
def State.Tradable (s : State) (i : Nat) : Prop :=
  (∀ d, s.load ≠ .phase1 d) ∧ ∀ p, s.load = .phase2 p → i < p.instr

theorem State.RecordsLawful.queue (hs : s.RecordsLawful) : ∀ e ∈ s.cap.fetchQueue, s.Tradable e.instr := by
  intro e he
  refine ⟨fun d hd => ?_, fun p hp => (hs.phase2 p hp).2 e he⟩
  rw [(hs.phase1 d hd).2.1] at he
  cases he

/-- An instrument with a hold may be traded. -/
theorem State.RecordsLawful.tradable_of_hold (hs : s.RecordsLawful) {i : Nat} {r : Instrument} (h0 : s.instrument? i = some r)
    (hd : r.hold ≠ none) : s.Tradable i := by
  refine ⟨fun d hl => ?_, fun p hp => Nat.lt_of_not_le fun hle => hd ((hs.phase2 p hp).1 i r hle h0).2.2⟩
  have hempty := (hs.phase1 d hl).1
  simp [State.instrument?, hempty] at h0

/-- An instrument of the table that stands as read may be traded. -/
theorem State.RecordsLawful.tradable_of_read (hs : s.RecordsLawful) {i : Nat} {r : Instrument} (h0 : s.instrument? i = some r)
    (hr : s.standing i = .read) : s.Tradable i := by
  refine ⟨fun d hl => ?_, fun p hp => ?_⟩
  · have hempty := (hs.phase1 d hl).1
    simp [State.instrument?, hempty] at h0
  · simp only [State.standing, hp] at hr
    split at hr
    · assumption
    · split at hr <;> cases hr

theorem State.RecordsLawful.evolves (hs : s.RecordsLawful) (h : Evolves s.Tradable s t) : t.RecordsLawful := by
  refine ⟨recordsLawful_records.mpr fun i r1 hr1 => ?_, fun d hd => ?_, fun p hp => ?_⟩
  · obtain ⟨r, hr, run, -⟩ := h.records i r1 hr1
    exact run.lawful (recordsLawful_records.mp hs.records i r hr)
  · have hload := phase1_of_course h.course hd
    obtain ⟨hi, -, hb⟩ := hs.phase1 d hload
    refine ⟨List.length_eq_zero_iff.mp (by rw [h.count, hi]; rfl), ?_, hb⟩
    refine List.eq_nil_iff_forall_not_mem.mpr fun e he => ?_
    exact (h.queue e he).1 d hload
  · obtain ⟨p1, hp1, hinstr⟩ := phase2_of_course h.course hp
    obtain ⟨hun, -⟩ := hs.phase2 p1 hp1
    refine ⟨fun i r1 hle hr1 => ?_, fun e he => hinstr ▸ (h.queue e he).2 p1 hp1⟩
    obtain ⟨r, hr, -, hc⟩ := h.records i r1 hr1
    have hcore := hc fun hj => absurd (hj.2 p1 hp1) (by omega)
    simp only [Instrument.core, Prod.mk.injEq] at hcore
    obtain ⟨-, ⟨-, hhigh, hlow⟩, hhold, -⟩ := hcore
    have := hun i r (by omega) hr
    exact ⟨hhigh ▸ this.1, hlow ▸ this.2.1, hhold ▸ this.2.2⟩

theorem bounded_evolves (hs : ∀ i r, s.instrument? i = some r → r.Bounded) (h : Evolves J s t) :
    ∀ i r, t.instrument? i = some r → r.Bounded := by
  intro i r1 hr1
  obtain ⟨r, hr, run, -⟩ := h.records i r1 hr1
  exact run.bounded (hs i r hr)

theorem State.TapeBounded.trades (hs : s.TapeBounded) (h : Trades J s t) : t.TapeBounded := by
  rw [tapeBounded_iff] at hs ⊢
  exact ⟨hs.1.grows h.tape, bounded_evolves hs.2.1 h.toEvolves, fun d hd => hs.2.2 d (phase1_of_course h.course hd)⟩

end Sys2Proof.Machine
end


section
/-! The bounds of the tape and the laws of the records through LOAD, CLOSE and the events of the tape; and their keeping by
every command. -/

namespace Sys2Proof.Machine

open Sys2Proof

variable {s t u : State}

/-! ### What the two properties look at -/

theorem outside_boardScope_of_noScope (h : t.outside noScope = u.outside noScope) :
    t.outside boardScope = u.outside boardScope := by
  have hs (v : State) : v.outside boardScope = (v.outside noScope).outside boardScope := by
    simp [State.outside, boardScope, noScope, Scope.record]
  rw [hs t, h, hs u]

theorem outside_noticeScope_of_noScope (h : t.outside noScope = u.outside noScope) :
    t.outside noticeScope = u.outside noticeScope := by
  have hs (v : State) : v.outside noticeScope = (v.outside noScope).outside noticeScope := by
    simp [State.outside, noticeScope, noScope, Scope.record]
  rw [hs t, h, hs u]

theorem State.TapeBounded.outside (hu : u.TapeBounded) (h : t.outside boardScope = u.outside boardScope) :
    t.TapeBounded :=
  hu.trades (J := fun _ => True) (trades_of_blocks (fun _ _ => trivial) rfl rfl (blocks_of_outside h))

theorem State.RecordsLawful.outside (hu : u.RecordsLawful) (h : t.outside noticeScope = u.outside noticeScope) :
    t.RecordsLawful := hu.evolves (evolves_of_blocks hu.queue rfl (blocks_of_outside h))

/-- The tape alone is changed. -/
theorem State.TapeBounded.setTape (hu : u.TapeBounded) {k : TickerUnit} (hk : TapeSound k) :
    (setTape k u).TapeBounded := by
  rw [tapeBounded_iff] at hu ⊢
  exact ⟨hk, hu.2⟩

theorem State.TapeBounded.sound (hu : u.TapeBounded) : TapeSound u.tape := ((tapeBounded_iff u).mp hu).1

theorem State.TapeBounded.records (hu : u.TapeBounded) : ∀ i r, u.instrument? i = some r → r.Bounded :=
  ((tapeBounded_iff u).mp hu).2.1

theorem State.TapeBounded.updateTape (hu : u.TapeBounded) {k : TickerUnit} (hk : TapeSound k) :
    (updateTape k u).TapeBounded := (hu.setTape hk).outside (postChanged_outside u _ _)

/-- With an empty table and phase 1 over, the tape is all that is bounded. -/
theorem tapeBounded_of_empty (ht : TapeSound s.tape) (hi : s.tbl.instruments = []) (hl : ∀ d, s.load ≠ .phase1 d) :
    s.TapeBounded := by
  rw [tapeBounded_iff]
  exact ⟨ht, fun i r h => by simp [State.instrument?, hi] at h, fun d hd => absurd hd (hl d)⟩

theorem recordsLawful_of_idle (hr : ∀ r ∈ s.tbl.instruments, r.Lawful) (hl : s.load = .idle) : s.RecordsLawful :=
  ⟨hr, fun d hd => by simp [hl] at hd, fun p hp => by simp [hl] at hp⟩

/-! ### LOAD: phase 1 -/

theorem length_entrySymbol_le (e : List Word) : (entrySymbol e).length ≤ 5 :=
  (List.length_filter_le _ _).trans (by simp [entryChars])

theorem TapeSound.reset (b : BitVec 7) : TapeSound { TickerUnit.reset with portColumn := b } :=
  by
  constructor <;> simp [TickerUnit.reset]

theorem TapeSound.loadTaken (t : TickerUnit) : TapeSound t.loadTaken := by
  constructor <;> simp [TickerUnit.loadTaken, TickerUnit.beginBlankOut]

theorem TapeSound.loadDone {t : TickerUnit} (ht : TapeSound t) (b : TickerBlock) : TapeSound (t.loadDone b) := by
  fun_cases TickerUnit.loadDone t b <;> exact ⟨ht.queue, ht.buffer, ht.held, ht.prints⟩

theorem loadRefused_outside {x : Scope} (code : ResultCode) (d : Nat) (s : State) :
    (loadRefused code d s).outside x = ({ s with tbl := InstrumentTable.empty, load := .idle } : State).outside x :=
  (endRefused_outside _ _ _).trans (setPartState_outside _ _)

theorem loadRefused_tapeBounded (code : ResultCode) (d : Nat) (hs : s.TapeBounded) :
    (loadRefused code d s).TapeBounded :=
  State.TapeBounded.outside (tapeBounded_of_empty (s := { s with tbl := InstrumentTable.empty, load := .idle }) hs.sound rfl (by simp))
    (loadRefused_outside code d s)

theorem loadRefused_recordsLawful (code : ResultCode) (d : Nat) (s : State) : (loadRefused code d s).RecordsLawful :=
  State.RecordsLawful.outside (recordsLawful_of_idle (by simp [InstrumentTable.empty]) rfl)
    (loadRefused_outside code d s)

theorem readOn_outside {x : Scope} (d : DirectoryRead) (s : State) :
    (readOn d s).outside x = ({ s with load := .phase1 d } : State).outside x := by
  unfold readOn placeDirectory
  split <;> rfl

theorem readOn_tapeBounded {d : DirectoryRead} (hs : s.TapeBounded)
    (hd : ∀ r ∈ d.built, r.symbol.length ≤ 5 ∧ r.hold = none) : (readOn d s).TapeBounded := by
  refine State.TapeBounded.outside ?_ (readOn_outside d s)
  rw [tapeBounded_iff]
  exact ⟨hs.sound, hs.records, fun d1 h1 => by cases h1; exact hd⟩

theorem readOn_recordsLawful {d : DirectoryRead} (hi : s.tbl.instruments = []) (hq : s.cap.fetchQueue = [])
    (hd : ∀ r ∈ d.built, r.Untraded) : (readOn d s).RecordsLawful := by
  refine State.RecordsLawful.outside ?_ (readOn_outside d s)
  exact ⟨by simp [hi], fun d1 h1 => by cases h1; exact ⟨hi, hq, hd⟩, fun p hp => by cases hp⟩

theorem buildInstrument_untraded (header : List Word) (i : Nat) (e : List Word) :
    (buildInstrument header i e).Untraded := ⟨rfl, rfl, rfl⟩

theorem Instrument.Untraded.lawful {r : Instrument} (h : r.Untraded) : r.Lawful := by
  obtain ⟨hh, hl, hd⟩ := h
  exact ⟨by simp [hh, hl], fun lo hi h1 => by simp [hl] at h1, fun _ => hd⟩

/-- Phase 1 ends, and phase 2 stands at the first instrument (R56). -/
def phase1Ended (header : List Word) (rs : List Instrument) (s : State) : State :=
  { s with
    tbl := { buildTable rs with dayNumber := s.tbl.dayNumber }
    cap := { s.cap with active := true }
    load := .phase2 ⟨header, 0, 0, false, false, []⟩ }

theorem endPhase1_eq (header : List Word) (rs : List Instrument) (s : State) :
    endPhase1 header rs s = pumpCapture (fillWatchLists header (phase1Ended header rs s)) := rfl

theorem endPhase1_tapeBounded (header : List Word) {rs : List Instrument} (hs : s.TapeBounded)
    (hr : ∀ r ∈ rs, r.symbol.length ≤ 5 ∧ r.hold = none) : (endPhase1 header rs s).TapeBounded := by
  have hbegun : (phase1Ended header rs s).TapeBounded := by
    rw [tapeBounded_iff]
    refine ⟨hs.sound, fun i r h0 => ?_, fun d hd => by cases hd⟩
    obtain ⟨hsym, hhold⟩ := hr r (List.mem_of_getElem? h0)
    exact ⟨hsym, by simp [hhold]⟩
  have hfilled := hbegun.outside (fillWatchLists_outside (x := boardScope) rfl header _)
  rw [endPhase1_eq]
  exact hfilled.trades (J := fun _ => True) (pumpCapture_trades (.refl fun _ _ => trivial))

theorem endPhase1_recordsLawful (header : List Word) {rs : List Instrument} (hq : s.cap.fetchQueue = [])
    (hr : ∀ r ∈ rs, r.Untraded) : (endPhase1 header rs s).RecordsLawful := by
  have hbegun : (phase1Ended header rs s).RecordsLawful := by
    refine ⟨fun r h => (hr r h).lawful, (by intro d hd; cases hd), fun p hp => ⟨fun i r _ h0 => ?_, ?_⟩⟩
    · exact hr r (List.mem_of_getElem? h0)
    · simp [phase1Ended, hq]
  have hfilled := hbegun.outside (fillWatchLists_outside (x := noticeScope) rfl header _)
  rw [endPhase1_eq]
  exact hfilled.evolves (pumpCapture_trades (.refl hfilled.queue)).toEvolves

theorem takeDirectoryWord_tapeBounded (w : Word) (good : Bool) (hs : s.TapeBounded) :
    (takeDirectoryWord w good s).TapeBounded := by
  have hbuilding := ((tapeBounded_iff s).mp hs).2.2
  fun_cases takeDirectoryWord w good s with
  | case1 => exact loadRefused_tapeBounded _ _ hs
  | case2 d hl =>
    fun_cases takeHeaderWord d w s with
    | case1 => exact loadRefused_tapeBounded _ _ hs
    | case2 => exact readOn_tapeBounded hs (hbuilding d hl)
  | case3 d hl =>
    have hbuilt (e : List Word) : ∀ r ∈ d.built ++ [buildInstrument d.header d.built.length e],
        r.symbol.length ≤ 5 ∧ r.hold = none := by
      intro r hr
      rcases List.mem_append.mp hr with hr | hr
      · exact hbuilding d hl r hr
      · rw [List.mem_singleton.mp hr]
        exact ⟨length_entrySymbol_le e, rfl⟩
    fun_cases takeEntryWord d w s with
    | case1 => exact readOn_tapeBounded hs (hbuilding d hl)
    | case2 => exact loadRefused_tapeBounded _ _ hs
    | case3 => exact readOn_tapeBounded hs (hbuilt _)
    | case4 => exact endPhase1_tapeBounded _ hs (hbuilt _)
  | case4 => exact hs

theorem takeDirectoryWord_recordsLawful (w : Word) (good : Bool) (hs : s.RecordsLawful) :
    (takeDirectoryWord w good s).RecordsLawful := by
  fun_cases takeDirectoryWord w good s with
  | case1 => exact loadRefused_recordsLawful _ _ s
  | case2 d hl =>
    obtain ⟨hi, hq, hb⟩ := hs.phase1 d hl
    fun_cases takeHeaderWord d w s with
    | case1 => exact loadRefused_recordsLawful _ _ s
    | case2 => exact readOn_recordsLawful hi hq hb
  | case3 d hl =>
    obtain ⟨hi, hq, hb⟩ := hs.phase1 d hl
    have hbuilt (e : List Word) : ∀ r ∈ d.built ++ [buildInstrument d.header d.built.length e], r.Untraded := by
      intro r hr
      rcases List.mem_append.mp hr with hr | hr
      · exact hb r hr
      · rw [List.mem_singleton.mp hr]
        exact buildInstrument_untraded _ _ _
    fun_cases takeEntryWord d w s with
    | case1 => exact readOn_recordsLawful hi hq hb
    | case2 => exact loadRefused_recordsLawful _ _ s
    | case3 => exact readOn_recordsLawful hi hq (hbuilt _)
    | case4 => exact endPhase1_recordsLawful _ hq (hbuilt _)
  | case4 => exact hs

/-! ### LOAD: phase 2 -/

theorem loadEnd_tapeBounded (header : List Word) (hs : s.TapeBounded) : (loadEnd header s).TapeBounded := by
  have hup : (loadUp header s).TapeBounded := by
    rw [tapeBounded_iff]
    exact ⟨hs.sound, hs.records, fun d hd => by cases hd⟩
  refine (hup.updateTape (hs.sound.loadDone (headerTicker header))).outside ?_
  unfold loadEnd
  dsimp only
  rw [chooseAll_outside rfl, driveSettle_outside rfl, endDone_outside, setPartState_outside, postAll_outside,
    setDrive_outside rfl]
  rfl

theorem loadEnd_recordsLawful (header : List Word) (hs : ∀ r ∈ s.tbl.instruments, r.Lawful) :
    (loadEnd header s).RecordsLawful :=
  State.RecordsLawful.outside (u := loadUp header s) (recordsLawful_of_idle hs rfl) (loadEnd_outside rfl rfl header s)

/-- What phase 2 reads of a record makes it no less lawful, a record that no trade has reached (R57). -/
theorem setFields_untraded (got : List (Word × Bool)) {r : Instrument} (h : r.Untraded) :
    (setFields got r).Untraded := h

theorem setFields_bounded (got : List (Word × Bool)) {r : Instrument} (h : r.Bounded) : (setFields got r).Bounded := h

theorem setInstrument_instrument? (i : Nat) (r : Instrument) (s : State) (n : Nat) :
    (setInstrument i r s).instrument? n =
      if i = n then (if i < s.tbl.instruments.length then some r else none) else s.instrument? n := by
  simp [State.instrument?, List.getElem?_set]

/-- The record after its phase-2 read, with its fault (R57, R60). -/
def fieldsSet (r : RecordRead) (got : List (Word × Bool)) (s : State) : State :=
  let s1 :=
    match s.instrument? r.instr with
    | none => s
    | some i => setInstrument r.instr (setFields got i) s
  if r.torn then
    postFault .tornRecord (.instrument r.instr) [3, 0, 3, (commitSeq ((got.map Prod.fst).getD 7 0)).toNat] s1
  else s1

theorem endRecordRead_eq (r : RecordRead) (got : List (Word × Bool)) (s : State) :
    endRecordRead r got s =
      if r.torn && decide (r.attempt < 3) then
        { s with load := .phase2 { r with inFlight := false, torn := false, got := [] } }
      else nextInstrument r (fieldsSet r got s) := rfl

/-- One record alone is set, and nothing else but its fault is posted. -/
theorem fieldsSet_instrument? (r : RecordRead) (got : List (Word × Bool)) (s : State) (n : Nat) :
    (fieldsSet r got s).instrument? n =
      if r.instr = n then (s.instrument? n).map (setFields got) else s.instrument? n := by
  have hset : (match s.instrument? r.instr with
      | none => s
      | some i => setInstrument r.instr (setFields got i) s).instrument? n =
      if r.instr = n then (s.instrument? n).map (setFields got) else s.instrument? n := by
    split
    · rename_i h
      split
      · subst n; rw [h]; rfl
      · rfl
    · rename_i i h
      rw [setInstrument_instrument?]
      split
      · subst n
        rw [if_pos (List.getElem?_eq_some_iff.mp h).1, h]
        rfl
      · rfl
  unfold fieldsSet
  dsimp only
  split
  · rw [postFault_instrument?, hset]
  · exact hset

theorem fieldsSet_tape (r : RecordRead) (got : List (Word × Bool)) (s : State) : (fieldsSet r got s).tape = s.tape := by
  have hfault (u : State) (k : FaultKind) (subj : Subject) (d : List Nat) : (postFault k subj d u).tape = u.tape :=
    (postFault_onlyPosts k subj d u).tape
  unfold fieldsSet
  dsimp only
  split <;> split <;> simp [hfault]

theorem fieldsSet_load (r : RecordRead) (got : List (Word × Bool)) (s : State) : (fieldsSet r got s).load = s.load := by
  have hfault (u : State) (k : FaultKind) (subj : Subject) (d : List Nat) : (postFault k subj d u).load = u.load :=
    load_of_blocks (blocks_of_outside (postFault_outside (x := noScope) k subj d u)) rfl
  unfold fieldsSet
  dsimp only
  split <;> split <;> simp [hfault]

theorem fieldsSet_cap (r : RecordRead) (got : List (Word × Bool)) (s : State) : (fieldsSet r got s).cap = s.cap := by
  unfold fieldsSet
  dsimp only
  split <;> split <;> simp

theorem takeRecordWord_tapeBounded (w : Word) (good : Bool) (hs : s.TapeBounded) :
    (takeRecordWord w good s).TapeBounded := by
  have hload {v : State} (hv : v.TapeBounded) (p : RecordRead) : ({ v with load := .phase2 p } : State).TapeBounded := by
    rw [tapeBounded_iff]
    exact ⟨hv.sound, hv.records, fun d hd => by cases hd⟩
  fun_cases takeRecordWord w good s with
  | case1 => exact hload hs _
  | case2 r hl got =>
    rw [endRecordRead_eq]
    split
    · exact hload hs _
    · have hset : (fieldsSet r got s).TapeBounded := by
        rw [tapeBounded_iff]
        refine ⟨by rw [fieldsSet_tape]; exact hs.sound, fun n i hn => ?_, fun d hd => ?_⟩
        · rw [fieldsSet_instrument?] at hn
          split at hn
          · obtain ⟨i0, h0, rfl⟩ := Option.map_eq_some_iff.mp hn
            exact setFields_bounded got (hs.records n i0 h0)
          · exact hs.records n i hn
        · rw [fieldsSet_load, hl] at hd
          cases hd
      fun_cases nextInstrument r (fieldsSet r got s) with
      | case1 => exact hload hset _
      | case2 => exact loadEnd_tapeBounded _ hset
  | case3 => exact hs

theorem takeRecordWord_recordsLawful (w : Word) (good : Bool) (hs : s.RecordsLawful) :
    (takeRecordWord w good s).RecordsLawful := by
  fun_cases takeRecordWord w good s with
  | case1 r hl => exact ⟨hs.records, (by intro d hd; cases hd), (by intro p hp; cases hp; exact hs.phase2 r hl)⟩
  | case2 r hl got =>
    obtain ⟨hun, hq⟩ := hs.phase2 r hl
    rw [endRecordRead_eq]
    split
    · exact ⟨hs.records, (by intro d hd; cases hd), (by intro p hp; cases hp; exact hs.phase2 r hl)⟩
    · have hlaw : ∀ i x, (fieldsSet r got s).instrument? i = some x → x.Lawful := by
        intro n x hn
        rw [fieldsSet_instrument?] at hn
        split at hn
        · rename_i hi
          obtain ⟨x0, h0, rfl⟩ := Option.map_eq_some_iff.mp hn
          exact (setFields_untraded got (hun n x0 (le_of_eq hi) h0)).lawful
        · exact recordsLawful_records.mp hs.records n x hn
      fun_cases nextInstrument r (fieldsSet r got s) with
      | case1 =>
        refine ⟨recordsLawful_records.mpr hlaw, (by intro d hd; cases hd), fun p hp => ?_⟩
        cases hp
        refine ⟨fun n x hle hn => ?_, fun e he => ?_⟩
        · have hn' : (fieldsSet r got s).instrument? n = some x := hn
          rw [fieldsSet_instrument?, if_neg (by simp only at hle; omega)] at hn'
          exact hun n x (by simp only at hle; omega) hn'
        · have := hq e (by rwa [← fieldsSet_cap r got s])
          exact Nat.lt_succ_of_lt this
      | case2 => exact loadEnd_recordsLawful _ (recordsLawful_records.mpr hlaw)
  | case3 => exact hs

/-! ### The taking of LOAD, and CLOSE -/

theorem loadTaken_tapeBounded (hs : s.TapeBounded) : (loadTaken s).TapeBounded := by
  have hcleared : (loadCleared s).TapeBounded := by
    rw [tapeBounded_iff]
    refine ⟨TapeSound.loadTaken s.tape, fun i r h => ?_, ((tapeBounded_iff s).mp hs).2.2⟩
    simp [State.instrument?, loadCleared, InstrumentTable.empty] at h
  have hclear : (clearForLoad s).TapeBounded := hcleared.outside (clearForLoad_outside rfl s)
  fun_cases loadTaken s with
  | case1 => exact loadRefused_tapeBounded _ _ hclear
  | case2 => exact readOn_tapeBounded hclear (by simp)

theorem loadTaken_recordsLawful (s : State) : (loadTaken s).RecordsLawful := by
  have hclear := clearForLoad_outside (x := noticeScope) rfl s
  have htbl : (clearForLoad s).tbl.instruments = [] := by
    have h := records_of_blocks (blocks_of_outside hclear)
    rwa [loadCleared, InstrumentTable.empty, List.map_nil, List.map_eq_nil_iff] at h
  fun_cases loadTaken s with
  | case1 => exact loadRefused_recordsLawful _ _ _
  | case2 =>
    refine readOn_recordsLawful (s := clearForLoad s) htbl ?_ (by simp)
    rw [cap_of_noticeScope hclear]
    rfl

/-- The table after CLOSE (R63). -/
def dayClosed (s : State) : State :=
  { s with
    tbl :=
      { s.tbl with
        instruments := s.tbl.instruments.map Instrument.closeDay
        dayNumber := s.tbl.dayNumber + 1 } }

theorem closeDay_outside {x : Scope} (hf : x.floor = true) (hl : x.lines = true) (s : State) :
    (closeDay s).outside x = s.outside x ∨ (closeDay s).outside x = (dayClosed s).outside x := by
  fun_cases closeDay s with
  | case1 => exact .inl (endRefused_outside _ _ _)
  | case2 =>
    refine .inr ?_
    rw [endDone_outside, noticeAll_outside hf hl]
    exact post_outside .partState _

theorem dayClosed_instrument? {i : Nat} {r1 : Instrument} (h : (dayClosed s).instrument? i = some r1) :
    ∃ r, s.instrument? i = some r ∧ r1 = r.closeDay := by
  simp only [State.instrument?, dayClosed, List.getElem?_map, Option.map_eq_some_iff] at h
  obtain ⟨r, hr, rfl⟩ := h
  exact ⟨r, hr, rfl⟩

theorem closeDay_tapeBounded (hs : s.TapeBounded) : (closeDay s).TapeBounded := by
  rcases closeDay_outside (x := boardScope) rfl rfl s with h | h
  · exact hs.outside h
  · refine State.TapeBounded.outside ?_ h
    rw [tapeBounded_iff]
    refine ⟨hs.sound, fun i r1 h1 => ?_, ((tapeBounded_iff s).mp hs).2.2⟩
    obtain ⟨r, hr, rfl⟩ := dayClosed_instrument? h1
    exact hs.records i r hr

theorem closeDay_recordsLawful (hs : s.RecordsLawful) : (closeDay s).RecordsLawful := by
  rcases closeDay_outside (x := noticeScope) rfl rfl s with h | h
  · exact hs.outside h
  · refine State.RecordsLawful.outside ?_ h
    refine ⟨recordsLawful_records.mpr fun i r1 h1 => ?_, fun d hd => ?_, fun p hp => ⟨fun i r1 hle h1 => ?_, ?_⟩⟩
    · obtain ⟨r, hr, rfl⟩ := dayClosed_instrument? h1
      exact ⟨by simp [Instrument.closeDay], (by intro lo hi h; cases h),
        (recordsLawful_records.mp hs.records i r hr).halted⟩
    · obtain ⟨hi, hrest⟩ := hs.phase1 d hd
      exact ⟨by simp [dayClosed, hi], hrest⟩
    · obtain ⟨r, hr, rfl⟩ := dayClosed_instrument? h1
      exact ⟨rfl, rfl, ((hs.phase2 p hp).1 i r hle hr).2.2⟩
    · exact (hs.phase2 p hp).2

/-! ### The tape's own events -/

theorem takePrint_tapeBounded (hs : s.TapeBounded) (hready : s.takeReady = true) : (takePrint s).TapeBounded := by
  have hb : s.tape.buffer.length ≤ 16 := by
    simp only [State.takeReady, Bool.and_eq_true, decide_eq_true_eq] at hready
    exact hready.2
  unfold takePrint
  split
  · exact hs
  · rename_i p q hq
    have htaken := hs.setTape (hs.sound.afterTake hq hb s.ctl.timeBase (r := s.instrument? p.instr)
      (fun r0 h0 => (hs.records _ r0 h0).1))
    refine State.TapeBounded.outside ?_ (post_outside _ _)
    split
    · exact htaken
    · rename_i r hr
      have hset := Trades.setQuiet (J := fun _ => True) (Trades.refl (fun _ _ => trivial))
        (u := Machine.setTape (s.tape.afterTake s.ctl.timeBase (s.instrument? p.instr) p) s) hr
        (r1 := { r with lastPrintedWhole := some (displayForm p.base p.price).whole, full := false }) rfl
      exact htaken.trades hset

theorem ribbonStep_tapeBounded (hs : s.TapeBounded) : (ribbonStep s).TapeBounded := by
  fun_cases ribbonStep s with
  | case1 => exact hs.setTape (hs.sound.runStep _)
  | case2 => exact hs.setTape ⟨hs.sound.queue, hs.sound.buffer, hs.sound.held, hs.sound.prints⟩
  | case3 | case4 => exact hs

theorem blankOutOver_tapeBounded (hs : s.TapeBounded) : (blankOutOver s).TapeBounded := by
  fun_cases blankOutOver s with
  | case1 => exact hs.setTape ⟨hs.sound.queue, hs.sound.buffer, hs.sound.held, hs.sound.prints⟩
  | case2 =>
    exact State.TapeBounded.outside
      (hs.setTape (k := { s.tape with phase := 0, condition := .still })
        ⟨hs.sound.queue, hs.sound.buffer, hs.sound.held, hs.sound.prints⟩) (presentStill_outside rfl _)

end Sys2Proof.Machine
end


section
/-! The bounds of the tape and the laws of the records, kept by every command. -/

namespace Sys2Proof.Machine

open Sys2Proof

variable {s t : State}

/-- Outside no scope stands the whole table. -/
theorem tbl_of_noScope (h : t.outside noScope = s.outside noScope) : t.tbl = s.tbl := by
  have hid (l : List Instrument) : l.map noScope.record = l := by
    have hr : noScope.record = id := rfl
    rw [hr, List.map_id]
  have hl := congrArg (fun u : State => u.tbl.instruments) h
  have ht := congrArg (fun u : State => { u.tbl with instruments := t.tbl.instruments }) h
  simp only [State.outside, hid] at hl ht
  exact ht.trans (by rw [hl])

/-- A command does nothing, or its owning rule is carried out in a state whose blocks are as they were. -/
theorem onCommand_answers (codes : Nat → Bool) (owning : State → State) (s : State) :
    ∃ u, u.outside noScope = s.outside noScope ∧ (onCommand codes owning s = u ∨ onCommand codes owning s = owning u) := by
  fun_cases onCommand codes owning s with
  | case1 w _ _ _ =>
    fun_cases arrive w owning (popHanded s) with
    | case1 =>
      refine ⟨refuseBusy w (setCommandCause false (popHanded s)), ?_, .inl rfl⟩
      exact (post_outside .refusal _).trans rfl
    | case2 =>
      have htaken : (takeCommand w (setCommandCause false (popHanded s))).outside noScope = s.outside noScope :=
        (post_outside .commandStatus _).trans rfl
      fun_cases examine w owning (takeCommand w (setCommandCause false (popHanded s))) with
      | case1 | case2 => exact ⟨_, (endRefused_outside _ _ _).trans htaken, .inl rfl⟩
      | case3 => exact ⟨_, htaken, .inr rfl⟩
  | case2 | case3 => exact ⟨s, rfl, .inl rfl⟩

/-- The events of the Capture Unit and of held prices, CONFIRM aside. -/
def isCapture : Instr → Bool
  | .withdraw | .fieldWrite | .commitWrite | .fetchReadReturn | .staleStaging _ | .holdExpired _ => true
  | _ => false

theorem Trades.byStanding {J : Nat → Prop} {take : State → State} {i : Nat} (hs : Trades J s s)
    (ht : s.standing i = .read → Trades J s (take s)) : Trades J s (byStanding i take s) := by
  fun_cases Machine.byStanding i take s with
  | case1 h => exact ht h
  | case2 => exact hs
  | case3 => exact tearPhase2_trades hs

/-- The events of the Capture Unit trade in the instruments with a hold, those of the Fetch Queue and those that stand as
read. -/
theorem exec_trades {J : Nat → Prop} {c : Instr} (hc : isCapture c = true) (hq : ∀ e ∈ s.cap.fetchQueue, J e.instr)
    (hhold : ∀ i r, s.instrument? i = some r → r.hold ≠ none → J i)
    (hread : ∀ i r, s.instrument? i = some r → s.standing i = .read → J i) (h : exec c s = .next t) : Trades J s t := by
  have hrefl : Trades J s s := .refl hq
  have keep {u : State} (h : answer u = .next t) (hu : Trades J s u) : Trades J s t := by
    cases h
    exact hu.outside (grant_outside u)
  have hpart {take : Word → Bool → State → State} (ht : ∀ w g v, Trades J s v → Trades J s (take w g v))
      (which : PartSource → Bool) : Trades J s (onPartRead which 2 pumpCapture take s) :=
    onPartRead_blocks (p := Trades J s) (fun u v ho hu => hu.outside (outside_boardScope_of_noScope ho))
      (fun _ hu => pumpCapture_trades hu) ht which 2 hrefl
  cases c with
  | withdraw =>
    obtain ⟨u, hu, he | he⟩ := onCommand_answers (· == 4) (settleHold withdrawHold) s
    · exact keep h (he ▸ hrefl.outside (outside_boardScope_of_noScope hu))
    · refine keep h (he ▸ ?_)
      have hu1 := hrefl.outside (outside_boardScope_of_noScope hu)
      have hsame : ∀ i, u.instrument? i = s.instrument? i := by
        intro i
        rw [State.instrument?, tbl_of_noScope hu]
        rfl
      fun_cases settleHold withdrawHold u with
      | case1 | case2 => exact hu1.outside (endRefused_outside _ _ _)
      | case3 i r h0 d hd =>
        exact (hu1.setInstrument h0 (hhold i r (hsame i ▸ h0) (by simp [hd])) (.single (.freed r.halted r))).outside
          (endDone_outside _)
  | fieldWrite =>
    refine keep h ?_
    fun_cases onCaptureWord (fun n => decide (n < 7))
      (fun i n w s => if h : n < 7 then byStanding i (takeField i ⟨n, h⟩ w) s else s) s with
    | case1 i n w =>
      have hpop : Trades J s (popHanded s) := hrefl.outside rfl
      split
      · exact hpop.trans (Trades.byStanding (.refl hpop.queue)
          fun _ => stageWord_trades _ _ _ (tearFetch_trades _ (.refl hpop.queue)))
      · exact hpop
    | case2 | case3 => exact hrefl
  | commitWrite =>
    refine keep h ?_
    fun_cases onCaptureWord (· == 7) (fun i _ w s => pumpCapture (byStanding i (takeCommit i w) s)) s with
    | case1 i n w =>
      have hpop : Trades J s (popHanded s) := hrefl.outside rfl
      refine pumpCapture_trades (hpop.trans (Trades.byStanding (.refl hpop.queue) fun hstand => ?_))
      cases h0 : s.instrument? i with
      | none =>
        have hnone : takeCommit i w (popHanded s) = popHanded s := by
          rw [takeCommit, show (popHanded s).instrument? i = none from h0]
        rw [hnone]
        exact .refl hpop.queue
      | some r => exact takeCommit_trades w (.refl hpop.queue) (hread i r h0 hstand)
    | case2 | case3 => exact hrefl
  | fetchReadReturn => exact keep h (hpart (fun w g _ hu => pumpCapture_trades (takeFetched_trades w g hu)) _)
  | staleStaging i =>
    refine keep h ?_
    split
    · exact hrefl
    · split
      · exact Trades.postFault
          (hrefl.setCap { s.cap with staging := s.cap.staging.filter (fun t => t.instr != i) } hq) _ _ _
      · exact hrefl
  | holdExpired i =>
    refine keep h ?_
    split
    · exact hrefl
    · rename_i r h0
      split
      · exact hrefl
      · rename_i d hd
        split
        · exact (hrefl.postFault _ _ _).setInstrument (by simpa using h0) (hhold i r h0 (by simp [hd]))
            (.single (.freed r.halted r))
        · exact hrefl
  | _ => cases hc

/-- CONFIRM takes a held trade in its record, and sends its change notice; the print is in range where the hold is. -/
theorem exec_confirm_trades {J : Nat → Prop} (hq : ∀ e ∈ s.cap.fetchQueue, J e.instr)
    (hhold : ∀ i r, s.instrument? i = some r → r.hold ≠ none → J i) (h : exec .confirm s = .next t) :
    Evolves J s t ∧ ((∀ i r d, s.instrument? i = some r → r.hold = some d → d.InRange r.base) → Trades J s t) := by
  have hrefl : Trades J s s := .refl hq
  have both {v : State} (hv : Trades J s v) : Evolves J s v ∧
      ((∀ i r d, s.instrument? i = some r → r.hold = some d → d.InRange r.base) → Trades J s v) :=
    ⟨hv.toEvolves, fun _ => hv⟩
  cases h
  obtain ⟨u, hu, he | he⟩ := onCommand_answers (· == 3) (settleHold confirmHold) s
  · rw [he]
    exact both ((hrefl.outside (outside_boardScope_of_noScope hu)).outside (grant_outside _))
  · rw [he]
    have hu1 := hrefl.outside (outside_boardScope_of_noScope hu)
    have hsame : ∀ i, u.instrument? i = s.instrument? i := by
      intro i
      rw [State.instrument?, tbl_of_noScope hu]
      rfl
    fun_cases settleHold confirmHold u with
    | case1 | case2 => exact both ((hu1.outside (endRefused_outside _ _ _)).outside (grant_outside _))
    | case3 i r h0 d hd =>
      have h0' := hsame i ▸ h0
      have hset := hu1.setInstrument h0 (hhold i r h0' (by simp [hd])) (.single (.taken d.price d.size d.rounding r))
      refine ⟨hset.toEvolves.trans (evolves_of_blocks hset.queue rfl (blocks_of_outside (x := noticeScope) ?_)),
        fun hrange => ?_⟩
      · rw [grant_outside, confirmHold, endDone_outside, notify_outside rfl rfl rfl]
      · refine ((notify_trades hset fun p hp r1 h1 => ?_).outside (endDone_outside _)).outside (grant_outside _)
        cases hp
        rw [setInstrument_instrument?, if_pos rfl, if_pos (List.getElem?_eq_some_iff.mp h0).1] at h1
        cases h1
        exact hrange i r d h0' hd

/-- The beginning of a reset leaves the table and the tape's texts, and abandons LOAD and capture. -/
theorem abandonHost_eq (s : State) : ∃ b, abandonHost s = { s with mem := { s.mem with bus := b } } := by
  fun_cases abandonHost s with
  | case1 => exact ⟨_, rfl⟩
  | case2 => exact ⟨s.mem.bus, rfl⟩

theorem tapeBounded_of_reset (hs : s.TapeBounded) {b : Nat} (htape : t.tape = { s.tape with portBrightness := b })
    (htbl : t.tbl = s.tbl) (hload : t.load = .idle) : t.TapeBounded := by
  rw [tapeBounded_iff]
  refine ⟨?_, fun i r h0 => hs.records i r ?_, fun d hd => by simp [hload] at hd⟩
  · rw [htape]
    exact ⟨hs.sound.queue, hs.sound.buffer, hs.sound.held, hs.sound.prints⟩
  · rwa [State.instrument?, htbl] at h0

/-- Every command keeps the bounds of the tape. -/
theorem exec_tapeBounded {c : Instr} (hs : s.TapeBounded) (h : exec c s = .next t) : t.TapeBounded := by
  have keep {u : State} (h : answer u = .next t) (hu : u.TapeBounded) : t.TapeBounded := by
    cases h
    exact hu.outside (grant_outside u)
  have hout (u v : State) (ho : v.outside noScope = u.outside noScope) (hu : u.TapeBounded) : v.TapeBounded :=
    hu.outside (outside_boardScope_of_noScope ho)
  by_cases hcap : isCapture c = true
  · exact hs.trades (exec_trades (J := fun _ => True) hcap (by simp) (by simp) (by simp) h)
  by_cases hspared : unscoped c = false ∧ (blockScope c).records = false ∧ (blockScope c).tape = false
  · exact hs.trades (trades_of_blocks (J := fun _ => True) (by simp) hspared.2.1 hspared.2.2 (exec_blocks hspared.1 h))
  cases c with
  | confirm =>
    exact hs.trades ((exec_confirm_trades (J := fun _ => True) (by simp) (by simp) h).2
      (fun i r d h0 hd => (hs.records i r h0).2 d hd))
  | externalReset => exact keep h (by split; exacts [hs, tapeBounded_of_reset hs (b := 0) rfl rfl rfl])
  | supplyLowReset =>
    obtain ⟨b, hb⟩ := abandonHost_eq s
    refine keep h ?_
    rw [beginSupplyLow, hb]
    split
    exacts [hs, tapeBounded_of_reset hs (b := 0) rfl rfl rfl]
  | powerOnReset p =>
    obtain ⟨b, hb⟩ := abandonHost_eq s
    refine keep h (State.TapeBounded.outside ?_ (placeClear_outside _))
    rw [hb]
    exact tapeBounded_of_reset hs (b := 0) rfl rfl rfl
  | resetEnd p =>
    refine keep h ?_
    split
    · refine State.TapeBounded.outside (u := resetBlocks p s) ?_ (postAll_outside _ _)
      exact tapeBounded_of_empty (TapeSound.reset _) rfl (fun d hd => by cases hd)
    · exact hs
  | load => exact keep h (onCommand_blocks hout (fun _ hu => loadTaken_tapeBounded hu) _ hs)
  | close => exact keep h (onCommand_blocks hout (fun _ hu => closeDay_tapeBounded hu) _ hs)
  | directoryReadReturn =>
    refine keep h ?_
    split
    · split
      · exact hs
      · exact loadRefused_tapeBounded _ _ hs
    · refine onPartRead_blocks hout (fun u hu => hu.outside ?_) (fun w g _ hu => takeDirectoryWord_tapeBounded w g hu) _ _ hs
      fun_cases pumpDirectory u with
      | case1 d => fun_cases placeDirectory d u <;> rfl
      | case2 => rfl
  | phase2ReadReturn =>
    have hpump {u : State} (hu : u.TapeBounded) : (pumpCapture u).TapeBounded :=
      hu.trades (J := fun _ => True) (pumpCapture_trades (.refl fun _ _ => trivial))
    exact keep h (onPartRead_blocks hout (fun _ => hpump) (fun w g _ hu => hpump (takeRecordWord_tapeBounded w g hu)) _ _ hs)
  | tapeHold | tapeResume =>
    refine keep h (onCommand_blocks hout (fun u hu => ?_) _ hs)
    refine State.TapeBounded.outside ?_ (endDone_outside _)
    exact hu.updateTape ⟨hu.sound.queue, hu.sound.buffer, hu.sound.held, hu.sound.prints⟩
  | take =>
    refine keep h ?_
    split
    · rename_i hready
      exact takePrint_tapeBounded hs (Bool.and_eq_true_iff.mp hready).2
    · exact hs
  | ribbonStep => exact keep h (by split; exacts [hs, ribbonStep_tapeBounded hs])
  | blankOutEnd => exact keep h (by split; exacts [blankOutOver_tapeBounded hs, hs])
  | withdraw | fieldWrite | commitWrite | fetchReadReturn | staleStaging _ | holdExpired _ => exact absurd rfl hcap
  | _ => exact absurd ⟨rfl, rfl, rfl⟩ hspared

/-- Every command keeps the laws of the records. -/
theorem exec_recordsLawful {c : Instr} (hs : s.RecordsLawful) (h : exec c s = .next t) : t.RecordsLawful := by
  have keep {u : State} (h : answer u = .next t) (hu : u.RecordsLawful) : t.RecordsLawful := by
    cases h
    exact hu.outside (grant_outside u)
  have hout (u v : State) (ho : v.outside noScope = u.outside noScope) (hu : u.RecordsLawful) : v.RecordsLawful :=
    hu.outside (outside_noticeScope_of_noScope ho)
  by_cases hcap : isCapture c = true
  · exact hs.evolves (exec_trades hcap hs.queue (fun i r h0 => hs.tradable_of_hold h0)
      (fun i r h0 => hs.tradable_of_read h0) h).toEvolves
  by_cases hspared : unscoped c = false ∧ (blockScope c).records = false
  · exact hs.evolves (evolves_of_blocks hs.queue hspared.2 (exec_blocks hspared.1 h))
  have hidle (u : State) (htbl : u.tbl = s.tbl) (hload : u.load = .idle) : u.RecordsLawful :=
    recordsLawful_of_idle (by rw [htbl]; exact hs.records) hload
  cases c with
  | confirm => exact hs.evolves (exec_confirm_trades hs.queue (fun i r h0 => hs.tradable_of_hold h0) h).1
  | externalReset => exact keep h (by split; exacts [hs, hidle _ rfl rfl])
  | supplyLowReset =>
    obtain ⟨b, hb⟩ := abandonHost_eq s
    refine keep h ?_
    rw [beginSupplyLow, hb]
    split
    exacts [hs, hidle _ rfl rfl]
  | powerOnReset p =>
    obtain ⟨b, hb⟩ := abandonHost_eq s
    refine keep h (State.RecordsLawful.outside ?_ (placeClear_outside _))
    rw [hb]
    exact hidle _ rfl rfl
  | resetEnd p =>
    refine keep h ?_
    split
    · exact State.RecordsLawful.outside (u := resetBlocks p s)
        (recordsLawful_of_idle (by simp [resetBlocks, InstrumentTable.empty]) rfl) (postAll_outside _ _)
    · exact hs
  | load => exact keep h (onCommand_blocks hout (fun u _ => loadTaken_recordsLawful u) _ hs)
  | close => exact keep h (onCommand_blocks hout (fun _ hu => closeDay_recordsLawful hu) _ hs)
  | directoryReadReturn =>
    refine keep h ?_
    split
    · split
      · exact hs
      · exact loadRefused_recordsLawful _ _ s
    · refine onPartRead_blocks hout (fun u hu => hu.outside ?_) (fun w g _ hu => takeDirectoryWord_recordsLawful w g hu)
        _ _ hs
      fun_cases pumpDirectory u with
      | case1 d => fun_cases placeDirectory d u <;> rfl
      | case2 => rfl
  | phase2ReadReturn =>
    have hpump {u : State} (hu : u.RecordsLawful) : (pumpCapture u).RecordsLawful :=
      hu.evolves (pumpCapture_trades (.refl hu.queue)).toEvolves
    exact keep h (onPartRead_blocks hout (fun _ => hpump) (fun w g _ hu => hpump (takeRecordWord_recordsLawful w g hu)) _ _ hs)
  | withdraw | fieldWrite | commitWrite | fetchReadReturn | staleStaging _ | holdExpired _ => exact absurd rfl hcap
  | _ => exact absurd ⟨rfl, rfl⟩ hspared

/-- Settles O59. -/
theorem tapeBoundsKept : Obligations.TapeBoundsKept :=
  ⟨fun _ _ hs h => step_keeps (p := State.TapeBounded)
      (fun _ _ hs => ⟨hs.queue, hs.buffer, hs.held, hs.prints, hs.symbols, hs.holds, hs.building⟩) exec_tapeBounded hs h,
    fun _ _ hs h => step_keeps (p := State.RecordsLawful) (fun _ _ hs => ⟨hs.records, hs.phase1, hs.phase2⟩)
      exec_recordsLawful hs h⟩

end Sys2Proof.Machine
end


section
/-! The step and the queue, the reset state, parity, host cycles, refresh and the arbiter (chapter 1). -/

namespace Sys2Proof.Machine

open Sys2Proof

/-- Settles O1. -/
theorem stepRunsFront : Obligations.StepRunsFront := by
  refine ⟨fun c rest s h => ?_, fun s h => ?_⟩ <;> rw [step, h]

/-- Settles O2. -/
theorem resetValues : Obligations.ResetValues := by
  have hlinks : ∀ k : Fin 8, State.reset.links[k].running = false ∧ State.reset.links[k].driveEnable = true := by decide
  have hfilters : ∀ c : Comparator, (State.reset.drive.filter c).taken = false := by
    intro c
    cases c <;> rfl
  have hlines : ∀ n : Fin 16, State.reset.lines[n] = Line.off := by decide
  have hblank : ∀ c : Fin 12, Image.blank[c] = .blank := by decide
  have hcleared : ∀ p : Fin 16, Link.cleared.modules[p] = ⟨some p, Image.blank, none⟩ ∧
      Link.cleared.positions[p] = ⟨.notFitted, .unknown, 0, 0, none, none, 0, false⟩ := by decide
  unfold Obligations.ResetValues
  dsimp only
  and_intros
  any_goals rfl
  exacts [hlinks, hfilters, hlines, hblank, hcleared]

/-! ### Parity -/

theorem foldl_xor_eq (f : Nat → Bool) (l : List Nat) (acc : Bool) :
    l.foldl (fun a i => a ^^ f i) acc = (acc ^^ decide (l.countP f % 2 = 1)) := by
  induction l generalizing acc with
  | nil => simp
  | cons i l ih =>
    rw [List.foldl_cons, ih, List.countP_cons]
    rcases Nat.mod_two_eq_zero_or_one (l.countP f) with h | h <;> cases hf : f i <;> simp [Nat.add_mod, h]

/-- The ones are odd when their count is. -/
theorem oddOnes_eq {n : Nat} (v : BitVec n) :
    oddOnes v = decide ((List.range n).countP (fun i => v.getLsbD i) % 2 = 1) := by
  rw [oddOnes, foldl_xor_eq, Bool.false_xor]

/-- A byte is odd with its parity bit when the ones of both together are. -/
theorem byteParityGood_iff (b : Byte) (p : Bool) :
    byteParityGood b p = true ↔ ((List.range 8).countP (fun i => b.getLsbD i) + flagBit p) % 2 = 1 := by
  rw [byteParityGood, oddOnes_eq]
  cases p
  · simp [flagBit]
  · simp [flagBit]
    omega

theorem countP_lowerByte (w : Word) :
    (List.range 8).countP (fun i => (lowerByte w).getLsbD i) = (List.range 8).countP (fun i => w.getLsbD (0 + i)) := by
  refine List.countP_congr fun i hi => ?_
  have := List.mem_range.mp hi
  simp [lowerByte, this]

theorem countP_upperByte (w : Word) :
    (List.range 8).countP (fun i => (upperByte w).getLsbD i) = (List.range 8).countP (fun i => w.getLsbD (8 + i)) := by
  refine List.countP_congr fun i hi => ?_
  have := List.mem_range.mp hi
  simp [upperByte, this]

/-- The ones of a byte of a word, from bit `n` on, are odd with a parity bit. -/
def OddByte (w : Word) (n : Nat) (p : Bool) : Prop :=
  ((List.range 8).countP (fun i => w.getLsbD (n + i)) + flagBit p) % 2 = 1

theorem lowerParity_iff (w : Word) (p : Bool) : byteParityGood (lowerByte w) p = true ↔ OddByte w 0 p := by
  rw [byteParityGood_iff, countP_lowerByte]; rfl

theorem upperParity_iff (w : Word) (p : Bool) : byteParityGood (upperByte w) p = true ↔ OddByte w 8 p := by
  rw [byteParityGood_iff, countP_upperByte]; rfl

theorem addressGood_iff (c : BusCycle) : addressGood c = true ↔
    ((List.range 20).countP (fun i => c.addr.getLsbD i) + flagBit c.write + flagBit c.addrParity) % 2 = 1 := by
  rw [addressGood, oddOnes_eq]
  cases c.write <;> cases c.addrParity <;> simp [flagBit] <;> omega

/-- The code of two lanes by its bits: bit 0 the lower, bit 1 the upper (para 10.3). -/
theorem lanesCode_bits (u l : Bool) :
    (lanesCode u l % 2 = 1 ↔ l = true) ∧ (lanesCode u l / 2 = 1 ↔ u = true) ∧ lanesCode u l ≤ 3 := by
  cases u <;> cases l <;> decide

theorem badLanes_eq (r : RamWord) : badLanes r = lanesCode (!upperGood r) (!lowerGood r) := rfl

theorem wordGood_freshWord (w : Word) : wordGood (freshWord w) = true := by
  simp [wordGood, upperGood, lowerGood, freshWord, byteParityGood, byteParity]

/-! ### What the checks mean -/

theorem fires_iff (t : Trap) (a : Addr) : t.fires a = true ↔
    t.armed = true ∧ ∀ i < 20, t.mask.getLsbD i = true → a.getLsbD i = t.compare.getLsbD i := by
  unfold Trap.fires
  rw [Bool.and_eq_true, beq_iff_eq]
  refine and_congr_right fun _ => ⟨fun h i hi hm => ?_, fun h => ?_⟩
  · have := congrArg (fun v => v.getLsbD i) h
    simpa [hm] using this
  · refine BitVec.eq_of_getLsbD_eq fun i hi => ?_
    cases hm : t.mask.getLsbD i with
    | false => simp [hm]
    | true => simp [hm, h i hi hm]

theorem covers_iff (g : GuardWindow) (a : Addr) : g.covers a = true ↔
    g.mode ≠ .off ∧ g.base.toNat ≤ a.toNat ∧ a.toNat ≤ g.limit.toNat := by
  simp [GuardWindow.covers]

theorem controlArea_le_words (size : MemSize) : 4096 ≤ size.words := by
  cases size <;> exact Nat.le_of_ble_eq_true rfl

theorem controlOffset_iff (size : MemSize) (a off : Nat) : controlOffset size a = some off ↔
    size.words - 4096 ≤ a ∧ a < size.words ∧ a = size.words - 4096 + off := by
  unfold controlOffset controlBase
  split
  · rw [Option.some.injEq]
    omega
  · simp only [reduceCtorEq, false_iff]
    omega

theorem controlOffset_eq_none (size : MemSize) (a : Nat) : controlOffset size a = none ↔
    ¬ (size.words - 4096 ≤ a ∧ a < size.words) := by
  unfold controlOffset controlBase
  by_cases h : size.words - 4096 ≤ a ∧ a < size.words
  · rw [if_pos h]; exact ⟨nofun, fun hn => absurd h hn⟩
  · rw [if_neg h]; exact ⟨fun _ => h, fun _ => rfl⟩

theorem ownedOffset_iff (off : Nat) : ownedOffset off = true ↔ 0x020 ≤ off ∧ off ≤ 0x77F := by
  simp only [ownedOffset, decide_eq_true_eq]

theorem mem_area_of_owned {words n : ℕ} (hsize : 4096 ≤ words)
    (h : words - 4096 + 0x020 ≤ n ∧ n ≤ words - 4096 + 0x77F) : words - 4096 ≤ n ∧ n < words := by
  omega

/-- The definition is rewritten as a function, before it meets its arguments: applied, the kernel would evaluate
`controlOffset` and count the 4096 words down one by one. -/
theorem ownedAddress_of_offset {s : State} {a : Addr} {k : Option Nat}
    (hk : controlOffset s.mem.installed a.toNat = k) : s.ownedAddress a = k.any ownedOffset := by
  obtain ⟨owned, howned⟩ : ∃ f, f = State.ownedAddress := ⟨_, rfl⟩
  rw [← howned]
  delta State.ownedAddress at howned
  rw [howned]
  beta_reduce
  rw [hk]
  cases k <;> rfl

theorem ownedAddress_iff (s : State) (a : Addr) : s.ownedAddress a = true ↔
    s.mem.installed.words - 4096 + 0x020 ≤ a.toNat ∧ a.toNat ≤ s.mem.installed.words - 4096 + 0x77F := by
  cases hk : controlOffset s.mem.installed a.toNat with
  | none =>
    have hout := (controlOffset_eq_none _ _).1 hk
    rw [ownedAddress_of_offset hk, Option.any_none]
    exact ⟨nofun, fun h => absurd (mem_area_of_owned (controlArea_le_words _) h) hout⟩
  | some off =>
    obtain ⟨-, -, hat⟩ := (controlOffset_iff _ _ _).1 hk
    rw [ownedAddress_of_offset hk, Option.any_some, hat, Nat.add_le_add_iff_left, Nat.add_le_add_iff_left]
    exact ownedOffset_iff off

/-- No window covers an address that none of the four covers. -/
theorem guardFor_eq_none {m : MemoryPath} {a : Addr} (h : ∀ n : Fin 4, m.guards[n].covers a = false) :
    m.guardFor a = none := by
  simp only [MemoryPath.guardFor, List.find?_eq_none, List.forall_mem_cons, Bool.not_eq_true]
  exact ⟨h 0, h 1, h 2, h 3, by simp⟩

/-- The lowest-numbered window that covers an address decides (R9). -/
theorem guardFor_eq_some {m : MemoryPath} {a : Addr} {n : Fin 4} (h : m.guards[n].covers a = true)
    (hlow : ∀ k : Fin 4, k < n → m.guards[k].covers a = false) : m.guardFor a = some n := by
  unfold MemoryPath.guardFor
  fin_cases n
  · simp_all
  · have h0 := hlow 0 (by decide)
    simp_all
  · have h0 := hlow 0 (by decide)
    have h1 := hlow 1 (by decide)
    simp_all
  · have h0 := hlow 0 (by decide)
    have h1 := hlow 1 (by decide)
    have h2 := hlow 2 (by decide)
    simp_all

/-! ### Host cycles on arrival -/

theorem exec_hostCycle {s : State} (h : s.mem.waiting = none) (c : BusCycle) :
    exec (.hostCycle c) s = .next (grant (arriveHost c s)) := by
  have hw : s.mem.waiting.isSome = false := by rw [h]; rfl
  show answer (if s.mem.waiting.isSome then s else arriveHost c s) = _
  rw [hw]
  rfl

/-- Settles O3. -/
theorem hostCycleAdmitted : Obligations.HostCycleAdmitted := by
  refine ⟨fun c s hw hshut hp hsize hwrite => ?_, fun c => ⟨addressGood_iff c, ?_, ?_⟩, fires_iff, covers_iff,
    fun s a => ⟨ownedAddress_iff s a, ?_, ?_⟩⟩
  · have hadmit : arriveHost c s = admitHost c s := by
      cases hc : c.write with
      | false => simp [arriveHost, hshut, hp, Nat.not_le.mpr hsize, hc]
      | true =>
        obtain ⟨hl, ht, ho, hg⟩ := hwrite hc
        simp [arriveHost, hshut, hp, Nat.not_le.mpr hsize, hc, writeCheck, hl, ht, ho, guardCheck, guardFor_eq_none hg]
    rw [exec_hostCycle hw, hadmit, admitHost]
    simp only [Bool.and_eq_true, Bool.not_eq_true', and_assoc]
    rfl
  · have hlow := lowerParity_iff c.data c.lowerParity
    have hup := upperParity_iff c.data c.upperParity
    unfold OddByte at hlow hup
    simp only [failedLanes, lanesCode, bitOf, Bool.and_eq_true, Bool.not_eq_true', ← Bool.not_eq_true, hlow, hup,
      Nat.mod_two_not_eq_one]
    rfl
  · simp only [strobesCode, lanesCode, bitOf, flagBit]
    cases c.lower <;> cases c.upper <;> rfl
  · cases s.mem.installed <;> rfl
  · simp [State.hostShut]

end Sys2Proof.Machine
end


section
/-! Host cycles refused and served, refresh, the arbiter, and the invariants of the reset state (chapter 1). -/

namespace Sys2Proof.Machine

open Sys2Proof

/-! ### Host cycles that fail a check -/

/-- A command whose answer is a posted fault gives the fault its slot and queues its record (R31). -/
theorem answersFault_of {c : Instr} {s u : State} {k : FaultKind} {subj : Subject} {d : List Nat}
    (hroom : u.LogRoom) (h : exec c s = .next (grant (postFault k subj d u))) : AnswersFault c s u k subj d := by
  obtain ⟨hposts, hqueued⟩ := postFault_room (k := k) (subj := subj) (d := d) hroom
  exact ⟨_, h, hposts, hqueued⟩

section
variable {s : State} {c : BusCycle}

theorem arriveHost_badAddress (hs : s.hostShut = false) (hp : addressGood c = false) :
    arriveHost c s = refuseHost .addressParity c [bitOf c.write 0, strobesCode c] s := by
  simp [arriveHost, hs, hp]

theorem arriveHost_nonexistent (hs : s.hostShut = false) (hp : addressGood c = true)
    (hsize : s.mem.installed.words ≤ c.addr.toNat) :
    arriveHost c s = refuseHost .nonexistentMemory c [bitOf c.write 0, s.mem.installed.code] s := by
  simp [arriveHost, hs, hp, hsize]

theorem arriveHost_write (hs : s.hostShut = false) (hp : addressGood c = true)
    (hsize : c.addr.toNat < s.mem.installed.words) (hw : c.write = true) : arriveHost c s = writeCheck c s := by
  simp [arriveHost, hs, hp, Nat.not_le.mpr hsize, hw]

end

/-- No reset shuts host cycles out where faults are recorded. -/
theorem State.LogRoom.hostShut {s : State} (h : s.LogRoom) : s.hostShut = false := by
  simp [State.hostShut, h.1]

/-- Settles O4. -/
theorem hostCycleRefused : Obligations.HostCycleRefused := by
  intro c s hw
  refine ⟨fun hshut => ?_, fun hroom => ?_⟩
  · rw [exec_hostCycle hw, arriveHost, if_pos hshut]
    rfl
  have hs := hroom.hostShut
  refine ⟨fun hp => ?_, fun hp hsize => ?_, fun hp hsize hwrite => ?_⟩
  · exact answersFault_of hroom (by rw [exec_hostCycle hw, arriveHost_badAddress hs hp]; rfl)
  · exact answersFault_of hroom (by rw [exec_hostCycle hw, arriveHost_nonexistent hs hp hsize]; rfl)
  have harrive : exec (.hostCycle c) s = .next (grant (writeCheck c s)) := by
    rw [exec_hostCycle hw, arriveHost_write hs hp hsize hwrite]
  refine ⟨fun hl => ?_, fun hl ht => ?_, fun hl ht => ⟨fun ho => ?_, fun ho n hn hlow => ?_⟩⟩
  · exact answersFault_of hroom (by rw [harrive, writeCheck, if_pos hl]; rfl)
  · exact answersFault_of hroom (by rw [harrive, writeCheck, if_neg (not_not.mpr hl), if_pos ht]; rfl)
  · refine answersFault_of hroom ?_
    rw [harrive, writeCheck, if_neg (not_not.mpr hl), if_neg (ne_true_of_eq_false ht), if_pos ho]
    rfl
  · have hguard : exec (.hostCycle c) s = .next (grant (guardCheck c s)) := by
      rw [harrive, writeCheck, if_neg (not_not.mpr hl), if_neg (ne_true_of_eq_false ht),
        if_neg (ne_true_of_eq_false ho)]
    have hfor := guardFor_eq_some hn hlow
    refine ⟨fun hmode => ?_, fun hmode => ?_⟩
    · refine answersFault_of hroom ?_
      simp only [hguard, guardCheck, hfor, hmode, if_true]
      rfl
    · refine answersFault_of hroom ?_
      simp only [hguard, guardCheck, hfor, hmode, reduceCtorEq, if_false]
      rfl

/-! ### Host cycles on the port -/

theorem exec_hostRead {s : State} {c : HostCycle} {cut : Bool} (hp : s.mem.port = some (.host c cut))
    (hc : c.write = false) : exec .hostReadServed s = .next (grant (serveRead c cut s)) := by
  show execHostReadServed s = _
  simp only [execHostReadServed, hp, hc, Bool.false_eq_true, if_false]
  rfl

theorem exec_hostWrite {s : State} {c : HostCycle} {cut : Bool} (hp : s.mem.port = some (.host c cut))
    (hc : c.write = true) : exec .hostWriteServed s = .next (grant (serveWrite c cut s)) := by
  show execHostWriteServed s = _
  simp only [execHostWriteServed, hp, hc, if_true]
  rfl

/-- Settles O5. -/
theorem hostReadServed : Obligations.HostReadServed := by
  refine ⟨fun c s hc => ⟨fun hp hr => ?_, fun hp hr hroom => ?_, fun hp => ?_⟩, fun r => ?_⟩
  · rw [exec_hostRead hp hc, serveRead]
    simp only [hr, Bool.false_eq_true, if_false, if_true]
    rfl
  · refine answersFault_of hroom ?_
    rw [exec_hostRead hp hc, serveRead]
    simp only [hr, Bool.false_eq_true, if_false]
    rfl
  · rw [exec_hostRead hp hc, serveRead]
    rfl
  · obtain ⟨hlow, hup, hle⟩ := lanesCode_bits (!upperGood r) (!lowerGood r)
    refine ⟨?_, ?_, ?_, hle⟩
    · rw [wordGood, Bool.and_eq_true, and_comm]
      exact and_congr (lowerParity_iff _ _) (upperParity_iff _ _)
    · rw [badLanes_eq, hlow, Bool.not_eq_true', ← Bool.not_eq_true]
      exact not_congr (lowerParity_iff _ _)
    · rw [badLanes_eq, hup, Bool.not_eq_true', ← Bool.not_eq_true]
      exact not_congr (upperParity_iff _ _)

theorem upperByte_append (hi lo : Byte) : upperByte (hi ++ lo) = hi := by
  have h (i : Nat) : (hi ++ lo : BitVec (8 + 8)).getLsbD (8 + i) = hi.getLsbD i := by
    rw [BitVec.getLsbD_append]
    simp
  unfold upperByte
  ext i hlt
  simpa [BitVec.getLsbD_eq_getElem hlt] using h i

theorem lowerByte_append (hi lo : Byte) : lowerByte (hi ++ lo) = lo := by
  have h (i : Nat) (hlt : i < 8) : (hi ++ lo : BitVec (8 + 8)).getLsbD i = lo.getLsbD i := by
    rw [BitVec.getLsbD_append]
    simp [hlt]
  unfold lowerByte
  ext i hlt
  simpa [BitVec.getLsbD_eq_getElem hlt] using h i hlt

/-- The word of a write by its bytes: a strobed byte is the write's, another the stored one (R6). -/
theorem mergeLanes_bytes (c : HostCycle) (old : Word) :
    upperByte (mergeLanes c old) = (if c.upper then upperByte c.data else upperByte old) ∧
    lowerByte (mergeLanes c old) = if c.lower then lowerByte c.data else lowerByte old :=
  ⟨upperByte_append _ _, lowerByte_append _ _⟩

theorem takenOffset_iff (off : Nat) : takenOffset off = true ↔ off ≤ 6 ∨ off = 0x10 ∨ off = 0x11 ∨ off = 0x12 := by
  simp [takenOffset, or_assoc]

theorem indexInForce_iff (s : State) : s.indexInForce = true ↔
    (∃ d, s.load = .phase2 d) ∨ (s.load = .idle ∧ s.ctl.partState = .running) := by
  unfold State.indexInForce
  cases s.load <;> simp

theorem keptBadLanes_bits (c : HostCycle) (r : RamWord) :
    (c.keptBadLanes r % 2 = 1 ↔ c.lower = false ∧ ¬ OddByte r.word 0 r.lowerParity) ∧
      (c.keptBadLanes r / 2 = 1 ↔ c.upper = false ∧ ¬ OddByte r.word 8 r.upperParity) ∧ c.keptBadLanes r ≤ 3 := by
  obtain ⟨hlow, hup, hle⟩ := lanesCode_bits (!c.upper && !upperGood r) (!c.lower && !lowerGood r)
  refine ⟨hlow.trans ?_, hup.trans ?_, hle⟩
  · rw [Bool.and_eq_true, Bool.not_eq_true', Bool.not_eq_true', ← Bool.not_eq_true (lowerGood r)]
    exact and_congr Iff.rfl (not_congr (lowerParity_iff _ _))
  · rw [Bool.and_eq_true, Bool.not_eq_true', Bool.not_eq_true', ← Bool.not_eq_true (upperGood r)]
    exact and_congr Iff.rfl (not_congr (upperParity_iff _ _))

section
variable {s : State} {a : Nat} {w : Word}

theorem handOver_reset (hr : s.rst.inReset = true) : handOver a w s = s := by
  rw [handOver, if_pos hr]

/-- A word of the Control Area is handed to the Control Unit when the host may write it (R21). -/
theorem handOver_control (hr : s.rst.inReset = false) {off : Nat} (ho : controlOffset s.mem.installed a = some off) :
    handOver a w s =
      if off ≤ 6 ∨ off = 0x10 ∨ off = 0x11 ∨ off = 0x12 then { s with handed := s.handed ++ [.control off w] } else s := by
  rw [handOver, if_neg (ne_true_of_eq_false hr)]
  simp only [ho, takenOffset_iff]

/-- A word of a record in force is handed to the Capture Unit (R44). -/
theorem handOver_record (hr : s.rst.inReset = false) (ho : controlOffset s.mem.installed a = none)
    (hi : s.indexInForce = true) {i n : Nat} (hrec : s.tbl.recordOf a = some (i, n)) :
    handOver a w s = { s with handed := s.handed ++ [.capture i n w] } := by
  rw [handOver, if_neg (ne_true_of_eq_false hr)]
  simp only [ho, hi, if_true, hrec]

theorem handOver_elsewhere (hr : s.rst.inReset = false) (ho : controlOffset s.mem.installed a = none)
    (h : s.indexInForce = false ∨ s.tbl.recordOf a = none) : handOver a w s = s := by
  rw [handOver, if_neg (ne_true_of_eq_false hr)]
  simp only [ho]
  rcases h with h | h
  · simp [h]
  · simp [h]

end

/-- A write that keeps no byte of bad parity is made, and handed over unless a reset cut it (R6, R18). -/
theorem serveWrite_made {c : HostCycle} {s : State} (h : c.keptBadLanes (s.mem.ram.read c.addr.toNat) = 0) (cut : Bool) :
    serveWrite c cut s =
      if cut then
        endHost .berr none (writeRam c.addr.toNat (mergeLanes c (s.mem.ram.read c.addr.toNat).word) (freePort s))
      else
        handOver c.addr.toNat (mergeLanes c (s.mem.ram.read c.addr.toNat).word)
          (endHost .ack none (writeRam c.addr.toNat (mergeLanes c (s.mem.ram.read c.addr.toNat).word) (freePort s))) := by
  rw [serveWrite, if_neg (not_not.mpr h)]

theorem serveWrite_unmade {c : HostCycle} {s : State} (h : c.keptBadLanes (s.mem.ram.read c.addr.toNat) ≠ 0)
    (cut : Bool) :
    serveWrite c cut s =
      if cut then endHost .berr none (freePort s)
      else
        postFault .memoryParity (.address c.addr.toNat)
          [(s.mem.ram.read c.addr.toNat).word.toNat, c.keptBadLanes (s.mem.ram.read c.addr.toNat), 1]
          (endHost .berr none (freePort s)) := by
  rw [serveWrite, if_pos h]

/-- Settles O6. -/
theorem hostWriteServed : Obligations.HostWriteServed := by
  refine ⟨fun c s hc => ?_, keptBadLanes_bits, fun w => ⟨rfl, wordGood_freshWord w⟩, controlOffset_iff,
    indexInForce_iff⟩
  intro a r w made unmade bad
  refine ⟨fun hp hbad => ?_, fun hp hbad hroom => ?_, fun hp => ?_, (mergeLanes_bytes c _).1, (mergeLanes_bytes c _).2,
    fun hm e b => ?_⟩
  · have hserve : exec .hostWriteServed s = .next (grant (handOver a w (made .ack))) := by
      have hmade : endHost .ack none (writeRam a w (freePort s)) = made .ack := rfl
      rw [exec_hostWrite hp hc, serveWrite_made hbad, if_neg Bool.false_ne_true, hmade]
    refine ⟨fun hr => ?_, fun hr => ⟨fun off ho => ?_, fun ho => ⟨fun i n hi hrec => ?_, fun h => ?_⟩⟩⟩
    · rw [hserve, handOver_reset (s := made .ack) hr]
    · rw [hserve, handOver_control (s := made .ack) hr ho]
    · rw [hserve, handOver_record (s := made .ack) hr ho hi hrec]
    · rw [hserve, handOver_elsewhere (s := made .ack) hr ho h]
  · refine answersFault_of hroom ?_
    rw [exec_hostWrite hp hc, serveWrite_unmade hbad, if_neg Bool.false_ne_true]
    rfl
  · rw [exec_hostWrite hp hc]
    by_cases hbad : bad = 0
    · rw [serveWrite_made hbad, if_pos rfl, if_pos hbad]
      rfl
    · rw [serveWrite_unmade hbad, if_pos rfl, if_neg hbad]
      rfl
  · by_cases hb : b = c.addr.toNat
    · rw [if_pos hb, hb]
      exact Ram.read_write_same _ _ _ hm
    · rw [if_neg hb]
      exact Ram.read_write_other _ _ _ _ hb

/-! ### Refresh, the time base and the arbiter -/

/-- Settles O7. -/
theorem timersCount : Obligations.TimersCount := by
  refine fun s => ⟨rfl, ?_, fun t => ?_, fun hr => ?_, fun hp => ?_⟩
  · have := s.ctl.timeBase.isLt
    rw [BitVec.toNat_add]
    split <;> simp <;> omega
  · have := s.ctl.timeBase.isLt
    have := t.isLt
    rw [since, BitVec.toNat_sub]
    omega
  · have h : exec .refreshRequest s = answer (if s.mem.refresh.running then _ else s) := rfl
    rw [h, if_pos hr]
    rfl
  · have hrow : nextRow s.mem.refresh.nextRow =
        if s.mem.refresh.nextRow < Config.refreshRowsLessOne then s.mem.refresh.nextRow + 1 else 0 := by
      unfold nextRow
      split <;> split <;> omega
    show execRefreshCycle s = _
    simp only [execRefreshCycle, hp, ← hrow]
    rfl

theorem grant_free {s : State} (hp : s.mem.port = none) {g : Grant} (hg : s.arbiterChoice = some g) :
    grant s = { s with mem := s.mem.give g } := by
  unfold grant
  simp only [hp, hg]

theorem grant_idle {s : State} (hg : s.arbiterChoice = none) : grant s = s := by
  unfold grant
  simp only [hg]
  split <;> rfl

theorem oldestPart_none {s : State} (h : s.rst.inputHeld = true ∨ s.mem.parts = []) : s.oldestPart = none := by
  unfold State.oldestPart
  rcases h with h | h
  · rw [if_pos h]
  · rw [h]
    split <;> rfl

theorem oldestPart_some {s : State} (h : s.rst.inputHeld = false) {p : PartCycle} {rest : List PartCycle}
    (hp : s.mem.parts = p :: rest) : s.oldestPart = some (p, rest) := by
  rw [State.oldestPart, if_neg (ne_true_of_eq_false h), hp]

/-- Settles O8. -/
theorem arbiterOrder : Obligations.ArbiterOrder := by
  intro s hport
  have granted (g : Grant) (hg : s.arbiterChoice = some g) : grant s = { s with mem := s.mem.give g } := grant_free hport hg
  refine ⟨fun hlow => ?_, fun hlow h8 => ?_, fun hlow h8 => ⟨fun hparts => ?_, fun hheld p rest hparts => ?_⟩⟩
  · exact grant_idle (by simp [State.arbiterChoice, hlow])
  · exact granted .refresh (by simp [State.arbiterChoice, hlow, h8])
  · have hold := oldestPart_none hparts
    refine ⟨fun c hc => granted (.host c) ?_, fun hc hpost => granted .refresh ?_, fun hc hpost => grant_idle ?_⟩
    · simp [State.arbiterChoice, hlow, Nat.not_le.mpr h8, hold, hc]
    · simp [State.arbiterChoice, hlow, Nat.not_le.mpr h8, hold, hc, hpost]
    · simp [State.arbiterChoice, hlow, hold, hc, hpost]
  · have hold := oldestPart_some hheld hparts
    refine ⟨fun h16 => granted (.part p rest) ?_, fun h16 => ⟨fun c hc => granted (.host c) ?_, fun hc hpost => granted .refresh ?_,
      fun hc hpost => granted (.part p rest) ?_⟩⟩
    · simp [State.arbiterChoice, hlow, Nat.not_le.mpr h8, hold, h16]
    · simp [State.arbiterChoice, hlow, Nat.not_le.mpr h8, hold, Nat.not_le.mpr h16, hc]
    · simp [State.arbiterChoice, hlow, Nat.not_le.mpr h8, hold, Nat.not_le.mpr h16, hc, hpost]
    · simp [State.arbiterChoice, hlow, hold, Nat.not_le.mpr h16, hc, hpost]

/-! ### The invariants at reset -/

theorem Link.cleared_targetsLawful : Link.cleared.TargetsLawful := by
  have hkind : ∀ p : Fin 16, Link.cleared.positions[p].kind ≠ .home := by decide
  exact ⟨fun m _ _ hm => absurd hm (hkind m), fun m _ hm => absurd hm (hkind m)⟩

theorem Line.off_lawful : Line.off.Lawful := by
  constructor <;> simp [Line.off, pageCount, ackCount]

/-- Settles O60. -/
theorem invariantsAtReset : Obligations.InvariantsAtReset := by
  have hlinks : ∀ k : Fin 8, State.reset.links[k] = Link.cleared := by
    intro k
    simp [State.reset]
  have hlines : ∀ n : Fin 16, State.reset.lines[n] = Line.off := by
    intro n
    simp [State.reset]
  refine ⟨reset_ram_wf, ?_, ?_, ?_, ?_, fun k => ?_, ?_⟩
  · constructor <;> decide
  · constructor <;> decide
  · constructor <;> simp [State.reset, InstrumentTable.empty, TickerUnit.reset]
  · constructor <;> simp [State.reset, InstrumentTable.empty, State.instrument?]
  · rw [hlinks k]
    exact Link.cleared_targetsLawful
  · refine ⟨fun n => ?_, fun n i r hi => ?_, fun n i hi => ?_, fun d hd => by cases hd⟩
    · rw [hlines n]
      exact Line.off_lawful
    · cases hi
    · rw [hlines n] at hi
      cases hi

end Sys2Proof.Machine
end


section
/-! Write-backs, lost faults, and the resets (chapters 1 and 2). -/

namespace Sys2Proof.Machine

open Sys2Proof

/-! ### The write-back queue -/

/-- No write-back waits or is on the port where none stands in the queue and the port holds none. -/
theorem outstanding_eq_false {s : State} {src : PartSource} (hparts : ∀ q ∈ s.mem.parts, q.source ≠ src)
    (hport : s.mem.port = none) : s.outstanding (· == src) = false := by
  unfold State.outstanding
  simp only [hport, Bool.or_false, List.any_eq_false, beq_iff_eq]
  exact hparts

theorem pumpWriteBack_empty {s : State} (h : s.ctl.writeBack.queue = []) : pumpWriteBack s = s := by
  unfold pumpWriteBack
  rw [h]
  split <;> simp_all

/-- The head of the queue is taken up when nothing is being written and no write-back stands at the port (R29). -/
theorem pumpWriteBack_takes {s : State} {e : WbEntry} {rest : List WbEntry} (ha : s.ctl.writeBack.active = none)
    (hq : s.ctl.writeBack.queue = e :: rest) (ho : s.outstanding (· == .writeBack) = false) :
    pumpWriteBack s = placeWriteBack e 0 { s with ctl := { s.ctl with writeBack := ⟨some (e, 0), rest⟩ } } := by
  unfold pumpWriteBack
  simp only [ha, hq, ho, Bool.false_eq_true, if_false]

/-- While an entry is being written, or a write-back stands at the port, nothing is taken up (R16, R29). -/
theorem pumpWriteBack_waits {s : State}
    (h : s.ctl.writeBack.active.isSome = true ∨ s.outstanding (· == .writeBack) = true) : pumpWriteBack s = s := by
  unfold pumpWriteBack
  split
  · rename_i ha hq
    rcases h with h | h
    · simp [ha] at h
    · rw [if_pos h]
  · rfl

theorem posted_pump {w : TableWord} {s : State} (h : s.Posted w) : (pumpWriteBack s).Posted w := by
  have h' : (pumpWriteBack s).Queued (.table w (s.tableWords w)) := queued_pump h
  rwa [← (pumpWriteBack_onlyPosts s).tableWords w] at h'

/-- Changing a line in what its table word does not show changes no table word. -/
theorem tableWords_setLines {s : State} {n : Fin 16} {l : Line} (hl : l.tableWord = s.lines[n].tableWord)
    (w : TableWord) : { s with lines := s.lines.set n l }.tableWords w = s.tableWords w := by
  cases w with
  | lineWord m =>
    by_cases hm : m = n
    · subst hm
      simp [State.tableWords, hl]
    · have hne : n.val ≠ m.val := fun h => hm (Fin.ext h.symm)
      simp [State.tableWords, Vector.getElem_set_ne _ _ hne]
  | _ => rfl

/-- A line after a report that a message's slot has been written (R175). -/
def Line.reported (l : Line) (seq : Byte) : Line :=
  { l with awaited := l.awaited.erase seq, out := l.out ++ [.ack seq] }

/-- A message's slot has been written: its line no longer awaits it, and queues its acknowledgement (R175). -/
theorem reportWritten_onlyPosts {a b : State} (h : OnlyPosts a b) (n : Fin 16) (seq : Byte) :
    OnlyPosts
      { a with
        lines :=
          if a.lines[n].awaited.contains seq then a.lines.set n (a.lines[n].reported seq) else a.lines }
      (reportWritten n seq b) := by
  have hline : b.lines[n] = a.lines[n] := by rw [h.eq]
  unfold reportWritten
  rw [hline]
  by_cases hc : a.lines[n].awaited.contains seq = true
  · rw [if_pos hc, if_pos hc]
    refine OnlyPosts.trans ?_ (setLine_onlyPosts n (a.lines[n].reported seq) b)
    refine h.map (fun u => { u with lines := u.lines.set n (a.lines[n].reported seq) }) (fun _ _ => rfl) (fun w _ => ?_)
    refine tableWords_setLines ?_ w
    rw [hline]
    rfl
  · rw [if_neg hc, if_neg hc]
    exact h

theorem reportWritten_posted {u : TableWord} {s : State} (h : s.Posted u) (n : Fin 16) (seq : Byte)
    (hu : ∀ m, u ≠ .lineWord m) : (reportWritten n seq s).Posted u := by
  unfold reportWritten
  dsimp only
  split
  · refine posted_postChanged ?_ _
    cases u with
    | lineWord m => exact absurd rfl (hu m)
    | _ => exact h
  · exact h

theorem exec_writeBack {s : State} {p : PartCycle} {cut : Bool} {w : Word} (hport : s.mem.port = some (.part p cut))
    (hs : p.source = .writeBack) (hw : p.write = some w) :
    exec .writeBackWritten s =
      .next (grant (if cut then pumpWriteBack (freePort (writeRam p.addr w s))
        else writeBackNext (freePort (writeRam p.addr w s)))) := by
  show execWriteBackWritten s = _
  unfold execWriteBackWritten
  simp only [hport, hs, hw]
  rfl

/-- Settles O10. -/
theorem writeBackServed : Obligations.WriteBackServed := by
  intro p w s hsrc hw made setWB
  refine ⟨fun hport => ?_, fun hport => ?_⟩
  · have hnext : exec .writeBackWritten s = .next (grant (writeBackNext made)) := by
      rw [exec_writeBack hport hsrc hw]
      rfl
    refine ⟨fun e n ha hn => ?_, fun e n ha hn hparts => ?_⟩
    · rw [hnext, writeBackNext]
      have hactive : made.ctl.writeBack.active = some (e, n) := ha
      simp only [hactive, hn, if_true]
      rfl
    intro done
    have hdone : writeBackNext made = pumpWriteBack (completeEntry e done) := by
      have hactive : made.ctl.writeBack.active = some (e, n) := ha
      simp only [writeBackNext, hactive, Nat.not_lt.mpr hn, if_false]
      rfl
    rw [hnext, hdone]
    refine ⟨fun t ws he hq => ?_, fun t ws d rest he hq => ?_, fun slot ws he => ?_, fun slot line seq ws he => ?_⟩
    · subst he
      rw [completeEntry, pumpWriteBack_empty (s := done) hq]
    · subst he
      rw [completeEntry, pumpWriteBack_takes (s := done) rfl hq (outstanding_eq_false hparts rfl),
        placeWriteBack, Nat.add_zero]
      rfl
    · subst he
      exact ⟨_, rfl, posted_pump (post_posted _ _), (post_onlyPosts _ _).trans (pumpWriteBack_onlyPosts _)⟩
    · subst he
      refine ⟨_, rfl, posted_pump (reportWritten_posted (post_posted _ _) line seq (by simp)), ?_⟩
      have hinbox := post_onlyPosts .inboxStatus
        { done with
          ctl := { done.ctl with inbox := { s.ctl.inbox with writeIndex := s.ctl.inbox.writeIndex + 1 } } }
      exact (reportWritten_onlyPosts hinbox line seq).trans (pumpWriteBack_onlyPosts _)
  · exact ⟨_, exec_writeBack hport hsrc hw, pumpWriteBack_onlyPosts _⟩

/-! ### Faults -/

theorem postFault_full {k : FaultKind} {subj : Subject} {d : List Nat} {s : State} (hr : s.rst.inReset = false)
    (hfull : s.ctl.log.nextSlot + 1 = s.ctl.log.readIndex) :
    postFault k subj d s =
      if s.ctl.log.overflowMark then setLog { s.ctl.log with overflowMark := true, overflowCarry := true } s
      else post .faultStatus (setLog { s.ctl.log with overflowMark := true, overflowCarry := true } s) := by
  simp only [postFault, hr, hfull, Bool.false_eq_true, if_false, if_true]

theorem Subject.type_le (subj : Subject) : subj.parts.1 ≤ 5 := by
  cases subj <;> simp [Subject.parts]

/-- Word 0 of a record holds the kind, the subject type and the overflow bit, and no bit runs into another field
(para 10.3). -/
theorem faultHead_toNat (k : FaultKind) (subj : Subject) (carry : Bool) :
    (BitVec.ofNat 16 (k.code + 256 * subj.parts.1 + bitOf carry 15)).toNat =
      k.code + 256 * subj.parts.1 + 32768 * flagBit carry := by
  have hk : k.code ≤ 23 := by cases k <;> decide
  have hs := subj.type_le
  have hc : bitOf carry 15 = 32768 * flagBit carry ∧ flagBit carry ≤ 1 := by cases carry <;> decide
  obtain ⟨hbit, hle⟩ := hc
  rw [BitVec.toNat_ofNat, hbit]
  omega

theorem faultHead_bit15 (k : FaultKind) (subj : Subject) (carry : Bool) :
    (BitVec.ofNat 16 (k.code + 256 * subj.parts.1 + bitOf carry 15)).getLsbD 15 = carry := by
  have hk : k.code ≤ 23 := by cases k <;> decide
  have hs := subj.type_le
  have h := faultHead_toNat k subj carry
  rw [BitVec.getLsbD, h, Nat.testBit_eq_decide_div_mod_eq]
  cases carry
  · simp only [flagBit]
    simp
    omega
  · simp only [flagBit]
    simp
    omega

/-- A number of 32 bits is read back from its two words. -/
theorem highLow_value (v : Nat) :
    ((BitVec.ofNat 16 (v / 65536)).toNat * 65536 + (BitVec.ofNat 16 v).toNat) = v % 4294967296 := by
  rw [BitVec.toNat_ofNat, BitVec.toNat_ofNat]
  omega

/-- Settles O12. -/
theorem fullRingLosesFault : Obligations.FullRingLosesFault := by
  refine ⟨fun k subj d s hr => ⟨fun hfull => ?_, fun hroom => ?_⟩, fun k carry time subj d => ?_, fun n => ?_, by decide,
    by decide⟩
  · intro lost
    have hlost := postFault_full (k := k) (subj := subj) (d := d) hr hfull
    refine ⟨fun hm => by rw [hlost, if_pos hm]; rfl, fun hm => ?_⟩
    rw [hlost, if_neg (ne_true_of_eq_false hm)]
    exact ⟨post_onlyPosts _ _, post_posted _ _⟩
  · obtain ⟨hposts, hqueued⟩ := postFault_room (k := k) (subj := subj) (d := d) ⟨hr, hroom⟩
    exact ⟨_, _, hqueued, faultHead_toNat k subj _, faultHead_bit15 k subj _, by rw [hposts.eq]; rfl, hposts⟩
  · refine ⟨rfl, faultHead_toNat k subj carry, ?_, highLow_value _, fun j hj => ?_, fun j hj => ?_⟩
    · rw [← Nat.mod_eq_of_lt time.isLt]
      exact highLow_value _
    · interval_cases j <;> exact highLow_value _
    · by_cases h16 : j < 16
      · interval_cases j <;> rfl
      · rw [numAt, List.getD_eq_default]
        · rfl
        · exact Nat.not_lt.mp h16
  · exact ⟨rfl, rfl, rfl, rfl, rfl, rfl⟩

end Sys2Proof.Machine
end


section
/-! The beginnings and the end of resets, the supply's return and the clearing (chapter 1). -/

namespace Sys2Proof.Machine

open Sys2Proof

/-! ### What a grant leaves -/

theorem grant_waiting_none {s : State} (h : s.mem.waiting = none) : (grant s).mem.waiting = none := by
  unfold grant
  split
  · exact h
  · split
    · exact h
    · rename_i g _
      cases g with
      | host c => rfl
      | refresh => exact h
      | part p rest => exact h

theorem grant_parts_nil {s : State} (h : s.mem.parts = []) : (grant s).mem.parts = [] := by
  unfold grant
  split
  · exact h
  · split
    · exact h
    · rename_i g hg
      cases g with
      | part p rest =>
        have := arbiterChoice_part hg
        simp [h] at this
      | _ => simp [MemoryPath.give, h]

@[simp] theorem grant_tableWords (s : State) (w : TableWord) : (grant s).tableWords w = s.tableWords w := by
  rw [grant_eq]
  cases w <;> rfl

theorem posted_grant {s : State} {w : TableWord} (h : s.Posted w) : (grant s).Posted w := by
  unfold State.Posted at h ⊢
  rwa [grant_tableWords, grant_ctl]

/-! ### The beginning of a reset -/

theorem ResetBegun.grant {s t : State} (h : ResetBegun s t) : ResetBegun s (grant t) where
  inReset := by rw [grant_rst]; exact h.inReset
  handed := by rw [grant_handed]; exact h.handed
  waiting := grant_waiting_none h.waiting
  ended := by rw [grant_bus]; exact h.ended
  guards := by rw [grant_guards]; exact h.guards
  guardLock := by rw [grant_guardLock]; exact h.guardLock
  trap := by rw [grant_trap]; exact h.trap
  installed := by rw [grant_installed]; exact h.installed
  ctl := by rw [grant_ctl]; exact h.ctl
  tbl := by rw [grant_tbl]; exact h.tbl
  load := by rw [grant_load]; exact h.load
  cap := by rw [grant_cap]; exact h.cap
  links := by rw [grant_links]; exact h.links
  flashTime := by rw [grant_flashTime]; exact h.flashTime
  drive := by rw [grant_drive]; exact h.drive
  tape := by rw [grant_tape]; exact h.tape
  lines := by rw [grant_lines]; exact h.lines
  service := by rw [grant_service]; exact h.service
  pending := by rw [grant_pending]; exact h.pending

/-- The beginning that all resets share, whatever the reset then does to the RAM, refresh, the part cycles, the cycle
on the port, the causes and its own flags, and however a cycle on the port has been ended. -/
theorem resetBegun_of (s : State) (bus : Option BusReply) (port : Option PortCycle) (ram : Ram) (refresh : Refresh)
    (parts : List PartCycle) (causes : ResetCauses) (rst : ResetState) (h : rst.inReset = true) :
    let u := beginReset port { s with mem := { s.mem with bus := bus } }
    ResetBegun s
      { u with
        mem := { u.mem with ram := ram, refresh := refresh, parts := parts }
        ctl := { u.ctl with causes := causes }
        rst := rst } := by
  intro u
  constructor
  case inReset => exact h
  case ended =>
    intro hw
    show (if s.mem.waiting.isSome then _ else _) = _
    rw [if_pos hw]
  case links =>
    intro k
    simp [u, beginReset, Link.resetBegun]
  case lines =>
    intro n
    simp [u, beginReset]
  all_goals rfl

/-- A host cycle on the port is ended with BERR as it is abandoned. -/
theorem abandonHost_bus {s : State} {c : HostCycle} {b : Bool} (h : s.mem.port = some (.host c b)) :
    abandonHost s = { s with mem := { s.mem with bus := some ⟨.berr, none⟩ } } := by
  unfold abandonHost
  rw [h]
  rfl

theorem Ram.read_lose (r : Ram) (n a : Nat) : (r.lose n).read a = Config.ramContents (r.era + 1) a := by
  simp [Ram.lose, Ram.read, cellsGet, Ram.unlisted, Ram.cleared]

/-- Settles O13. -/
theorem resetBegins : Obligations.ResetBegins := by
  intro s
  refine ⟨fun hheld => ?_, fun p => ?_, fun hlow => ?_⟩
  · have hexec : exec .externalReset s = .next (grant (beginExternal s)) := by
      show answer (if s.rst.inputHeld then s else beginExternal s) = _
      rw [if_neg (ne_true_of_eq_false hheld)]
      rfl
    have hport {q : PortCycle} (hq : (beginExternal s).mem.port = some q) :
        (grant (beginExternal s)).mem.port = some q := by
      rw [grant_busy _ (by rw [hq]; rfl), hq]
    have hcut : (beginExternal s).mem.port = cutPort s.mem.port := rfl
    have hbegun : ResetBegun s (beginExternal s) :=
      resetBegun_of s s.mem.bus (cutPort s.mem.port) s.mem.ram s.mem.refresh [] { s.ctl.causes with external := true }
        { s.rst with inReset := true, inputHeld := true } rfl
    refine ⟨_, hexec, hbegun.grant, grant_rst _, grant_parts_nil rfl, congrArg ControlUnit.causes (grant_ctl _),
      grant_ram _, grant_refresh _, fun hw => ?_, fun c b hc => hport ?_, fun q b hq => hport ?_, fun hr => hport ?_⟩
    · rw [grant_bus]
      show (if s.mem.waiting.isSome then _ else _) = _
      rw [hw]
      rfl
    · rw [hcut, hc]; rfl
    · rw [hcut, hq]; rfl
    · rw [hcut, hr]; rfl
  · obtain ⟨bus, hbus⟩ := abandonHost_eq s
    let base := controlBase (sizeOfStraps p) + 0x20
    have hbegin : beginPowerOn p s =
        { beginReset none (abandonHost s) with
          mem :=
            { (beginReset none (abandonHost s)).mem with
              ram := s.mem.ram.lose base
              refresh := s.mem.refresh.restart
              parts := [⟨.regionClear, base + 0, some 0, 0⟩] }
          ctl := { (beginReset none (abandonHost s)).ctl with causes := ⟨true, false, false⟩ }
          rst := { s.rst with inReset := true, supplyLow := false, powerOrSupply := true, clearingDue := true } } := by
      rw [beginPowerOn, hbus]
      rfl
    have hbegun : ResetBegun s (beginPowerOn p s) := by
      rw [hbegin, hbus]
      exact resetBegun_of s bus none _ _ _ _ _ rfl
    refine ⟨_, rfl, hbegun.grant, ?_, ?_, fun a => ?_, ?_, fun c b hc => ?_, fun hheld => ?_⟩
    · rw [grant_rst, hbegin]
    · rw [grant_ctl, hbegin]
    · rw [grant_ram, hbegin]
      exact Ram.read_lose _ _ _
    · rw [grant_refresh, hbegin]
      rfl
    · rw [grant_bus, hbegin, abandonHost_bus hc]
      show (if s.mem.waiting.isSome then _ else _) = _
      split <;> rfl
    · have hgrant : (beginPowerOn p s).arbiterChoice = some (.part ⟨.regionClear, base, some 0, 0⟩ []) := by
        rw [hbegin, hbus]
        simp [State.arbiterChoice, State.oldestPart, hheld, Refresh.restart, beginReset, MemoryPath.beginReset]
      rw [grant_free (by rw [hbegin]; rfl) hgrant]
      exact ⟨rfl, rfl⟩
  · obtain ⟨bus, hbus⟩ := abandonHost_eq s
    have hexec : exec .supplyLowReset s = .next (beginSupplyLow s) := by
      show answer (if s.rst.supplyLow then s else beginSupplyLow s) = _
      rw [if_neg (ne_true_of_eq_false hlow), answer_eq, grant_idle]
      simp [State.arbiterChoice, beginSupplyLow, setCauses]
    have hbegin : beginSupplyLow s =
        { beginReset none (abandonHost s) with
          mem :=
            { (beginReset none (abandonHost s)).mem with
              ram := s.mem.ram.lose s.mem.ram.clearedFrom
              refresh := { s.mem.refresh with running := false }
              parts := [] }
          ctl := { (beginReset none (abandonHost s)).ctl with causes := { s.ctl.causes with supply := true } }
          rst := { s.rst with inReset := true, supplyLow := true, powerOrSupply := true, clearingDue := false } } := by
      rw [beginSupplyLow, hbus]
      rfl
    refine ⟨_, hexec, ?_, ?_, ?_, fun a => ?_, ?_, ?_, ?_, fun c b hc => ?_⟩
    · rw [hbegin, hbus]
      exact resetBegun_of s bus none _ _ _ _ _ rfl
    · rw [hbegin]
    · rw [hbegin]
    · rw [hbegin]
      exact Ram.read_lose _ _ _
    · rw [hbegin]
    · rw [hbegin]; rfl
    · rw [hbegin]
    · rw [hbegin, abandonHost_bus hc]
      show (if s.mem.waiting.isSome then _ else _) = _
      split <;> rfl

/-! ### The clearing -/

theorem placeClear_idle {s : State} (h : s.rst.clearingDue = false ∨ s.outstanding (· == .regionClear) = true) :
    placeClear s = s := by
  unfold placeClear
  rcases h with h | h <;> simp [h]

theorem placeClear_places {s : State} (hd : s.rst.clearingDue = true) (ho : s.outstanding (· == .regionClear) = false) :
    placeClear s =
      { s with
        mem :=
          { s.mem with
            parts :=
              s.mem.parts ++ [⟨.regionClear, s.mem.ram.clearedFrom + s.mem.ram.clearedCount, some 0, 0⟩] } } := by
  unfold placeClear
  simp only [hd, ho, Bool.not_false, Bool.and_self, if_true]
  rfl

/-- The contents are lost, refresh restarts, and the first clearing write is placed. -/
theorem startClearing_places (p : Straps) {s : State} (ho : s.outstanding (· == .regionClear) = false) :
    startClearing p s =
      { s with
        rst := { s.rst with clearingDue := true }
        mem :=
          { s.mem with
            ram := s.mem.ram.lose (regionBase p)
            refresh := s.mem.refresh.restart
            parts := s.mem.parts ++ [⟨.regionClear, regionBase p, some 0, 0⟩] } } := by
  have hplace := placeClear_places
    (s :=
      { s with
        mem := { s.mem with ram := s.mem.ram.lose (regionBase p), refresh := s.mem.refresh.restart }
        rst := { s.rst with clearingDue := true } }) rfl ho
  rw [startClearing, hplace]
  simp only [Ram.lose, Nat.add_zero]

/-- Settles O14. -/
theorem resetInputsAndClearing : Obligations.ResetInputsAndClearing := by
  refine ⟨⟨rfl, rfl, rfl, rfl, fun _ => rfl⟩, fun p s => ?_, fun p b s hport hsrc hdue hparts => ?_⟩
  · intro released base
    have hexec (hheld : s.rst.inputHeld = true) :
        exec (.externalResetRelease p) s = .next (grant (placeClear released)) := by
      show answer (if s.rst.inputHeld then placeClear released else s) = _
      rw [if_pos hheld]
      rfl
    refine ⟨fun hheld h => ?_, fun hheld hdue ho => ?_, fun hlow ho => ?_⟩
    · rw [hexec hheld, placeClear_idle (s := released) h]
    · rw [hexec hheld, placeClear_places (s := released) hdue ho]
    · show answer (if s.rst.supplyLow then startClearing p { s with rst := { s.rst with supplyLow := false } } else s) = _
      rw [if_pos hlow, startClearing_places p (s := { s with rst := { s.rst with supplyLow := false } }) ho]
      rfl
  · intro a made
    have hexec : exec .regionClearWritten s = .next (grant (clearNext s)) := by
      show execRegionClearWritten s = _
      simp only [execRegionClearWritten, hport, hsrc, hdue, and_self, if_true]
      rfl
    have hclear : clearNext s =
        if 1888 ≤ s.mem.ram.clearedCount + 1 then { made with rst := { s.rst with clearingDue := false } }
        else placeClear made := rfl
    refine ⟨fun h => ?_, fun h => ?_, fun hm x => ?_⟩
    · rw [hexec, hclear, if_pos h]
    · have hplace : made.mem.ram.clearedFrom + made.mem.ram.clearedCount = a + 1 := rfl
      rw [hexec, hclear, if_neg (Nat.not_le.mpr h),
        placeClear_places (s := made) hdue (outstanding_eq_false hparts rfl), hplace]
    · exact Ram.read_clearNext s.mem.ram x hm

end Sys2Proof.Machine
end


section
/-! The order in which posted table words wait, and the end of a reset (chapter 2). -/

namespace Sys2Proof.Machine

open Sys2Proof

/-! ### The place of a posted value -/

/-- A value takes the place of the pending entry for its word. -/
theorem joinTable_replaces {t : TableWord} {ws ws' : List Word} {a b : List WbEntry} (ha : ∀ x, .table t x ∉ a) :
    joinTable t ws (a ++ .table t ws' :: b) = a ++ .table t ws :: b := by
  induction a with
  | nil => simp [joinTable]
  | cons e a ih =>
    have hrest := ih fun x hx => ha x (List.mem_cons_of_mem _ hx)
    cases e with
    | table u us =>
      have hu : u ≠ t := fun h => ha us (by rw [h]; exact List.mem_cons_self)
      simp [joinTable, hu, hrest]
    | faultRecord n w => simp [joinTable, hrest]
    | inboxSlot n l q w => simp [joinTable, hrest]

/-- A value for whose word none is pending joins the tail. -/
theorem joinTable_joins {t : TableWord} {ws : List Word} {q : List WbEntry} (hq : ∀ x, .table t x ∉ q) :
    joinTable t ws q = q ++ [.table t ws] := by
  induction q with
  | nil => rfl
  | cons e q ih =>
    have hrest := ih fun x hx => hq x (List.mem_cons_of_mem _ hx)
    cases e with
    | table u us =>
      have hu : u ≠ t := fun h => hq us (by rw [h]; exact List.mem_cons_self)
      simp [joinTable, hu, hrest]
    | faultRecord n w => simp [joinTable, hrest]
    | inboxSlot n l q w => simp [joinTable, hrest]

theorem joinTable_ne_nil (t : TableWord) (ws : List Word) (q : List WbEntry) : joinTable t ws q ≠ [] :=
  List.ne_nil_of_mem (joinTable_mem t ws q)

/-- A post while an entry is being written, or a write-back stands at the port, lets the value join and no more. -/
theorem post_waits {t : TableWord} {s : State}
    (h : s.ctl.writeBack.active.isSome = true ∨ s.outstanding (· == .writeBack) = true) :
    post t s = setWaiting (joinTable t (s.tableWords t) s.ctl.writeBack.queue) s :=
  pumpWriteBack_waits (s := setWaiting _ s) h

/-- The entry of a word's present value. -/
def State.entryOf (s : State) (w : TableWord) : WbEntry := .table w (s.tableWords w)

theorem setWaiting_tableWords (q : List WbEntry) (s : State) (w : TableWord) :
    (setWaiting q s).tableWords w = s.tableWords w := by
  cases w <;> rfl

/-- Words for which nothing is pending join the tail in their order. -/
theorem postAll_waits {ts : List TableWord} {s : State} (hts : ts.Nodup)
    (hq : ∀ t ∈ ts, ∀ x, .table t x ∉ s.ctl.writeBack.queue)
    (h : s.ctl.writeBack.active.isSome = true ∨ s.outstanding (· == .writeBack) = true) :
    postAll ts s = setWaiting (s.ctl.writeBack.queue ++ ts.map s.entryOf) s := by
  induction ts generalizing s with
  | nil => simp [postAll, setWaiting]
  | cons t ts ih =>
    obtain ⟨ht, hts⟩ := List.nodup_cons.mp hts
    have hpost : post t s = setWaiting (s.ctl.writeBack.queue ++ [s.entryOf t]) s := by
      rw [post_waits h, joinTable_joins (hq t List.mem_cons_self)]
      rfl
    have hentry : ts.map (setWaiting (s.ctl.writeBack.queue ++ [s.entryOf t]) s).entryOf = ts.map s.entryOf :=
      List.map_congr_left fun u _ => by rw [State.entryOf, setWaiting_tableWords]; rfl
    show postAll ts (post t s) = _
    have hpending : ∀ u ∈ ts, ∀ x, .table u x ∉ (setWaiting (s.ctl.writeBack.queue ++ [s.entryOf t]) s).ctl.writeBack.queue := by
      intro u hu x hx
      rcases List.mem_append.mp hx with hx | hx
      · exact hq u (List.mem_cons_of_mem _ hu) x hx
      · have hut : u = t := by
          simp only [State.entryOf, List.mem_singleton, WbEntry.table.injEq] at hx
          exact hx.1
        exact ht (hut ▸ hu)
    rw [hpost, ih (s := setWaiting _ s) hts hpending h, hentry]
    simp [setWaiting]

/-- From an empty queue, the first word is taken up unless a write-back from before stands at the port. -/
theorem postAll_fresh {t : TableWord} {ts : List TableWord} {s : State} (hts : (t :: ts).Nodup)
    (hwb : s.ctl.writeBack = ⟨none, []⟩) :
    (postAll (t :: ts) s).ctl.writeBack =
      if s.outstanding (· == .writeBack) = true then ⟨none, s.entryOf t :: ts.map s.entryOf⟩
      else ⟨some (s.entryOf t, 0), ts.map s.entryOf⟩ := by
  have hq : s.ctl.writeBack.queue = [] := by rw [hwb]
  have ha : s.ctl.writeBack.active = none := by rw [hwb]
  by_cases ho : s.outstanding (· == .writeBack) = true
  · rw [if_pos ho, postAll_waits hts (by simp [hq]) (.inr ho)]
    simp [setWaiting, hwb]
  · obtain ⟨-, hts⟩ := List.nodup_cons.mp hts
    have hpost : post t s =
        placeWriteBack (s.entryOf t) 0 { s with ctl := { s.ctl with writeBack := ⟨some (s.entryOf t, 0), []⟩ } } := by
      rw [post, hq]
      exact pumpWriteBack_takes (s := setWaiting [s.entryOf t] s) ha rfl (eq_false_of_ne_true ho)
    have hactive : (post t s).ctl.writeBack = ⟨some (s.entryOf t, 0), []⟩ := by
      rw [hpost]
      rfl
    have hentry : ts.map (post t s).entryOf = ts.map s.entryOf :=
      List.map_congr_left fun u _ => by rw [State.entryOf, (post_onlyPosts t s).tableWords u]; rfl
    show (postAll ts (post t s)).ctl.writeBack = _
    rw [if_neg ho, postAll_waits hts (by simp [hactive]) (.inl (by rw [hactive]; rfl)), hentry]
    simp [setWaiting, hactive]

/-! ### The end of a reset -/

theorem moduleTable_nodup : moduleTable.Nodup := by
  have h8 : all8.Nodup := by decide
  have h16 : all16.Nodup := by decide
  refine List.nodup_flatMap.mpr ⟨fun k _ => h16.map fun p q h => by cases h; rfl, h8.imp ?_⟩
  intro j k hjk w hj hk
  obtain ⟨p, -, rfl⟩ := List.mem_map.mp hj
  obtain ⟨q, -, hq⟩ := List.mem_map.mp hk
  cases hq
  exact hjk rfl

theorem lineTable_nodup : lineTable.Nodup := by
  have h16 : all16.Nodup := by decide
  exact h16.map fun p q h => by cases h; rfl

/-- The words behind the reset cause word, in their order (R30). -/
def otherPosts : List TableWord :=
  [.partState, .commandStatus, .refusal, .driveState, .limitReasons, .governorStage, .tickerState, .faultStatus,
    .inboxStatus] ++ moduleTable ++ lineTable

theorem resetPosts_eq : resetPosts = .resetCause :: otherPosts := rfl

theorem all16_eq : all16 = List.finRange 16 := by decide

theorem mem_moduleTable {w : TableWord} (h : w ∈ moduleTable) : ∃ k p, w = .moduleWord k p := by
  obtain ⟨k, -, hw⟩ := List.mem_flatMap.mp h
  obtain ⟨p, -, rfl⟩ := List.mem_map.mp hw
  exact ⟨k, p, rfl⟩

theorem mem_lineTable {w : TableWord} (h : w ∈ lineTable) : ∃ n, w = .lineWord n := by
  obtain ⟨n, -, rfl⟩ := List.mem_map.mp h
  exact ⟨n, rfl⟩

theorem resetPosts_nodup : resetPosts.Nodup := by
  have hstatus : ([.resetCause, .partState, .commandStatus, .refusal, .driveState, .limitReasons, .governorStage,
      .tickerState, .faultStatus, .inboxStatus] : List TableWord).Nodup := by decide
  have hmodule : ∀ u ∈ ([.resetCause, .partState, .commandStatus, .refusal, .driveState, .limitReasons,
      .governorStage, .tickerState, .faultStatus, .inboxStatus] : List TableWord), ∀ w ∈ moduleTable, u ≠ w := by
    intro u hu w hw he
    obtain ⟨k, p, rfl⟩ := mem_moduleTable hw
    simp [he] at hu
  refine List.nodup_append.mpr ⟨List.nodup_append.mpr ⟨hstatus, moduleTable_nodup, hmodule⟩, lineTable_nodup, ?_⟩
  intro u hu w hw he
  obtain ⟨n, rfl⟩ := mem_lineTable hw
  rcases List.mem_append.mp hu with hu | hu
  · simp [he] at hu
  · obtain ⟨k, p, rfl⟩ := mem_moduleTable hu
    cases he

theorem mem_resetPosts (w : TableWord) : w ∈ resetPosts := by
  have hmodule : ∀ k : Fin 8, ∀ p : Fin 16, TableWord.moduleWord k p ∈ moduleTable := by
    intro k p
    have hk : k ∈ all8 := by revert k; decide
    have hp : p ∈ all16 := by revert p; decide
    exact List.mem_flatMap.mpr ⟨k, hk, List.mem_map.mpr ⟨p, hp, rfl⟩⟩
  have hline : ∀ n : Fin 16, TableWord.lineWord n ∈ lineTable := by
    intro n
    have hn : n ∈ all16 := by revert n; decide
    exact List.mem_map.mpr ⟨n, hn, rfl⟩
  cases w with
  | moduleWord k p => simp [resetPosts, hmodule]
  | lineWord n => simp [resetPosts, hline]
  | _ => simp [resetPosts]

theorem posted_postAll {u : TableWord} {s : State} (h : s.Posted u) (ts : List TableWord) : (postAll ts s).Posted u := by
  unfold postAll
  induction ts generalizing s with
  | nil => exact h
  | cons t ts ih => exact ih (posted_anyPost h t)

/-- Posting several words leaves each of them waiting. -/
theorem postAll_posted {u : TableWord} {ts : List TableWord} (hu : u ∈ ts) (s : State) : (postAll ts s).Posted u := by
  induction ts generalizing s with
  | nil => cases hu
  | cons t ts ih =>
    rcases List.mem_cons.mp hu with rfl | hu
    · exact posted_postAll (post_posted _ _) ts
    · exact ih hu (post t s)

/-- Settles O15. -/
theorem resetEnds : Obligations.ResetEnds := by
  intro p s hreset hheld hlow hdue
  have hover : s.resetOver = true := by simp [State.resetOver, hreset, hheld, hlow, hdue]
  have hexec : exec (.resetEnd p) s = .next (grant (postAll resetPosts (resetBlocks p s))) := by
    show answer (if s.resetOver then _ else s) = _
    rw [if_pos hover]
    rfl
  have hposts := postAll_onlyPosts resetPosts (resetBlocks p s)
  obtain ⟨v, hv⟩ : ∃ v, postAll resetPosts (resetBlocks p s) = v := ⟨_, rfl⟩
  have hwb : v.ctl.writeBack =
      if s.outstanding (· == .writeBack) = true then ⟨none, v.entryOf .resetCause :: otherPosts.map v.entryOf⟩
      else ⟨some (v.entryOf .resetCause, 0), otherPosts.map v.entryOf⟩ := by
    have hentry (w : TableWord) : v.entryOf w = (resetBlocks p s).entryOf w := by
      rw [State.entryOf, ← hv, hposts.tableWords]
      rfl
    have hmap : otherPosts.map v.entryOf = otherPosts.map (resetBlocks p s).entryOf :=
      List.map_congr_left fun w _ => hentry w
    have hnodup : (TableWord.resetCause :: otherPosts).Nodup := resetPosts_eq ▸ resetPosts_nodup
    rw [hmap, hentry, ← hv, resetPosts_eq]
    exact postAll_fresh (s := resetBlocks p s) hnodup rfl
  have hgrant (w : TableWord) : WbEntry.table w ((grant v).tableWords w) = v.entryOf w := by
    rw [grant_tableWords]
    rfl
  rw [hv] at hposts
  refine ⟨grant v, by rw [hexec, hv], fun w => ?_, ?_, ?_⟩
  · rw [← hv]
    exact posted_grant (postAll_posted (mem_resetPosts w) _)
  · simp only [hgrant, grant_ctl]
    rw [hwb, otherPosts, moduleTable, lineTable, all16_eq]
    rfl
  · rw [grant_rst, grant_installed, grant_ram, grant_guards, grant_guardLock, grant_trap, grant_ctl, grant_handed,
      grant_tbl, grant_load, grant_cap, grant_links, grant_lines, grant_service, grant_drive, grant_tape, hposts.eq]
    have hlinks : ∀ k : Fin 8, (resetBlocks p s).links[k] = Link.cleared ∧ (resetBlocks p s).links[k].driveEnable = true := by
      intro k
      have hk : (resetBlocks p s).links[k] = Link.cleared := by simp [resetBlocks]
      exact ⟨hk, by rw [hk]; decide⟩
    have hlines : ∀ n : Fin 16, (resetBlocks p s).lines[n] = Line.off := by
      intro n
      simp [resetBlocks]
    have hfilters : ∀ c : Comparator, (resetBlocks p s).drive.filter c =
        ⟨(s.drive.filter c).raw, false,
          if (s.drive.filter c).raw then some (resetBlocks p s).ctl.timeBase else none⟩ := by
      intro c
      cases c <;> rfl
    and_intros
    any_goals rfl
    exacts [hlinks, hlines, hfilters]

end Sys2Proof.Machine
end


section
/-! How an offered command is taken and ended, and the commands that one event decides: refusals, SET GUARD, LOCK
GUARDS, TAPE HOLD, TAPE RESUME and SET LINE (chapters 1, 2, 8 and 9). -/

namespace Sys2Proof.Machine

open Sys2Proof

/-! ### Commands taken -/

/-- `u` is `s` after the offered command `w` has been taken: it is RUNNING, its parameters are the latches as they
stood, and nothing has been posted but its status (R24). -/
structure Taken (w : Word) (s u : State) : Prop where
  posts : OnlyPosts (s.begun w) u
  params : ∀ n : Fin 6, u.param n = s.ctl.latches[n]
  old : ∀ t ws, t ≠ .commandStatus → .table t ws ∈ u.ctl.writeBack.queue → .table t ws ∈ s.ctl.writeBack.queue
  posted : u.Posted .commandStatus

/-- What waits after the head has been taken up waited before. -/
theorem mem_queue_of_pump {e : WbEntry} {s : State} (h : e ∈ (pumpWriteBack s).ctl.writeBack.queue) :
    e ∈ s.ctl.writeBack.queue := by
  unfold pumpWriteBack at h
  split at h
  · rename_i d rest _ hq
    split at h
    · exact h
    · rw [hq]
      exact List.mem_cons_of_mem _ h
  · exact h

/-- A post of another word adds no value of this one. -/
theorem mem_queue_of_post {t u : TableWord} {ws : List Word} {s : State} (hne : t ≠ u)
    (h : .table t ws ∈ (post u s).ctl.writeBack.queue) : .table t ws ∈ s.ctl.writeBack.queue := by
  rcases of_mem_joinTable (mem_queue_of_pump h) with h | h
  · exact h
  · exact absurd (WbEntry.table.inj h).1 hne

theorem takeCommand_taken (w : Word) (s : State) : Taken w s (takeCommand w (setCommandCause false (popHanded s))) where
  posts := takeCommand_onlyPosts w s
  params := takeCommand_param w s
  old _ _ ht h := mem_queue_of_post (s := setCommand _ (setCommandCause false (popHanded s))) ht h
  posted := post_posted _ _

/-- A change that does not look at what is posted is made as the command is taken, whatever table words it changes. -/
theorem Taken.change {w : Word} {s u : State} (h : Taken w s u) (f : State → State)
    (hf : ∀ x parts wb, f (withPosts x parts wb) = withPosts (f x) parts wb) :
    OnlyPosts (f (s.begun w)) (f u) := by
  have hp := h.posts
  have hu : f u = withPosts (f (s.begun w)) u.mem.parts u.ctl.writeBack := by
    conv_lhs => rw [hp.eq_withPosts]
    exact hf _ _ _
  have hb : f (s.begun w) = withPosts (f (s.begun w)) s.mem.parts s.ctl.writeBack :=
    hf (s.begun w) s.mem.parts s.ctl.writeBack
  have hparts : (f (s.begun w)).mem.parts = s.mem.parts := by rw [hb]; rfl
  have hwb : (f (s.begun w)).ctl.writeBack = s.ctl.writeBack := by rw [hb]; rfl
  have hwbu : (f u).ctl.writeBack = u.ctl.writeBack := by rw [hu]; rfl
  obtain ⟨l, hl, hsrc⟩ := hp.parts
  refine ⟨by rw [hu]; rfl, by rw [hu]; rfl, by rw [hu]; rfl, ⟨l, by rw [hu, hparts]; exact hl, hsrc⟩, ?_, ?_⟩
  · rw [hwb, hwbu]
    exact hp.kept
  · rw [hwb, hwbu]
    exact fun t ws ht hm => .inl (h.old t ws ht hm)

/-- The row of a command takes the command word at the head of the handed writes, when it carries its code. -/
theorem exec_carries {c : Instr} {n : Nat} (h : carries c n = true) :
    ∃ codes owning, codes n = true ∧ ∀ s, exec c s = .next (grant (onCommand codes owning s)) := by
  cases c
  any_goals cases h
  all_goals exact ⟨_, _, h, fun _ => rfl⟩

/-- An offered command that passes the examination is carried out by its owning rule, as it has been taken (R25). -/
theorem onCommand_takes {codes : Nat → Bool} {owning : State → State} {w : Word} {s : State} (ho : s.Offered w)
    (hc : codes (commandCode w) = true) (hu : unknownCode (commandCode w) = false)
    (hl : s.ctl.partState = .unloaded → takenUnloaded (commandCode w) = true) :
    ∃ u, onCommand codes owning s = owning u ∧ Taken w s u :=
  ⟨_, onCommand_taken ho hc hu hl, takeCommand_taken w s⟩

/-- The command has ended after nothing but posting. -/
theorem answersEnded_of {c : Instr} {s x v : State} {w : Word} {code : Option ResultCode} {d : Nat}
    (h : exec c s = .next (grant (endCommand code d v))) (hv : OnlyPosts (x.begun w) v) :
    AnswersEnded c s x w code d :=
  ⟨_, h, hv.endCommand code d, (endCommand_onlyPosts _ _ _).2⟩

/-! ### Refusals -/

/-- Settles O19. -/
theorem commandsRefused : Obligations.CommandsRefused := by
  refine ⟨fun c w s hc hr hh => ?_, fun w => ⟨?_, by simp [commandSeq]⟩⟩
  · obtain ⟨codes, owning, hcodes, hexec⟩ := exec_carries hc
    refine ⟨fun hrun => ?_, fun hrun hunknown => ?_, fun hrun hunloaded hnot hlow hhigh => ?_⟩
    · have hbusy : onCommand codes owning s = refuseBusy w (setCommandCause false (popHanded s)) := by
        unfold onCommand
        match hhand : s.handed with
        | [] => simp [hhand] at hh
        | x :: rest =>
          rw [hhand] at hh
          obtain rfl : x = .control 0 w := by simpa using hh
          have hrun' : (setCommandCause false (popHanded s)).ctl.command.state = .running := hrun
          simp only [hr, hcodes, Bool.not_false, Bool.and_self, if_true, arrive, hrun']
      rw [hexec, hbusy]
      exact ⟨_, rfl, post_posted _ _, post_onlyPosts _ _⟩
    · have ho : s.Offered w := ⟨hr, hh, hrun⟩
      refine answersEnded_of (v := takeCommand w (setCommandCause false (popHanded s))) ?_ (takeCommand_onlyPosts w s)
      have hcode : unknownCode (commandCode w) = true := decide_eq_true hunknown
      rw [hexec, onCommand_offered ho hcodes, examine, if_pos hcode]
      rfl
    · have ho : s.Offered w := ⟨hr, hh, hrun⟩
      have htaken := takeCommand_onlyPosts w s
      refine answersEnded_of (v := takeCommand w (setCommandCause false (popHanded s))) ?_ htaken
      have hcode : unknownCode (commandCode w) = false := by
        simp only [unknownCode, decide_eq_false_iff_not]
        omega
      have hstate : (takeCommand w (setCommandCause false (popHanded s))).ctl.partState = .unloaded := by
        rw [htaken.eq]
        exact hunloaded
      have hrefused : (!takenUnloaded (commandCode w)) = true := by
        simpa [takenUnloaded] using hnot
      rw [hexec, onCommand_offered ho hcodes, examine, if_neg (ne_true_of_eq_false hcode),
        if_pos ⟨hstate, hrefused⟩]
      rfl
  · have := w.isLt
    simp only [commandCode, bitField]
    omega

/-! ### The guard commands -/

theorem guardMode_of_le {w : Word} (h : w.toNat ≤ 2) :
    guardMode w = some (if w = 0 then .off else if w = 1 then .refuse else .drop) := by
  have hw : w = 0 ∨ w = 1 ∨ w = 2 := by bv_omega
  rcases hw with rfl | rfl | rfl <;> rfl

theorem guardMode_of_lt {w : Word} (h : 2 < w.toNat) : guardMode w = none := by
  have h0 : w ≠ 0 := by bv_omega
  have h1 : w ≠ 1 := by bv_omega
  have h2 : w ≠ 2 := by bv_omega
  rw [guardMode, if_neg h0, if_neg h1, if_neg h2]

section
variable {u : State}

theorem guardParams_none (h : 3 < (u.param 0).toNat ∨ 16 ≤ (u.param 1).toNat ∨ 16 ≤ (u.param 3).toNat ∨
    2 < (u.param 5).toNat) : u.guardParams = none := by
  unfold State.guardParams
  split
  · rcases h with h | h | h | h
    · omega
    · simp [addr20_of_le _ h]
    · simp [addr20_of_le _ h]
    · simp [guardMode_of_lt h]
  · rfl

theorem guardParams_some {n : Fin 4} (h0 : (u.param 0).toNat = n.val) (h1 : (u.param 1).toNat < 16)
    (h3 : (u.param 3).toNat < 16) (h5 : (u.param 5).toNat ≤ 2) :
    u.guardParams =
      some (n, ⟨BitVec.ofNat 20 ((u.param 1).toNat * 65536 + (u.param 2).toNat),
        BitVec.ofNat 20 ((u.param 3).toNat * 65536 + (u.param 4).toNat),
        if u.param 5 = 0 then .off else if u.param 5 = 1 then .refuse else .drop⟩) := by
  have hn : (u.param 0).toNat < 4 := by omega
  have hfin : (⟨(u.param 0).toNat, hn⟩ : Fin 4) = n := Fin.ext h0
  rw [State.guardParams, dif_pos hn, addr20_of_lt _ h1, addr20_of_lt _ h3, guardMode_of_le h5, hfin]

end

/-- Settles O22. -/
theorem guardCommands : Obligations.GuardCommands := by
  intro w s ho p
  refine ⟨fun hc => ?_, fun hc => ?_⟩
  · obtain ⟨u, hu, ht⟩ := onCommand_takes (codes := (· == 13)) (owning := setGuardTaken) ho (by simp [hc])
      (by simp [hc, unknownCode]) (fun _ => by simp [hc, takenUnloaded])
    have hexec : exec .setGuard s = .next (grant (setGuardTaken u)) := by
      rw [← hu]
      rfl
    have hlock : u.mem.guardLock = s.mem.guardLock := by rw [ht.posts.eq]; rfl
    refine ⟨fun hl => ?_, fun hl => ⟨fun hbad => ?_, fun n h0 h1 h3 h5 => ?_⟩⟩
    · refine answersEnded_of ?_ ht.posts
      rw [hexec, setGuardTaken, hlock, if_pos hl]
      rfl
    · refine answersEnded_of ?_ ht.posts
      have hnone : u.guardParams = none := guardParams_none (by rw [ht.params, ht.params, ht.params, ht.params]; exact hbad)
      rw [hexec, setGuardTaken, hlock, if_neg (ne_true_of_eq_false hl), hnone]
      rfl
    · have hsome := guardParams_some (u := u) (n := n) (by rw [ht.params]; exact h0)
        (by rw [ht.params]; exact h1) (by rw [ht.params]; exact h3) (by rw [ht.params]; exact h5)
      simp only [ht.params] at hsome
      refine answersEnded_of (v := setWindow n _ u) ?_ (ht.change (setWindow n _) (fun _ _ _ => rfl))
      rw [hexec, setGuardTaken, hlock, if_neg (ne_true_of_eq_false hl), hsome]
      rfl
  · obtain ⟨u, hu, ht⟩ := onCommand_takes (codes := (· == 14)) (owning := lockGuardsTaken) ho (by simp [hc])
      (by simp [hc, unknownCode]) (fun _ => by simp [hc, takenUnloaded])
    have hexec : exec .lockGuards s = .next (grant (lockGuardsTaken u)) := by
      rw [← hu]
      rfl
    exact answersEnded_of hexec
      (ht.change (fun x => { x with mem := { x.mem with guardLock := true } }) (fun _ _ _ => rfl))

/-! ### TAPE HOLD and TAPE RESUME -/

/-- The ticker state word shows the hold. -/
theorem tickerState_ne_of_hold {s : State} {hold : Bool} (h : s.tape.hold ≠ hold) :
    { s with tape := { s.tape with hold := hold } }.tableWords .tickerState ≠ s.tableWords .tickerState := by
  intro e
  have hnat := congrArg BitVec.toNat (List.cons.inj e).1
  have hmode : s.tape.mode.code < 4 := by cases s.tape.mode <;> decide
  have hcode : bitOf hold 2 ≠ bitOf s.tape.hold 2 := by
    cases hold <;> cases hs : s.tape.hold <;> simp_all [bitOf]
  have hbit : ∀ b, bitOf b 2 = 0 ∨ bitOf b 2 = 4 := by intro b; cases b <;> simp [bitOf]
  have hnew := hbit hold
  have hold' := hbit s.tape.hold
  simp only [BitVec.toNat_ofNat] at hnat
  omega

/-- Settles O49. -/
theorem tapeHoldAndResume : Obligations.TapeHoldAndResume := by
  intro c hold w s ho hstate hc
  have hexec : ∃ u, Taken w s u ∧
      exec c s = .next (grant (endCommand none 0 (updateTape { u.tape with hold := hold } u))) := by
    rcases hc with ⟨rfl, hc, rfl⟩ | ⟨rfl, hc, rfl⟩
    · obtain ⟨u, hu, ht⟩ := onCommand_takes (codes := (· == 10)) (owning := tapeHoldTaken) ho (by simp [hc])
        (by simp [hc, unknownCode]) (fun h => absurd h hstate)
      exact ⟨u, ht, congrArg answer hu⟩
    · obtain ⟨u, hu, ht⟩ := onCommand_takes (codes := (· == 11)) (owning := tapeResumeTaken) ho (by simp [hc])
        (by simp [hc, unknownCode]) (fun h => absurd h hstate)
      exact ⟨u, ht, congrArg answer hu⟩
  obtain ⟨u, ht, hexec⟩ := hexec
  have hold_u : u.tape.hold = s.tape.hold := by rw [ht.posts.eq]; rfl
  have hposts := (ht.change (fun x => { x with tape := { x.tape with hold := hold } }) (fun _ _ _ => rfl)).trans
    (updateTape_onlyPosts { u.tape with hold := hold } u)
  refine ⟨_, hexec, hposts.endCommand none 0, (endCommand_onlyPosts _ _ _).2, fun hne => ?_⟩
  refine posted_endCommand (by decide) (postChanged_posted List.mem_cons_self ?_) none 0
  exact tickerState_ne_of_hold (hold_u ▸ hne)

/-! ### SET LINE -/

theorem rateOfCode_of_lt {w : Word} (h : 4 < w.toNat) : rateOfCode w = none := by
  have h0 : w ≠ 0 := by bv_omega
  have h1 : w ≠ 1 := by bv_omega
  have h2 : w ≠ 2 := by bv_omega
  have h3 : w ≠ 3 := by bv_omega
  have h4 : w ≠ 4 := by bv_omega
  rw [rateOfCode, if_neg h0, if_neg h1, if_neg h2, if_neg h3, if_neg h4]

theorem rateOfCode_none {w : Word} : rateOfCode w = some .none ↔ w = 0 := by
  by_cases h : w = 0
  · simp [rateOfCode, h]
  · rw [rateOfCode, if_neg h]
    refine ⟨fun hw => ?_, fun hw => absurd hw h⟩
    split at hw
    · cases hw
    split at hw
    · cases hw
    split at hw
    · cases hw
    split at hw <;> cases hw

section
variable {u : State}

theorem lineParams_none (h : 15 < (u.param 0).toNat ∨ 4 < (u.param 1).toNat ∨ 3 < (u.param 2).toNat) :
    u.lineParams = none := by
  unfold State.lineParams
  split
  · rcases h with h | h | h
    · omega
    · rw [rateOfCode_of_lt h]
    · cases rateOfCode (u.param 1) with
      | none => rfl
      | some r => exact if_neg (by omega)
  · rfl

theorem lineParams_some {n : Fin 16} {rate : Rate} (h0 : (u.param 0).toNat = n.val)
    (h1 : rateOfCode (u.param 1) = some rate) (h2 : (u.param 2).toNat ≤ 3) : u.lineParams = some (n, rate) := by
  have hn : (u.param 0).toNat < 16 := by omega
  have hfin : (⟨(u.param 0).toNat, hn⟩ : Fin 16) = n := Fin.ext h0
  simp only [State.lineParams, dif_pos hn, h1, h2, if_true, hfin]

end

/-- The records after a line has left the watcher set of each instrument of a list. -/
def leftRecords (n : Fin 16) (watch : List Nat) (rs : List Instrument) : List Instrument :=
  rs.mapIdx (fun i r => if i ∈ watch then { r with watchers := dropWatcher n r.watchers } else r)

theorem getElem?_leftRecords (n : Fin 16) (watch : List Nat) (rs : List Instrument) (i : Nat) :
    (leftRecords n watch rs)[i]? =
      rs[i]?.map (fun r => if i ∈ watch then { r with watchers := dropWatcher n r.watchers } else r) := by
  rw [leftRecords, List.getElem?_mapIdx]

theorem dropWatcher_idem (n : Fin 16) (ws : List (Fin 16)) : dropWatcher n (dropWatcher n ws) = dropWatcher n ws := by
  simp [dropWatcher, List.filter_filter]

theorem changeWatchers_eq (n : Fin 16) (i : Nat) (s : State) :
    changeWatchers i (dropWatcher n) s =
      { s with tbl := { s.tbl with instruments := leftRecords n [i] s.tbl.instruments } } := by
  have hrecords (rs : List Instrument) (hrs : ∀ j, (leftRecords n [i] s.tbl.instruments)[j]? = rs[j]?) :
      leftRecords n [i] s.tbl.instruments = rs := List.ext_getElem? hrs
  fun_cases changeWatchers i (dropWatcher n) s with
  | case1 hnone =>
    rw [hrecords s.tbl.instruments fun j => ?_]
    rw [getElem?_leftRecords]
    by_cases hj : j = i
    · subst hj
      rw [show s.tbl.instruments[j]? = none from hnone]
      rfl
    · simp [hj]
  | case2 r hr =>
    rw [setInstrument, hrecords (s.tbl.instruments.set i _) fun j => ?_]
    have hlt : i < s.tbl.instruments.length := (List.getElem?_eq_some_iff.mp hr).1
    rw [getElem?_leftRecords, List.getElem?_set]
    by_cases hj : j = i
    · subst hj
      rw [show s.tbl.instruments[j]? = some r from hr]
      simp [hlt]
    · simp [hj, Ne.symm hj]

/-- The watcher sets change as the records do, one after another. -/
theorem leaveWatchers_eq (n : Fin 16) (watch : List Nat) (s : State) :
    leaveWatchers n watch s =
      { s with tbl := { s.tbl with instruments := leftRecords n watch s.tbl.instruments } } := by
  induction watch generalizing s with
  | nil =>
    have hsame : leftRecords n [] s.tbl.instruments = s.tbl.instruments :=
      List.ext_getElem? fun j => by simp [getElem?_leftRecords]
    rw [hsame]
    rfl
  | cons i watch ih =>
    have htwice : leftRecords n watch (leftRecords n [i] s.tbl.instruments) =
        leftRecords n (i :: watch) s.tbl.instruments := by
      refine List.ext_getElem? fun j => ?_
      simp only [getElem?_leftRecords, Option.map_map]
      refine Option.map_congr fun r _ => ?_
      by_cases hj : j = i <;> by_cases hw : j ∈ watch <;> simp [hj, hw, dropWatcher_idem]
    show leaveWatchers n watch (changeWatchers i (dropWatcher n) s) = _
    rw [ih, changeWatchers_eq, ← htwice]

/-- The line that an accepted SET LINE leaves, where the rate is not NONE (R164). -/
def Line.given (l : Line) (rate : Rate) (cls doze : Nat) (now : Time) : Line :=
  ((l.takeRate rate).takeClass cls).takeDoze doze now

theorem Line.takeDoze_eq (l : Line) (doze : Nat) (now : Time) :
    l.takeDoze doze now =
      { l with
        doze := doze
        dozeTimer :=
          if l.state = .active ∨ l.state = .muted then (if doze = 0 then none else some now) else l.dozeTimer } := by
  unfold Line.takeDoze
  dsimp only
  split <;> rfl

/-- Settles O52. -/
theorem setLineDone : Obligations.SetLineDone := by
  refine ⟨⟨rfl, fun w => rateOfCode_of_lt⟩, ?_⟩
  intro w s ho hc hstate p cls doze
  obtain ⟨u, hu, ht⟩ := onCommand_takes (codes := (· == 12)) (owning := setLineTaken) ho (by simp [hc])
    (by simp [hc, unknownCode]) (fun h => absurd h hstate)
  have hexec : exec .setLine s = .next (grant (setLineTaken u)) := congrArg answer hu
  have hp0 : u.param 0 = p[0] := ht.params 0
  have hp1 : u.param 1 = p[1] := ht.params 1
  have hp2 : u.param 2 = p[2] := ht.params 2
  have hp3 : u.param 3 = p[3] := ht.params 3
  have hlines : u.lines = s.lines := by rw [ht.posts.eq]; rfl
  have htime : u.ctl.timeBase = s.ctl.timeBase := by rw [ht.posts.eq]; rfl
  have htbl : u.tbl = s.tbl := by rw [ht.posts.eq]; rfl
  refine ⟨fun hbad => ?_, fun n rate h0 h1 h2 h3 => ?_⟩
  · refine answersEnded_of ?_ ht.posts
    suffices h : setLineTaken u = endRefused .badParameter 0 u by rw [hexec, h]; rfl
    cases hparams : u.lineParams with
    | none => simp only [setLineTaken, hparams]
    | some x =>
      obtain ⟨n, rate⟩ := x
      by_cases hrange : 15 < p[0].toNat ∨ 4 < p[1].toNat ∨ 3 < cls
      · rw [lineParams_none (by rw [hp0, hp1, hp2]; exact hrange)] at hparams
        cases hparams
      · obtain ⟨hz, hcls⟩ : p[1] = 0 ∧ cls ≠ 0 := by
          rcases hbad with h | h | h | h
          · exact absurd (.inl h) hrange
          · exact absurd (.inr (.inl h)) hrange
          · exact absurd (.inr (.inr h)) hrange
          · exact h
        have hrate : rate = .none := by
          have hlt : (u.param 0).toNat < 16 := by rw [hp0]; omega
          rw [State.lineParams, dif_pos hlt, hp1, rateOfCode_none.mpr hz] at hparams
          simp only [hp2] at hparams
          split at hparams
          · cases hparams
            rfl
          · cases hparams
        simp only [setLineTaken, hparams, hrate, hp2, true_and]
        exact if_pos hcls
  · have hparams : u.lineParams = some (n, rate) :=
      lineParams_some (by rw [hp0]; exact h0) (by rw [hp1]; exact h1) (by rw [hp2]; exact h2)
    have hnot : ¬ (rate = .none ∧ (u.param 2).toNat ≠ 0) := by
      rw [hp2]
      exact fun h => h.2 (h3 h.1)
    intro l
    have hline : u.lines[n] = l := by rw [hlines]
    refine ⟨fun hr hl hcls => ?_, fun hfree => ?_⟩
    · refine answersEnded_of ?_ ht.posts
      have hmute : needsMute u.lines[n] rate (u.param 2).toNat = true := by
        rw [hline, hp2]
        simp [needsMute, hr, hl]
        exact hcls
      rw [hexec]
      simp only [setLineTaken, hparams, if_neg hnot, hmute, if_true]
      rfl
    · intro l1 l2 l3
      have hmute : needsMute u.lines[n] rate (u.param 2).toNat = false := by
        rw [hline, hp2]
        rcases hfree with h | h | h
        · simp [needsMute, h]
        · simp [needsMute, h]
        · simp only [needsMute, Bool.and_eq_false_iff]
          exact .inr (by simpa using h)
      have hdone : exec .setLine s =
          .next (grant (endCommand none 0 (carrySetLine n rate cls doze u))) := by
        rw [hexec]
        simp only [setLineTaken, hparams, if_neg hnot, hmute, Bool.false_eq_true, if_false]
        rw [hp2, hp3]
        rfl
      refine ⟨_, hdone, (endCommand_onlyPosts _ _ _).2, fun hr => ?_, fun hr => ?_⟩
      · have hl3 : ((u.lines[n].takeRate rate).takeClass cls).takeDoze doze u.ctl.timeBase = l3 := by
          rw [hline, htime, Line.takeDoze_eq]
          rfl
        have hcarry : carrySetLine n rate cls doze u = setLine n l3 u := by
          rw [carrySetLine, if_neg hr, hl3]
        rw [hcarry]
        have hset := ht.change (fun x => { x with lines := x.lines.set n l3 }) (fun _ _ _ => rfl)
        exact (hset.trans (setLine_onlyPosts n l3 u)).endCommand none 0
      · have hwatch : (u.lines[n].takeRate rate).watch = l.watch := by
          rw [hline, Line.takeRate]
          split <;> rfl
        have hseq : (u.lines[n].takeRate rate).turnOff = { Line.off with nextSeq := l.nextSeq } := by
          rw [hline, Line.takeRate]
          split <;> rfl
        have hcarry : carrySetLine n rate cls doze u =
            leaveWatchers n l.watch (setLine n { Line.off with nextSeq := l.nextSeq } u) := by
          rw [carrySetLine, if_pos hr, hwatch, hseq]
        obtain ⟨off, hoff⟩ : ∃ x : Line, { Line.off with nextSeq := l.nextSeq } = x := ⟨_, rfl⟩
        have hset := (ht.change (fun x => { x with lines := x.lines.set n off }) (fun _ _ _ => rfl)).trans
          (setLine_onlyPosts n off u)
        rw [hcarry, leaveWatchers_eq, hoff]
        have hrecords : (setLine n off u).tbl = s.tbl := by
          rw [hset.eq]
          rfl
        have hleft := hset.map
          (fun x => { x with tbl := { x.tbl with instruments := leftRecords n l.watch x.tbl.instruments } })
          (fun _ _ => rfl) (fun w _ => by cases w <;> rfl)
        have hend := hleft.endCommand none 0
        obtain ⟨v, hv⟩ : ∃ v, endCommand none 0
          { setLine n off u with
            tbl :=
              { (setLine n off u).tbl with
                instruments := leftRecords n l.watch (setLine n off u).tbl.instruments } } = v := ⟨_, rfl⟩
        rw [hv] at hend ⊢
        have hvlines : v.lines = s.lines.set n off := by rw [hend.eq]; rfl
        have hvtbl : v.tbl = { s.tbl with instruments := leftRecords n l.watch s.tbl.instruments } := by
          rw [hend.eq]
          rfl
        refine ⟨hvlines, by rw [hvtbl], fun i r hi => ?_, ?_⟩
        · show v.tbl.instruments[i]? = _
          have hi' : s.tbl.instruments[i]? = some r := hi
          rw [hvtbl, getElem?_leftRecords, hi', Option.map_some]
          by_cases hw : i ∈ l.watch
          · rw [if_pos hw, if_pos hw]
            rfl
          · rw [if_neg hw, if_neg hw]
        · rw [hvlines, hvtbl]
          exact hend

/-! ### Commanded outputs -/

theorem mem_all8 (k : Fin 8) : k ∈ all8 := by
  revert k
  decide

theorem all16_all (f : Fin 16 → Bool) : all16.all f = true ↔ ∀ p, f p = true := by
  rw [all16_eq, List.all_eq_true]
  exact ⟨fun h p => h p (List.mem_finRange p), fun h p _ => h p⟩

theorem driveEnable_iff (l : Link) : l.driveEnable = true ↔
    ∀ p : Fin 16, l.positions[p].kind ≠ .notFitted → l.positions[p].tripDisabled = false := by
  rw [Link.driveEnable, all16_all]
  refine forall_congr' fun p => ?_
  rw [Bool.or_eq_true, beq_iff_eq, Bool.not_eq_true', or_iff_not_imp_left]

/-- Settles O43. -/
theorem commandedOutputs : Obligations.CommandedOutputs := by
  intro s q stage
  refine ⟨fun hdark => ?_, fun hhot hllow hstage => ⟨fun hq => ?_, fun hq => ?_, ?_⟩, ?_, fun hr => ?_, driveEnable_iff, ?_⟩
  · have hdark' : s.floorDark = true := by simpa [State.floorDark] using hdark
    exact ⟨if_pos hdark', if_pos hdark'⟩
  · simp [State.boardBrightness, hq]
  · simp [State.boardBrightness, State.floorDark, hhot, hllow, hq, stageBrightness, stage]
  · have hlit : s.floorDark = false := by simp [State.floorDark, hhot, hllow]
    rw [State.ribbonBrightness, if_neg (ne_true_of_eq_false hlit)]
    split_ifs <;> omega
  · exact beq_iff_eq
  · by_cases hdark : s.floorDark = true
    · exact .inr (if_pos hdark)
    · rw [State.ribbonBrightness, if_neg hdark] at hr
      have hstage : 3 < s.drive.governor.stage := by
        by_contra hle
        rw [if_pos (Nat.not_lt.mp hle)] at hr
        omega
      rw [State.boardBrightness, if_neg hdark]
      by_cases hq : q.tripDisabled = true
      · exact .inr (if_pos hq)
      · rw [if_neg hq, stageBrightness, if_neg (by omega), if_neg (by omega)]
        exact .inl rfl
  · rw [State.anyTripDisabled, List.any_eq_true]
    constructor
    · rintro ⟨k, -, hk⟩
      exact ⟨k, by simpa using hk⟩
    · rintro ⟨k, hk⟩
      exact ⟨k, mem_all8 k, by simpa using hk⟩

end Sys2Proof.Machine
end


section
/-! Prices, display forms, trades and the expiry of staging and of holds (chapters 4 to 6). -/

namespace Sys2Proof.Machine

open Sys2Proof

/-! ### The commit word -/

theorem bitField_code (w : Word) : bitField w 12 4 = w.toNat / 4096 ∧ w.toNat / 4096 < 16 := by
  have := w.isLt
  unfold bitField
  omega

/-- Settles O31. -/
theorem commitFlagTable : Obligations.CommitFlagTable := by
  intro w code c
  obtain ⟨hcode, hlt⟩ := bitField_code w
  have hc : c = commitFlags w := rfl
  unfold commitFlags at hc
  rw [hcode] at hc
  have hseq : (commitSeq w).toNat = w.toNat % 4096 := by simp [commitSeq]
  refine ⟨?_, ?_, ?_, ?_, ?_, ?_, hseq⟩ <;> rw [hc] <;> simp only [code] <;> generalize w.toNat / 4096 = n at hlt ⊢ <;>
    interval_cases n <;> decide

/-! ### Quantizing -/

/-- Settles O32. -/
theorem quantizeNearest : Obligations.QuantizeNearest := by
  intro b u s q
  have hs : s = 64 ∨ s = 32 ∨ s = 16 := by cases b <;> decide
  have hq : q = u / s + if s ≤ 2 * (u % s) then 1 else 0 := rfl
  have hr : needsRounding b u = true ↔ u % s ≠ 0 := decide_eq_true_iff
  have hstep : q * s ≠ u ↔ u % s ≠ 0 := by
    rw [hq]
    rcases hs with h | h | h <;> rw [h] <;> split <;> omega
  refine ⟨?_, ?_, hq, hr, hr.trans hstep.symm⟩
  · rw [hq]
    rcases hs with h | h | h <;> rw [h] <;> split <;> omega
  · rw [hq]
    rcases hs with h | h | h <;> rw [h] <;> split <;> omega

/-! ### Display forms -/

/-- Halving keeps the value of a fraction, whose denominator is a power of 2, and ends in lowest terms (R86). -/
theorem lowestTerms_spec (k : Nat) : ∀ j n, j ≤ k → 0 < n → n < 2 ^ j →
    (lowestTerms k n (2 ^ j)).num * 2 ^ j = n * (lowestTerms k n (2 ^ j)).den ∧
      Nat.Coprime (lowestTerms k n (2 ^ j)).num (lowestTerms k n (2 ^ j)).den ∧
      (lowestTerms k n (2 ^ j)).num < (lowestTerms k n (2 ^ j)).den ∧
      ∃ m, 1 ≤ m ∧ m ≤ j ∧ (lowestTerms k n (2 ^ j)).den = 2 ^ m := by
  induction k with
  | zero =>
    intro j n hj hn hlt
    obtain rfl : j = 0 := by omega
    omega
  | succ k ih =>
    intro j n hj hn hlt
    obtain ⟨i, rfl⟩ : ∃ i, j = i + 1 := Nat.exists_eq_succ_of_ne_zero (by rintro rfl; omega)
    have hpow : 2 ^ (i + 1) = 2 * 2 ^ i := pow_succ' 2 i
    by_cases heven : n % 2 = 0
    · have hhalf : lowestTerms (k + 1) n (2 ^ (i + 1)) = lowestTerms k (n / 2) (2 ^ i) := by
        simp [lowestTerms, heven, hn.ne', hpow]
      obtain ⟨hval, hcop, hless, m, h1, hm, hden⟩ := ih i (n / 2) (by omega) (by omega) (by omega)
      have hn2 : n = 2 * (n / 2) := by omega
      rw [hhalf]
      refine ⟨?_, hcop, hless, m, h1, by omega, hden⟩
      rw [hpow, hn2, Nat.mul_div_cancel_left _ (by decide : 0 < 2)]
      linarith
    · have hstop : lowestTerms (k + 1) n (2 ^ (i + 1)) = ⟨n, 2 ^ (i + 1)⟩ := by simp [lowestTerms, heven]
      have hodd : Nat.Coprime n (2 ^ (i + 1)) :=
        Nat.Coprime.pow_right _ (Nat.coprime_two_right.mpr (Nat.odd_iff.mpr (by omega)))
      rw [hstop]
      exact ⟨rfl, hodd, hlt, i + 1, by omega, le_refl _, rfl⟩

/-- A fraction base is 4, 8 or 16. -/
theorem FractionBase.den_eq (b : FractionBase) : ∃ j, 2 ≤ j ∧ j ≤ 4 ∧ b.den = 2 ^ j := by
  cases b
  · exact ⟨2, by decide⟩
  · exact ⟨3, by decide⟩
  · exact ⟨4, by decide⟩

/-- The fraction of a display form is the rest over the base, in lowest terms (R86). -/
theorem displayForm_frac (b : FractionBase) (q : Nat) (x : Fraction) (hx : (displayForm b q).frac = some x) :
    x.num * b.den = (q % b.den) * x.den ∧ Nat.Coprime x.num x.den ∧ x.num < x.den ∧ x.den ∣ b.den ∧
      x.den ∈ [2, 4, 8, 16] := by
  obtain ⟨j, h2, h4, hden⟩ := b.den_eq
  have hne : ¬ q % b.den = 0 := by
    intro h
    simp [displayForm, h] at hx
  obtain rfl : lowestTerms 4 (q % b.den) b.den = x := by simpa [displayForm, hne] using hx
  have hlt : q % b.den < 2 ^ j := hden ▸ Nat.mod_lt _ (by rw [hden]; positivity)
  obtain ⟨hval, hcop, hless, m, h1, hm, hxm⟩ := lowestTerms_spec 4 j (q % b.den) h4 (by omega) hlt
  rw [← hden] at hval hcop hless hxm
  refine ⟨hval, hcop, hless, ?_, ?_⟩
  · rw [hxm, hden]
    exact pow_dvd_pow 2 hm
  · rw [hxm]
    have hm4 : m ≤ 4 := by omega
    interval_cases m <;> decide

/-- A form is over range exactly above the limit, where it is clamped, and is shown exactly within it (R88). -/
theorem clampForm_spec (limit : Nat) (b : FractionBase) (q : Nat) :
    let f := clampForm limit b (displayForm b q)
    f.1.whole ≤ limit ∧ (f.2 = true ↔ limit < q / b.den) ∧ (q / b.den ≤ limit → f = (displayForm b q, false)) ∧
      (limit < q / b.den → f = (⟨limit, some ⟨b.den - 1, b.den⟩⟩, true)) := by
  intro f
  have hwhole : (displayForm b q).whole = q / b.den := rfl
  by_cases h : limit < q / b.den
  · have hf : f = (⟨limit, some ⟨b.den - 1, b.den⟩⟩, true) := if_pos h
    exact ⟨by rw [hf], by simp [hf, h], fun hle => absurd hle (Nat.not_le.mpr h), fun _ => hf⟩
  · have hf : f = (displayForm b q, false) := if_neg h
    exact ⟨by rw [hf, hwhole]; omega, by simp [hf, h], fun _ => hf, fun hlt => absurd hlt h⟩

/-! ### The cells of an image -/

theorem imageOf_getElem (gs : List Glyph) (i : Nat) (h : i < 12) : (imageOf gs)[i] = gs.getD i .blank := by
  simp [imageOf]

/-- The decimal digits of a number from the lowest: digit `j` stands while the number reaches it. -/
theorem getElem?_reverse_decDigits (fuel n : Nat) (h : n < 10 ^ fuel) (hf : 0 < fuel) (j : Nat) :
    (decDigits fuel n).reverse[j]? = if j = 0 ∨ 10 ^ j ≤ n then some (n / 10 ^ j % 10) else none := by
  induction fuel generalizing n j with
  | zero => omega
  | succ fuel ih =>
    by_cases hn : n < 10
    · have hone : decDigits (fuel + 1) n = [n] := if_pos hn
      rw [hone]
      cases j with
      | zero => simp [Nat.mod_eq_of_lt hn]
      | succ j =>
        have hbig : ¬ 10 ^ (j + 1) ≤ n := by
          have : 1 ≤ 10 ^ j := Nat.one_le_pow _ _ (by decide)
          rw [pow_succ']
          omega
        simp [hbig]
    · have hmore : decDigits (fuel + 1) n = decDigits fuel (n / 10) ++ [n % 10] := if_neg hn
      rw [hmore, List.reverse_append]
      cases j with
      | zero => simp
      | succ j =>
        have hfuel : 0 < fuel := by
          rcases fuel with _ | fuel
          · simp at h
            omega
          · omega
        have hlt : n / 10 < 10 ^ fuel := Nat.div_lt_of_lt_mul (by rwa [pow_succ'] at h)
        have hrest := ih (n / 10) hlt hfuel j
        have hreach : (j = 0 ∨ 10 ^ j ≤ n / 10) ↔ (j + 1 = 0 ∨ 10 ^ (j + 1) ≤ n) := by
          rw [Nat.le_div_iff_mul_le (by decide), ← pow_succ]
          constructor
          · rintro (rfl | h)
            · right
              omega
            · exact .inr h
          · rintro (h | h)
            · omega
            · exact .inr h
        simp only [List.reverse_singleton, List.singleton_append, List.getElem?_cons_succ, hrest, hreach,
          Nat.div_div_eq_div_mul, ← pow_succ']

/-- The glyph of digit `j` of a whole part, from the lowest (R104). -/
def wholeDigit (f : DisplayForm) (j : Nat) : Glyph :=
  if f.whole = 0 ∧ f.frac ≠ none then .blank
  else if j = 0 ∨ 10 ^ j ≤ f.whole then .digit (f.whole / 10 ^ j % 10)
  else .blank

/-- The digits that a whole part shows. -/
def wholeDigits (f : DisplayForm) : List Glyph :=
  if f.whole = 0 ∧ f.frac.isSome then [] else (decDigits 10 f.whole).map Glyph.digit

theorem wholeDigits_reverse {f : DisplayForm} (h : f.whole < 10 ^ 10) (j : Nat) :
    (wholeDigits f).reverse[j]?.getD .blank = wholeDigit f j := by
  unfold wholeDigits wholeDigit
  by_cases hz : f.whole = 0 ∧ f.frac ≠ none
  · have hz' : f.whole = 0 ∧ f.frac.isSome = true := ⟨hz.1, Option.isSome_iff_ne_none.mpr hz.2⟩
    rw [if_pos hz, if_pos hz']
    rfl
  · have hz' : ¬ (f.whole = 0 ∧ f.frac.isSome = true) := fun h => hz ⟨h.1, Option.isSome_iff_ne_none.mp h.2⟩
    rw [if_neg hz, if_neg hz', ← List.map_reverse, List.getElem?_map,
      getElem?_reverse_decDigits 10 f.whole h (by decide) j]
    split <;> rfl

theorem length_wholeDigits_le {f : DisplayForm} {width : Nat} (hw : 0 < width) (h : f.whole < 10 ^ width) :
    (wholeDigits f).length ≤ width := by
  unfold wholeDigits
  split
  · exact Nat.zero_le _
  · rw [List.length_map]
    exact length_decDigits_le hw h

/-- The whole part stands right-aligned in its cells (R104). -/
theorem wholeCells_spec {f : DisplayForm} {width : Nat} (hw : 0 < width) (hw10 : width ≤ 10)
    (h : f.whole < 10 ^ width) :
    (wholeCells width f).length = width ∧
      ∀ j < width, (wholeCells width f).getD (width - 1 - j) .blank = wholeDigit f j := by
  have hlen := length_wholeDigits_le hw h
  have hcells : wholeCells width f = List.replicate (width - (wholeDigits f).length) .blank ++ wholeDigits f := rfl
  have hall : (wholeCells width f).length = width := by
    rw [hcells, List.length_append, List.length_replicate]
    omega
  refine ⟨hall, fun j hj => ?_⟩
  have hbig : f.whole < 10 ^ 10 := lt_of_lt_of_le h (Nat.pow_le_pow_right (by decide) hw10)
  rw [← wholeDigits_reverse hbig j, List.getD_eq_getElem?_getD, hcells]
  by_cases hin : j < (wholeDigits f).length
  · rw [List.getElem?_append_right (by rw [List.length_replicate]; omega), List.length_replicate,
      List.getElem?_reverse hin]
    congr 2
    omega
  · rw [List.getElem?_append_left (by rw [List.length_replicate]; omega),
      List.getElem?_replicate_of_lt (by omega), List.getElem?_eq_none (by rw [List.length_reverse]; omega)]
    rfl


theorem boardPrice_spec (b : FractionBase) (q : Nat) :
    (wholeCells 4 (boardPrice b q).1).length = 4 ∧
      ∀ j < 4, (wholeCells 4 (boardPrice b q).1).getD (4 - 1 - j) .blank = wholeDigit (boardPrice b q).1 j :=
  wholeCells_spec (by decide) (by decide) (lt_of_le_of_lt (clampForm_spec 9999 b q).1 (by decide))

theorem boardChange_spec (b : FractionBase) (c : Int) :
    (wholeCells 3 (boardChange b c).1).length = 3 ∧
      ∀ j < 3, (wholeCells 3 (boardChange b c).1).getD (3 - 1 - j) .blank = wholeDigit (boardChange b c).1 j :=
  wholeCells_spec (by decide) (by decide) (lt_of_le_of_lt (clampForm_spec 999 b c.natAbs).1 (by decide))

theorem length_priceCells (r : Instrument) : (priceCells r).1.length = 5 := by
  unfold priceCells
  split
  · rfl
  · rename_i q _
    simp [(boardPrice_spec r.base q).1]

theorem length_changeCells (r : Instrument) : (changeCells r).1.length = 5 := by
  unfold changeCells
  split
  · rfl
  · rename_i c _
    simp [(boardChange_spec r.base c).1]

/-- The cells of a target image: the price in cells 0 to 4, the tick in 5, the change in 6 to 10, the status in 11
(R104, R105). -/
theorem boardImage_getElem (r : Instrument) (i : Nat) (h : i < 12) :
    (boardImage r)[i] =
      if i ≤ 4 then (priceCells r).1.getD i .blank
      else if i = 5 then tickCell r.tick
      else if i ≤ 10 then (changeCells r).1.getD (i - 6) .blank
      else statusCell r ((priceCells r).2 || (changeCells r).2) := by
  have hp := length_priceCells r
  have hc := length_changeCells r
  rw [boardImage, imageOf_getElem _ i h]
  simp only [List.getD_eq_getElem?_getD, List.append_assoc]
  split_ifs with h4 h5 h10
  · rw [List.getElem?_append_left (by omega)]
  · rw [List.getElem?_append_right (by omega), h5, hp]
    rfl
  · rw [List.getElem?_append_right (by omega), List.getElem?_append_right (by simp; omega),
      List.getElem?_append_left (by simp; omega)]
    congr 2
    simp
    omega
  · obtain rfl : i = 11 := by omega
    rw [List.getElem?_append_right (by omega), List.getElem?_append_right (by simp; omega),
      List.getElem?_append_right (by simp; omega)]
    simp [hp, hc]

/-- Whether the price, or the change, of a record is above what its cells can show. -/
theorem overRange_eq (r : Instrument) :
    (priceCells r).2 = (match r.last with
      | none => false
      | some q => decide (9999 < q / r.base.den)) ∧
    (changeCells r).2 = (match netChange r with
      | none => false
      | some c => decide (999 < c.natAbs / r.base.den)) := by
  constructor
  · unfold priceCells
    cases r.last with
    | none => rfl
    | some q => exact Bool.eq_iff_iff.mpr ((clampForm_spec 9999 r.base q).2.1.trans decide_eq_true_iff.symm)
  · unfold changeCells
    cases netChange r with
    | none => rfl
    | some c => exact Bool.eq_iff_iff.mpr ((clampForm_spec 999 r.base c.natAbs).2.1.trans decide_eq_true_iff.symm)

theorem topFraction_coprime (b : FractionBase) : Nat.Coprime (b.den - 1) b.den := by
  cases b <;> decide

theorem priceCells_of {r : Instrument} {q : Nat} (h : r.last = some q) :
    (priceCells r).1 = wholeCells 4 (boardPrice r.base q).1 ++ [fractionCell (boardPrice r.base q).1] := by
  simp only [priceCells, h]

theorem changeCells_of {r : Instrument} {c : Int} (h : netChange r = some c) :
    (changeCells r).1 =
      signCell (changeSign c) :: (wholeCells 3 (boardChange r.base c).1 ++ [fractionCell (boardChange r.base c).1]) := by
  simp only [changeCells, h]

/-- Settles O33. -/
theorem displayForms : Obligations.DisplayForms := by
  refine ⟨fun b q c => ?_, fun r => ?_⟩
  · obtain ⟨hp1, hp2, hp3, hp4⟩ := clampForm_spec 9999 b q
    obtain ⟨hc1, hc2, hc3, hc4⟩ := clampForm_spec 999 b c.natAbs
    refine ⟨⟨rfl, ?_, fun x hx => displayForm_frac b q x hx⟩, hp1, hp2, hp3, hp4, hc1, hc2, hc3, hc4,
      topFraction_coprime b⟩
    unfold displayForm
    dsimp only
    split_ifs with h <;> simp [h]
  · intro image change fractionOf wholeDig overRange
    have hover : ((priceCells r).2 || (changeCells r).2) = overRange := by
      rw [(overRange_eq r).1, (overRange_eq r).2]
      rfl
    have hcell (i : Nat) (h : i < 12) := boardImage_getElem r i h
    refine ⟨fun hlast c hc => ?_, fun q hlast => ⟨fun j => ?_, ?_⟩, ?_, fun hnone c h6 h10 => ?_,
      fun c hsome => ⟨?_, fun j => ?_, ?_⟩, ?_⟩
    · have hprice : (priceCells r).1 = List.replicate 5 .blank := by simp only [priceCells, hlast]
      refine (hcell c.val c.isLt).trans ?_
      rw [if_pos hc, hprice, List.getD_replicate]
      omega
    · obtain ⟨hlen, hdig⟩ := boardPrice_spec r.base q
      have hj := j.isLt
      refine (hcell (3 - j.val) (by omega)).trans ?_
      rw [if_pos (by omega), priceCells_of hlast, List.getD_append _ _ _ _ (by omega)]
      exact hdig j.val hj
    · obtain ⟨hlen, -⟩ := boardPrice_spec r.base q
      refine (hcell 4 (by decide)).trans ?_
      rw [if_pos (by decide), priceCells_of hlast, List.getD_append_right _ _ _ _ (by omega), hlen]
      rfl
    · exact hcell 5 (by decide)
    · have hnone' : netChange r = none := hnone
      have hchange : (changeCells r).1 = List.replicate 5 .blank := by simp only [changeCells, hnone']
      refine (hcell c.val c.isLt).trans ?_
      rw [if_neg (by omega), if_neg (by omega), if_pos h10, hchange, List.getD_replicate]
      omega
    · refine (hcell 6 (by decide)).trans ?_
      rw [if_neg (by decide), if_neg (by decide), if_pos (by decide), changeCells_of hsome]
      show signCell (changeSign c) = _
      unfold changeSign
      split_ifs <;> rfl
    · obtain ⟨hlen, hdig⟩ := boardChange_spec r.base c
      have hj := j.isLt
      refine (hcell (9 - j.val) (by omega)).trans ?_
      have hsix : 9 - j.val - 6 = 3 - 1 - j.val + 1 := by omega
      rw [if_neg (by omega), if_neg (by omega), if_pos (by omega), changeCells_of hsome, hsix, List.getD_cons_succ,
        List.getD_append _ _ _ _ (by omega)]
      exact hdig j.val hj
    · obtain ⟨hlen, -⟩ := boardChange_spec r.base c
      refine (hcell 10 (by decide)).trans ?_
      rw [if_neg (by decide), if_neg (by decide), if_pos (by decide), changeCells_of hsome,
        show 10 - 6 = 3 + 1 from rfl, List.getD_cons_succ, List.getD_append_right _ _ _ _ (by omega), hlen]
      rfl
    · refine (hcell 11 (by decide)).trans ?_
      rw [if_neg (by decide), if_neg (by decide), if_neg (by decide), hover]
      rfl

/-! ### Trades -/

/-- Settles O35. -/
theorem tradeTaken : Obligations.TradeTaken := by
  intro r q z rounding t
  refine ⟨rfl, rfl, rfl, fun h => Nat.min_eq_right h, fun h => Nat.min_eq_left h.le, ⟨_, _, rfl, rfl, ?_⟩, rfl⟩
  refine ⟨?_, ?_, ?_, ?_, fun l hl => ?_, fun h hh => ?_⟩
  · cases r.low with
    | none => exact le_refl q
    | some l => exact min_le_right l q
  · cases r.high with
    | none => exact le_refl q
    | some h => exact le_max_right h q
  · cases r.low with
    | none => exact .inl rfl
    | some l => exact (min_choice l q).symm.imp id (congrArg some ·.symm)
  · cases r.high with
    | none => exact .inl rfl
    | some h => exact (max_choice h q).symm.imp id (congrArg some ·.symm)
  · rw [hl]
    exact min_le_left l q
  · rw [hh]
    exact le_max_left h q

/-- The band lets a trade be taken when there is none, or no last price, or the distance is within it (R93). -/
theorem bandTakes_iff (r : Instrument) (q : Nat) : bandTakes r q = true ↔
    r.band = 0 ∨ r.last = none ∨
      ∃ l, r.last = some l ∧ ((q : Int) - (l : Int)).natAbs * (256 / r.base.den) ≤ r.band := by
  unfold bandTakes FractionBase.step
  cases hl : r.last with
  | none => simp
  | some l => simp

theorem supersedeHold_tbl (i q : Nat) (r : Instrument) (s : State) : (supersedeHold i q r s).tbl = s.tbl := by
  unfold supersedeHold
  split
  · rfl
  · exact postFault_tbl _ _ _ _

/-- The record that an arriving trade leaves, with the trade part of its change notice (R93 to R95). -/
def Instrument.arrived (r : Instrument) (now : Time) (u z : Nat) (captured : Time) : Instrument × Option TradePart :=
  let q := quantize r.base u
  if bandTakes r q then ({ takeTrade q z (needsRounding r.base u) r with hold := none }, some ⟨q, z, captured⟩)
  else ({ r with hold := some (makeHold now r q z captured (needsRounding r.base u)) }, none)

theorem tradeArrives_eq {i u z : Nat} {captured : Time} {r : Instrument} {s : State} (hr : s.instrument? i = some r) :
    tradeArrives i u z captured s =
      (setInstrument i (r.arrived s.ctl.timeBase u z captured).1 (supersedeHold i (quantize r.base u) r s),
        (r.arrived s.ctl.timeBase u z captured).2) := by
  rw [tradeArrives_of hr, Instrument.arrived]
  dsimp only
  split <;> rfl

/-- Settles O36. -/
theorem bandDecides : Obligations.BandDecides := by
  intro i u z captured r s hr q near t
  have hlt : i < s.tbl.instruments.length := (List.getElem?_eq_some_iff.mp hr).1
  have ht : t = _ := tradeArrives_eq hr
  have hset (j : Nat) : t.1.instrument? j =
      if j = i then some (r.arrived s.ctl.timeBase u z captured).1 else s.instrument? j := by
    rw [ht, setInstrument_instrument?, supersedeHold_tbl, supersedeHold_instrument?, if_pos hlt]
    simp only [eq_comm]
  have hnear : bandTakes r q = true ↔ near := bandTakes_iff r q
  refine ⟨hnear, fun h => ?_, fun h => ?_, fun h hh hroom => ?_, fun j hj => by rw [hset, if_neg hj]⟩
  · have harrived : r.arrived s.ctl.timeBase u z captured = _ := if_pos (hnear.mpr h)
    rw [hset, if_pos rfl, ht, harrived]
    exact ⟨rfl, rfl⟩
  · have harrived : r.arrived s.ctl.timeBase u z captured = _ := if_neg (mt hnear.mp h)
    rw [hset, if_pos rfl, ht, harrived]
    exact ⟨rfl, rfl⟩
  · have hqueued := (postFault_room (k := .holdSuperseded) (subj := .instrument i)
      (d := [h.price, h.size, if bandTakes r q then 0 else 1]) hroom).2
    have hsuper : supersedeHold i q r s =
        postFault .holdSuperseded (.instrument i) [h.price, h.size, if bandTakes r q then 0 else 1] s := by
      simp only [supersedeHold, hh]
    rw [← hsuper] at hqueued
    rw [ht]
    exact hqueued

/-! ### Expiry -/

/-- A sum of bits at different places has each bit where it was put. -/
theorem bitSum_testBit : ∀ b0 b1 b2 b3 b4 b5 b6 : Bool, ∀ n : Fin 7,
    (bitOf b0 0 + (bitOf b1 1 + (bitOf b2 2 + (bitOf b3 3 + (bitOf b4 4 + (bitOf b5 5 + bitOf b6 6)))))).testBit n.val =
      [b0, b1, b2, b3, b4, b5, b6].getD n.val false := by
  decide

theorem mask_testBit (t : StagingSlot) (n : Fin 7) : t.mask.testBit n.val = t.values[n].isSome := by
  have hsum : t.mask = bitOf t.values[0].isSome 0 + (bitOf t.values[1].isSome 1 + (bitOf t.values[2].isSome 2 +
      (bitOf t.values[3].isSome 3 + (bitOf t.values[4].isSome 4 + (bitOf t.values[5].isSome 5 +
        bitOf t.values[6].isSome 6))))) := rfl
  rw [hsum, bitSum_testBit]
  fin_cases n <;> rfl

/-- Settles O30. -/
theorem stagingAndHoldsExpire : Obligations.StagingAndHoldsExpire := by
  intro i s hroom
  refine ⟨fun t hslot hdue => ⟨?_, mask_testBit t⟩, fun r h hr hh hdue => ?_⟩
  · refine answersFault_of hroom ?_
    show execStaleStaging i s = _
    simp only [execStaleStaging, hslot, hroom.1, hdue, Bool.not_false, decide_true, Bool.and_self, if_true]
    rfl
  · have hdue' : holdDue s r h = true := decide_eq_true hdue
    have hexec : exec (.holdExpired i) s =
        .next (grant (setInstrument i { r with hold := none }
          (postFault .holdExpired (.instrument i) [h.price, h.size, h.captured.toNat] s))) := by
      show execHoldExpired i s = _
      simp only [execHoldExpired, hr, hh, hroom.1, hdue', Bool.not_false, Bool.and_self, if_true]
      rfl
    obtain ⟨hposts, hqueued⟩ := postFault_room (k := .holdExpired) (subj := .instrument i)
      (d := [h.price, h.size, h.captured.toNat]) hroom
    have hset := hposts.map (setInstrument i { r with hold := none }) (fun _ _ => rfl)
      (fun w _ => by cases w <;> rfl)
    exact ⟨_, hexec, hset, hqueued⟩

end Sys2Proof.Machine
end


section
/-! The frames of the terminal lines: what the Frame Builder sends, and what the assembler reads (chapter 9). -/

namespace Sys2Proof.Machine

open Sys2Proof

/-! ### Hexadecimal digits and the check byte -/

theorem hexValue_hexDigit : ∀ n : Fin 16, hexValue (hexDigit n.val) = some n.val := by decide

theorem hexDigit_ne_mark : ∀ n : Fin 16, hexDigit n.val ≠ 0x7E := by decide

theorem isHex_hexDigit {n : Nat} (h : n < 16) : IsHex (hexDigit n) n := by
  refine ⟨h, ?_⟩
  interval_cases n <;> rfl

theorem hexValue_of_isHex {n : Nat} (h : n < 16) : hexValue (hexDigit n) = some n := hexValue_hexDigit ⟨n, h⟩

theorem printable_ne_mark {c : Byte} (h : printable c = true) : c ≠ 0x7E := by
  rintro rfl
  revert h
  decide

/-- The sum of bytes is the sum of their values modulo 256. -/
theorem foldl_add_toNat (bs : List Byte) (acc : Byte) :
    (bs.foldl (· + ·) acc).toNat = (acc.toNat + (bs.map (·.toNat)).sum) % 256 := by
  induction bs generalizing acc with
  | nil => simp [Nat.mod_eq_of_lt acc.isLt]
  | cons b bs ih =>
    rw [List.foldl_cons, ih, BitVec.toNat_add, List.map_cons, List.sum_cons]
    omega

/-- The check byte is 256 less the sum, modulo 256 (R185). -/
theorem checkByte_toNat (bs : List Byte) :
    (checkByte bs).toNat = (256 - (bs.map (·.toNat)).sum % 256) % 256 := by
  have h := foldl_add_toNat bs 0
  rw [checkByte, BitVec.toNat_sub, h]
  simp

/-! ### The assembler on a frame of the Frame Builder -/

theorem hexPair_eq {n : Nat} (h : n < 256) : hexPair n = [hexDigit (n / 16), hexDigit (n % 16)] := by
  rw [hexPair, Nat.mod_eq_of_lt (by omega)]

section
variable {kind : Byte} {len : Nat}

/-- The three characters after a mark that begin a frame: its kind and its length. -/
def frameHead (kind : Byte) (len : Nat) : List Byte := [kind, hexDigit (len / 16), hexDigit (len % 16)]

theorem assembledLength_head (hlen : len ≤ 60) (got : List Byte) :
    assembledLength (frameHead kind len ++ got) = len := by
  have hhigh := hexValue_of_isHex (show len / 16 < 16 by omega)
  have hlow := hexValue_of_isHex (show len % 16 < 16 by omega)
  simp only [assembledLength, frameHead, List.cons_append, List.nil_append, List.getD_cons_succ, List.getD_cons_zero,
    hexPairValue, hhigh, hlow, Option.getD_some]
  omega

theorem assemble_kind (hk : printable kind = true) : assemble [] ⟨kind, false⟩ = .more := by
  simp [assemble, hk]

theorem assemble_high (hlen : len ≤ 60) : assemble [kind] ⟨hexDigit (len / 16), false⟩ = .more := by
  have hhigh := hexValue_of_isHex (show len / 16 < 16 by omega)
  simp [assemble, hhigh]

theorem assemble_low (hlen : len ≤ 60) :
    assemble [kind, hexDigit (len / 16)] ⟨hexDigit (len % 16), false⟩ = .more := by
  have hhigh := hexValue_of_isHex (show len / 16 < 16 by omega)
  have hlow := hexValue_of_isHex (show len % 16 < 16 by omega)
  simp [assemble, hhigh, hlow]
  omega

theorem assemble_body (hlen : len ≤ 60) {got : List Byte} (hgot : got.length < len) {c : Byte}
    (hc : printable c = true) : assemble (frameHead kind len ++ got) ⟨c, false⟩ = .more := by
  have hl := assembledLength_head (kind := kind) hlen got
  have hlength : (frameHead kind len ++ got).length = got.length + 3 := by simp [frameHead]
  simp only [assemble, hl, hlength]
  rw [if_neg (by omega), if_neg (by omega), if_neg (by omega), if_pos (by omega)]
  simp [hc]

theorem assemble_checkHigh {body : List Byte} (hlen : body.length ≤ 60) {n : Nat} (hn : n < 16) :
    assemble (frameHead kind body.length ++ body) ⟨hexDigit n, false⟩ = .more := by
  have hl := assembledLength_head (kind := kind) hlen body
  have hlength : (frameHead kind body.length ++ body).length = body.length + 3 := by simp [frameHead]
  simp only [assemble, hl, hlength]
  rw [if_neg (by omega), if_neg (by omega), if_neg (by omega), if_neg (by omega), if_pos (by omega)]
  simp [hexValue_of_isHex hn]

theorem assemble_checkLow {body : List Byte} (hlen : body.length ≤ 60) :
    assemble (frameHead kind body.length ++ body ++
      [hexDigit ((checkByte (frameHead kind body.length ++ body)).toNat / 16)])
      ⟨hexDigit ((checkByte (frameHead kind body.length ++ body)).toNat % 16), false⟩ = .good kind body := by
  obtain ⟨check, hcheck⟩ : ∃ x, checkByte (frameHead kind body.length ++ body) = x := ⟨_, rfl⟩
  have hbyte := check.isLt
  have hl := assembledLength_head (kind := kind) hlen (body ++ [hexDigit (check.toNat / 16)])
  rw [← List.append_assoc] at hl
  have hhead : (frameHead kind body.length ++ body).length = 3 + body.length := by
    simp [frameHead]
    omega
  have hlength : (frameHead kind body.length ++ body ++ [hexDigit (check.toNat / 16)]).length = body.length + 4 := by
    rw [List.length_append, hhead]
    simp
    omega
  have hget : (frameHead kind body.length ++ body ++ [hexDigit (check.toNat / 16)]).getD (3 + body.length) 0 =
      hexDigit (check.toNat / 16) := by
    rw [List.getD_append_right _ _ _ _ (by omega), hhead]
    simp
  have htake : (frameHead kind body.length ++ body ++ [hexDigit (check.toNat / 16)]).take (3 + body.length) =
      frameHead kind body.length ++ body := List.take_left' hhead
  have hbody : ((frameHead kind body.length ++ body ++ [hexDigit (check.toNat / 16)]).drop 3).take body.length = body := by
    simp [frameHead]
  have hvalue : BitVec.ofNat 8 (16 * (check.toNat / 16) + check.toNat % 16) = check := by
    rw [Nat.div_add_mod]
    simp
  rw [hcheck]
  simp only [assemble, hl, hlength, hget, htake, hbody, hcheck, hexValue_of_isHex (show check.toNat % 16 < 16 by omega),
    hexValue_of_isHex (show check.toNat / 16 < 16 by omega)]
  rw [if_neg (by omega), if_neg (by omega), if_neg (by omega), if_neg (by omega), if_neg (by omega)]
  simpa [frameHead] using hvalue

end

/-- A frame by its characters (R165). -/
theorem frameChars_eq {body : List Byte} (hlen : body.length ≤ 60) (kind : Byte) :
    frameChars kind body =
      0x7E :: (frameHead kind body.length ++ body ++
        [hexDigit ((checkByte (frameHead kind body.length ++ body)).toNat / 16)] ++
        [hexDigit ((checkByte (frameHead kind body.length ++ body)).toNat % 16)]) := by
  have hhead : kind :: (hexPair body.length ++ body) = frameHead kind body.length ++ body := by
    rw [hexPair_eq (by omega)]
    rfl
  have hcheck := hexPair_eq (checkByte (frameHead kind body.length ++ body)).isLt
  simp only [frameChars, hhead, hcheck, List.append_assoc, List.cons_append, List.nil_append]

/-- Every character of a frame but its last joins the frame (R166). -/
theorem assemble_more {kind : Byte} {body : List Byte} (hk : printable kind = true)
    (hb : ∀ c ∈ body, printable c = true) (hlen : body.length ≤ 60) {n : Nat} (hn : n < 16) {a b : List Byte} {c : Byte}
    (h : frameHead kind body.length ++ body ++ [hexDigit n] = a ++ c :: b) :
    c ≠ 0x7E ∧ assemble a ⟨c, false⟩ = .more := by
  have hdigit {m : Nat} (hm : m < 16) : hexDigit m ≠ 0x7E := hexDigit_ne_mark ⟨m, hm⟩
  simp only [frameHead, List.cons_append, List.nil_append] at h
  match a, h with
  | [], h =>
    simp only [List.nil_append, List.cons.injEq] at h
    obtain ⟨rfl, -⟩ := h
    exact ⟨printable_ne_mark hk, assemble_kind hk⟩
  | [x], h =>
    simp only [List.cons_append, List.nil_append, List.cons.injEq] at h
    obtain ⟨rfl, rfl, -⟩ := h
    exact ⟨hdigit (by omega), assemble_high hlen⟩
  | [x, y], h =>
    simp only [List.cons_append, List.nil_append, List.cons.injEq] at h
    obtain ⟨rfl, rfl, rfl, -⟩ := h
    exact ⟨hdigit (by omega), assemble_low hlen⟩
  | x :: y :: z :: a, h =>
    simp only [List.cons_append, List.cons.injEq] at h
    obtain ⟨rfl, rfl, rfl, h⟩ := h
    rcases List.append_eq_append_iff.mp h with ⟨mid, rfl, hmid⟩ | ⟨mid, rfl, hmid⟩
    · have hlast : mid = [] ∧ c = hexDigit n := by
        cases mid with
        | nil => exact ⟨rfl, (List.cons.inj hmid).1.symm⟩
        | cons m mid => simp at hmid
      obtain ⟨rfl, rfl⟩ := hlast
      rw [List.append_nil]
      exact ⟨hdigit hn, assemble_checkHigh hlen hn⟩
    · cases mid with
      | nil =>
        have hc : c = hexDigit n := (List.cons.inj hmid).1
        rw [hc]
        simp only [List.append_nil] at hlen ⊢
        exact ⟨hdigit hn, assemble_checkHigh hlen hn⟩
      | cons m mid =>
        obtain rfl : c = m := by simpa using (List.cons.inj hmid).1
        have hc := hb c (by simp)
        refine ⟨printable_ne_mark hc, assemble_body hlen ?_ hc⟩
        simp

/-! ### The texts of the bodies -/

theorem length_denText_le (b : FractionBase) (q : Nat) {x : Fraction} (hx : (displayForm b q).frac = some x) :
    (decimalText x.num).length ≤ 2 := by
  obtain ⟨-, -, hlt, -, hden⟩ := displayForm_frac b q x hx
  have hden16 : x.den ≤ 16 := by
    simp only [List.mem_cons, List.not_mem_nil, or_false] at hden
    omega
  exact length_decimalText_le (by decide) (show x.num < 10 ^ 2 by omega)

/-- The text of a price in range has at most 11 characters: eight of the whole part and three of the fraction, which
the largest price has not (R179). -/
theorem length_priceText_le {b : FractionBase} {q : Nat} (h : PriceInRange b q) :
    (priceText (displayForm b q)).length ≤ 11 := by
  have hwhole : (displayForm b q).whole < 10 ^ 8 := by
    unfold PriceInRange at h
    unfold displayForm
    cases b <;> simp only [FractionBase.den] at h ⊢ <;> omega
  have hw := length_decimalText_le (k := 8) (by decide) hwhole
  unfold priceText
  cases hf : (displayForm b q).frac with
  | none => simp; omega
  | some x =>
    have := length_denText_le b q hf
    simp
    omega

/-- The characters of a list are printable. -/
def AllPrintable (bs : List Byte) : Prop := ∀ c ∈ bs, printable c = true

theorem AllPrintable.append {a b : List Byte} (ha : AllPrintable a) (hb : AllPrintable b) : AllPrintable (a ++ b) :=
  fun c hc => (List.mem_append.mp hc).elim (ha c) (hb c)

theorem AllPrintable.cons {c : Byte} {a : List Byte} (hc : printable c = true) (ha : AllPrintable a) :
    AllPrintable (c :: a) :=
  fun _ hd => (List.mem_cons.mp hd).elim (fun h => h ▸ hc) (ha _)

theorem AllPrintable.nil : AllPrintable [] := fun _ h => by cases h

theorem mem_decDigits {fuel n d : Nat} (h : d ∈ decDigits fuel n) : d < 10 := by
  induction fuel generalizing n with
  | zero => cases h
  | succ fuel ih =>
    unfold decDigits at h
    split at h
    · rename_i hn
      rwa [List.mem_singleton.mp h]
    · rcases List.mem_append.mp h with h | h
      · exact ih h
      · rw [List.mem_singleton.mp h]
        exact Nat.mod_lt _ (by decide)

theorem allPrintable_decimalText (n : Nat) : AllPrintable (decimalText n) := by
  intro c hc
  obtain ⟨d, hd, rfl⟩ := List.mem_map.mp hc
  have := mem_decDigits hd
  interval_cases d <;> decide

theorem allPrintable_priceText (f : DisplayForm) : AllPrintable (priceText f) := by
  unfold priceText
  refine (allPrintable_decimalText _).append ?_
  cases f.frac with
  | none => exact .nil
  | some x =>
    refine .cons ?_ (allPrintable_decimalText _)
    unfold denominatorMark
    split_ifs <;> decide

theorem allPrintable_fieldText (b : FractionBase) (v : Option Nat) : AllPrintable (fieldText b v) := by
  cases v with
  | none => exact .nil
  | some q => exact allPrintable_priceText _

theorem length_fieldText_le {b : FractionBase} {v : Option Nat} (h : ∀ q, v = some q → PriceInRange b q) :
    (fieldText b v).length ≤ 11 := by
  cases v with
  | none => exact Nat.zero_le _
  | some q => exact length_priceText_le (h q rfl)

theorem allPrintable_changeText (r : Instrument) : AllPrintable (changeText r) := by
  unfold changeText
  cases netChange r with
  | none => exact .nil
  | some c =>
    refine AllPrintable.append ?_ (allPrintable_priceText _)
    cases changeSign c with
    | none => exact .nil
    | plus => exact .cons (by decide) .nil
    | minus => exact .cons (by decide) .nil

/-- A change is no larger than the larger of the prices, and so in range where they are. -/
theorem length_changeText_le {r : Instrument} (hlast : ∀ q, r.last = some q → PriceInRange r.base q)
    (hclose : ∀ q, r.close = some q → PriceInRange r.base q) : (changeText r).length ≤ 12 := by
  unfold changeText netChange
  cases hc : r.close with
  | none => simp
  | some c =>
    cases hl : r.last with
    | none => simp
    | some l =>
      have hrange : PriceInRange r.base ((l : Int) - (c : Int)).natAbs := by
        have h1 := hlast l hl
        have h2 := hclose c hc
        unfold PriceInRange at h1 h2 ⊢
        have hle : ((l : Int) - (c : Int)).natAbs ≤ max l c := by omega
        rcases le_total l c with h | h
        · exact (Nat.mul_le_mul_right _ (hle.trans_eq (max_eq_right h))).trans h2
        · exact (Nat.mul_le_mul_right _ (hle.trans_eq (max_eq_left h))).trans h1
      have := length_priceText_le hrange
      have hsign : ∀ sign : ChangeSign, (match sign with
          | .none => ([] : List Byte)
          | .plus => [0x2B]
          | .minus => [0x2D]).length ≤ 1 := by
        intro sign
        cases sign <;> decide
      rw [List.length_append]
      exact Nat.add_le_add (hsign _) this |>.trans (by decide)

theorem allPrintable_paddedSymbol {r : Instrument} (h : ∀ c ∈ r.symbol, 0x41 ≤ c.toNat ∧ c.toNat ≤ 0x5A) :
    AllPrintable (paddedSymbol r) := by
  refine AllPrintable.append (fun c hc => ?_) (fun c hc => ?_)
  · have := h c hc
    exact decide_eq_true (by omega)
  · rw [List.eq_of_mem_replicate hc]
    decide

theorem length_paddedSymbol {r : Instrument} (h : r.symbol.length ≤ 5) : (paddedSymbol r).length = 5 := by
  rw [paddedSymbol, List.length_append, List.length_replicate]
  omega

theorem allPrintable_volumeText (v : Nat) : AllPrintable (volumeText v) := by
  unfold volumeText
  split
  · exact allPrintable_decimalText _
  · exact (allPrintable_decimalText _).append (.cons (by decide) .nil)

theorem length_volumeText_le (v : Nat) : (volumeText v).length ≤ 9 := by
  unfold volumeText
  split
  · have := length_decimalText_le (n := v) (k := 8) (by decide) (by omega)
    omega
  · have := length_decimalText_le (n := 99999999) (k := 8) (by decide) (by omega)
    rw [List.length_append, List.length_singleton]
    omega

theorem printable_tickChar (t : Tick) : printable (tickChar t) = true := by cases t <;> decide

/-- The body of a Q frame has at most 57 characters (R179). -/
theorem quoteBody_bounds {r : Instrument} (hs : r.symbol.length ≤ 5)
    (hsym : ∀ c ∈ r.symbol, 0x41 ≤ c.toNat ∧ c.toNat ≤ 0x5A) (hlast : ∀ q, r.last = some q → PriceInRange r.base q)
    (hclose : ∀ q, r.close = some q → PriceInRange r.base q) (hbid : ∀ q, r.bid = some q → PriceInRange r.base q)
    (hask : ∀ q, r.ask = some q → PriceInRange r.base q) :
    (quoteBody r).length ≤ 57 ∧ AllPrintable (quoteBody r) := by
  have h1 := length_paddedSymbol hs
  have h2 := length_fieldText_le hlast
  have h3 := length_changeText_le hlast hclose
  have h4 := length_fieldText_le hbid
  have h5 := length_fieldText_le hask
  have hflag (b : Bool) (c : Byte) (hc : printable c = true) : printable (flagChar b c) = true := by
    cases b
    · exact (by decide : printable 0x20 = true)
    · exact hc
  constructor
  · simp only [quoteBody, commaJoin, List.length_append, List.length_cons, List.length_nil]
    omega
  · refine ((allPrintable_paddedSymbol hsym).append
      (.cons (printable_tickChar _) (.cons (hflag _ _ (by decide)) (.cons (hflag _ _ (by decide))
        (.cons (hflag _ _ (by decide)) .nil))))).append ?_
    exact (allPrintable_fieldText _ _).append (.cons (by decide)
      ((allPrintable_changeText r).append (.cons (by decide)
        ((allPrintable_fieldText _ _).append (.cons (by decide) (allPrintable_fieldText _ _))))))

/-- The body of a G frame has at most 56 characters (R180). -/
theorem pageBody_bounds {r : Instrument} (hs : r.symbol.length ≤ 5)
    (hsym : ∀ c ∈ r.symbol, 0x41 ≤ c.toNat ∧ c.toNat ≤ 0x5A) (hhigh : ∀ q, r.high = some q → PriceInRange r.base q)
    (hlow : ∀ q, r.low = some q → PriceInRange r.base q) (hclose : ∀ q, r.close = some q → PriceInRange r.base q)
    (hsize : r.lastSize ≤ 65535) : (pageBody r).length ≤ 56 ∧ AllPrintable (pageBody r) := by
  have h1 := length_paddedSymbol hs
  have h2 := length_fieldText_le hhigh
  have h3 := length_fieldText_le hlow
  have h4 := length_fieldText_le hclose
  have h5 := length_volumeText_le r.volume
  have h6 := length_decimalText_le (n := r.lastSize) (k := 5) (by decide) (by omega)
  constructor
  · simp only [pageBody, commaJoin, List.length_append, List.length_cons]
    omega
  · exact (allPrintable_paddedSymbol hsym).append ((allPrintable_fieldText _ _).append (.cons (by decide)
      ((allPrintable_fieldText _ _).append (.cons (by decide) ((allPrintable_fieldText _ _).append (.cons (by decide)
        ((allPrintable_volumeText _).append (.cons (by decide) (allPrintable_decimalText _)))))))))

/-- The change text, with the sign decided by the prices (R179). -/
theorem changeText_eq (r : Instrument) : changeText r =
    match r.close, r.last with
    | some c, some l =>
      (if c < l then [0x2B] else if l < c then [0x2D] else []) ++
        priceText (displayForm r.base (((l : Int) - c).natAbs))
    | _, _ => [] := by
  unfold changeText netChange
  cases r.close with
  | none => rfl
  | some c =>
    cases r.last with
    | none => rfl
    | some l =>
      have hplus : (0 < (l : Int) - (c : Int)) ↔ c < l := by omega
      have hminus : ((l : Int) - (c : Int) < 0) ↔ l < c := by omega
      simp only [changeSign, hplus, hminus]
      split_ifs <;> rfl

/-- Settles O56. -/
theorem frameRoundTrip : Obligations.FrameRoundTrip := by
  refine ⟨fun kind body hk hb hlen => ?_, fun kind body hlen => ?_, fun s i r hi => ?_⟩
  · have hcheck := (checkByte (frameHead kind body.length ++ body)).isLt
    refine ⟨_, _, frameChars_eq hlen kind, fun a c b h => assemble_more hk hb hlen (by omega) h,
      hexDigit_ne_mark ⟨_, Nat.mod_lt _ (by decide)⟩, assemble_checkLow hlen⟩
  · have hsum := checkByte_toNat (frameHead kind body.length ++ body)
    have hcheck := (checkByte (frameHead kind body.length ++ body)).isLt
    refine ⟨_, _, hexDigit ((checkByte (frameHead kind body.length ++ body)).toNat / 16),
      hexDigit ((checkByte (frameHead kind body.length ++ body)).toNat % 16), (frameChars_eq hlen kind).trans ?_,
      isHex_hexDigit (by omega), isHex_hexDigit (by omega), ?_⟩
    · simp only [frameHead, List.cons_append, List.nil_append, List.append_assoc]
    · intro sum check
      have hc : (checkByte (frameHead kind body.length ++ body)).toNat = check := hsum
      rw [← hc]
      exact ⟨isHex_hexDigit (by omega), isHex_hexDigit (by omega)⟩
  · intro symbol text field change tick flags volume quote page inRange
    have hfield (v : Option Nat) : fieldText r.base v = field v := by cases v <;> rfl
    have hchange : changeText r = change := (changeText_eq r).trans rfl
    have htick : tickChar r.tick = tick := rfl
    have hquote : quoteBody r = quote := by
      simp only [quoteBody, commaJoin, hfield, hchange, htick, quote, List.append_assoc, List.cons_append,
        List.nil_append]
      rfl
    have hpage : pageBody r = page := by
      simp only [pageBody, commaJoin, hfield, page, List.append_assoc, List.cons_append, List.nil_append]
      rfl
    refine ⟨?_, ?_, fun c => ?_, fun q => ?_, fun hs hsym hlast hclose => ⟨fun hbid hask => ?_, fun hhigh hlow hsize => ?_⟩⟩
    · rw [← hquote]
      simp only [buildEntry, hi]
      rfl
    · rw [← hquote, ← hpage]
      simp only [buildEntry, hi]
      rfl
    · cases c <;> rfl
    · have hq := q.isLt
      refine ⟨_, _, ?_, hexValue_of_isHex (by omega), hexValue_of_isHex (by omega)⟩
      rw [buildEntry, hexPair_eq q.isLt]
    · rw [← hquote]
      exact quoteBody_bounds hs hsym hlast hclose hbid hask
    · rw [← hpage]
      exact pageBody_bounds hs hsym hhigh hlow hclose hsize

end Sys2Proof.Machine
end


section
/-! The frames of the board links (chapter 6). -/

namespace Sys2Proof.Machine

open Sys2Proof

/-! ### The span of a CELLS frame -/

theorem mem_all12 (c : Fin 12) : c ∈ all12 := by
  revert c
  decide

theorem all12_sorted : all12.Pairwise (· < ·) := by decide

/-- The first of a rising list is the least of it. -/
theorem head_le_of_rising {l : List (Fin 12)} (hl : l.Pairwise (· < ·)) {lo c : Fin 12} (hlo : l.head? = some lo)
    (hc : c ∈ l) : lo ≤ c := by
  cases l with
  | nil => cases hc
  | cons x l =>
    obtain rfl : x = lo := by simpa using hlo
    rcases List.mem_cons.mp hc with rfl | hc
    · exact le_refl _
    · exact (List.rel_of_pairwise_cons hl hc).le

/-- The last of a rising list is the greatest of it. -/
theorem le_last_of_rising {l : List (Fin 12)} (hl : l.Pairwise (· < ·)) {hi c : Fin 12} (hhi : l.getLast? = some hi)
    (hc : c ∈ l) : c ≤ hi := by
  obtain ⟨front, rfl⟩ := List.getLast?_eq_some_iff.mp hhi
  rcases List.mem_append.mp hc with hc | hc
  · exact ((List.pairwise_append.mp hl).2.2 c hc hi (List.mem_singleton_self _)).le
  · exact (List.mem_singleton.mp hc).le

theorem getElem?_toList (due : Image) (c : Fin 12) : due.toList[c.val]? = some due[c] := by
  simp

/-- The CELLS frame for a shown image that differs runs from the lowest cell that differs to the highest (R108). -/
theorem cellsFrame_span (p : Fin 16) {shown due : Image} (hne : shown ≠ due) :
    ∃ lo hi : Fin 12, lo ≤ hi ∧ shown[lo] ≠ due[lo] ∧ shown[hi] ≠ due[hi] ∧
      (∀ c : Fin 12, c < lo ∨ hi < c → shown[c] = due[c]) ∧
      ∃ gs, cellsFrame p (some shown) due = .cells (codeOf p) lo.val gs ∧ gs.length = hi.val + 1 - lo.val ∧
        ∀ c : Fin 12, lo ≤ c → c ≤ hi → gs[c.val - lo.val]? = some due[c] := by
  let diff := all12.filter (fun c => shown[c] != due[c])
  have hmem (c : Fin 12) : c ∈ diff ↔ shown[c] ≠ due[c] := by simp [diff, mem_all12]
  have hrising : diff.Pairwise (· < ·) := all12_sorted.filter _
  have hnil : diff ≠ [] := by
    intro hnil
    refine hne (Vector.ext fun i hi => ?_)
    by_contra h
    have : (⟨i, hi⟩ : Fin 12) ∈ diff := (hmem _).mpr h
    rw [hnil] at this
    cases this
  obtain ⟨lo, hlo⟩ : ∃ lo, diff.head? = some lo := ⟨_, List.head?_eq_some_head hnil⟩
  obtain ⟨hi, hhi⟩ : ∃ hi, diff.getLast? = some hi := ⟨_, List.getLast?_eq_some_getLast hnil⟩
  have hlomem : lo ∈ diff := List.mem_of_mem_head? hlo
  have hhimem : hi ∈ diff := List.mem_of_getLast? hhi
  have hle : lo ≤ hi := head_le_of_rising hrising hlo hhimem
  have hframe : cellsFrame p (some shown) due =
      .cells (codeOf p) lo.val ((due.toList.drop lo.val).take (hi.val + 1 - lo.val)) := by
    show LinkFrame.cells (codeOf p) (diff.head?.getD 0).val
      ((due.toList.drop (diff.head?.getD 0).val).take ((diff.getLast?.getD 0).val + 1 - (diff.head?.getD 0).val)) = _
    rw [hlo, hhi]
    rfl
  have hval : lo.val ≤ hi.val := hle
  have hlt := hi.isLt
  refine ⟨lo, hi, hle, (hmem lo).mp hlomem, (hmem hi).mp hhimem, fun c hc => ?_, _, hframe, ?_, fun c hc1 hc2 => ?_⟩
  · by_contra h
    have hin := (hmem c).mpr h
    rcases hc with hc | hc
    · exact absurd (head_le_of_rising hrising hlo hin) (not_le.mpr hc)
    · exact absurd (le_last_of_rising hrising hhi hin) (not_le.mpr hc)
  · simp
  · have h1 : lo.val ≤ c.val := hc1
    have h2 : c.val ≤ hi.val := hc2
    rw [List.getElem?_take_of_lt (by omega), List.getElem?_drop, Nat.add_sub_cancel' h1]
    exact getElem?_toList due c

/-! ### Bytes -/

/-- The bytes of a frame sum to 0, its check byte among them (R185). -/
theorem bytes_sum (f : LinkFrame) : f.bytes.foldl (· + ·) 0 = 0 := by
  rw [LinkFrame.bytes, List.foldl_append, checkByte]
  simp

theorem codeOf_toNat (p : Fin 16) : (codeOf p).toNat = p.val := by
  have := p.isLt
  rw [codeOf, BitVec.toNat_ofNat]
  omega

/-- A reply is good when it is in time, its bytes sum to 0, it names the position and its status is OK or TRIP
(R109). -/
theorem replyGood_iff (s : State) (f : LinkFrame) (t : Time) (b0 b1 b2 : Byte) : replyGood s f t b0 b1 b2 = true ↔
    (s.ctl.timeBase - t).toNat ≤ 4 ∧ (b0.toNat + b1.toNat + b2.toNat) % 256 = 0 ∧ b0.toNat = f.pos.val ∧
      (b1 = 0 ∨ b1 = 1) := by
  have hsum : b0 + b1 + b2 = 0 ↔ (b0.toNat + b1.toNat + b2.toNat) % 256 = 0 := by
    rw [← BitVec.toNat_inj]
    simp
  have hpos : b0 = BitVec.ofNat 8 f.pos.val ↔ b0.toNat = f.pos.val := by
    have := f.pos.isLt
    rw [← BitVec.toNat_inj, BitVec.toNat_ofNat, Nat.mod_eq_of_lt (by omega)]
  simp only [replyGood, Bool.and_eq_true, Bool.or_eq_true, beq_iff_eq, decide_eq_true_eq, hsum, hpos, and_assoc]
  exact Iff.rfl

/-- The bytes before the check byte, as numbers. -/
theorem bytes_dropLast (f : LinkFrame) : f.bytes.dropLast = f.body := by
  simp [LinkFrame.bytes]

theorem acknowledge_cells_shown {q : Position} {img : Image} (h : q.shownImage = some img) (c : BitVec 5) (first : Nat)
    (gs : List Glyph) :
    q.acknowledge (.cells c first gs) =
      { q with
        shownImage := some (Vector.ofFn (fun x =>
          if first ≤ x.val then gs.getD (x.val - first) img[x] else img[x])) } := by
  simp only [Position.acknowledge, h]

theorem acknowledge_cells_unknown {q : Position} (h : q.shownImage = none) (c : BitVec 5) (first : Nat)
    (gs : List Glyph) :
    q.acknowledge (.cells c first gs) =
      if first = 0 ∧ gs.length = 12 then { q with shownImage := some (imageOf gs) } else q := by
  simp only [Position.acknowledge, h]

/-- Settles O42. -/
theorem linkFrames : Obligations.LinkFrames := by
  refine ⟨fun p due => ⟨rfl, fun shown hne => cellsFrame_span p hne⟩, bytes_sum, fun s f t b0 b1 b2 h => ?_,
    replyGood_iff, fun q => ⟨fun c => rfl, fun c w => rfl, fun c first gs => ?_⟩, fun c w first gs => ?_, codeOf_toNat,
    fun f => rfl, rfl, rfl, fun d => rfl, by decide⟩
  · obtain ⟨-, hsum, hpos, hstatus⟩ := (replyGood_iff s f t b0 b1 b2).mp h
    refine ⟨?_, hpos, hstatus⟩
    rw [← BitVec.toNat_inj, foldl_add_toNat]
    simpa [Nat.add_assoc] using hsum
  · intro a
    cases h : q.shownImage with
    | some img =>
      have ha : a = _ := acknowledge_cells_shown h c first gs
      refine ⟨by rw [ha], fun img' himg => ⟨_, by rw [ha], fun x => ⟨fun g hg hle => ?_, fun hout => ?_⟩⟩, nofun, nofun⟩
      · simp [hle, List.getD_eq_getElem?_getD, hg]
      · obtain rfl : img = img' := by simpa using himg
        rcases hout with hout | hout
        · simp [Nat.not_le.mpr hout]
        · have hnone : gs[x.val - first]? = none := List.getElem?_eq_none (by omega)
          simp [List.getD_eq_getElem?_getD, hnone]
    | none =>
      have ha : a = _ := acknowledge_cells_unknown h c first gs
      refine ⟨?_, nofun, fun _ hall => ⟨imageOf gs, ?_, fun x g hg => ?_⟩, fun _ hpart => ?_⟩
      · rw [ha]
        split
        · rfl
        · rfl
      · rw [ha, if_pos hall]
      · exact (imageOf_getElem gs x.val x.isLt).trans (by rw [List.getD_eq_getElem?_getD, hg]; rfl)
      · rw [ha, if_neg hpart, h]
  · intro sent
    have hc := c.isLt
    have hf := w.flash.isLt
    refine ⟨?_, fun hb => ?_, fun hfirst hlen => ?_, rfl, rfl, rfl⟩
    · simp only [sent, bytes_dropLast, LinkFrame.body, List.map_cons, List.map_nil, BitVec.toNat_ofNat]
      congr 1
      omega
    · simp only [sent, bytes_dropLast, LinkFrame.body, List.map_cons, List.map_nil, BitVec.toNat_ofNat]
      congr 1
      · omega
      congr 1
      · omega
      congr 1
      omega
    · simp only [sent, bytes_dropLast, LinkFrame.body, List.map_append, List.map_cons, List.map_nil,
        BitVec.toNat_ofNat, List.map_map]
      congr 1
      congr 1
      · omega
      congr 1
      omega

end Sys2Proof.Machine
end


section
/-! The tape: a take, its text, and the ribbon (chapter 8). -/

namespace Sys2Proof.Machine

open Sys2Proof

/-! ### Texts -/

theorem length_decDigits {fuel n : Nat} (hf : 0 < fuel) (h : n < 10 ^ fuel) :
    1 ≤ (decDigits fuel n).length ∧ (1 < (decDigits fuel n).length → 10 ^ ((decDigits fuel n).length - 1) ≤ n) ∧
      n < 10 ^ (decDigits fuel n).length := by
  have hdigit (j : Nat) : j < (decDigits fuel n).length ↔ (j = 0 ∨ 10 ^ j ≤ n) := by
    have hj := getElem?_reverse_decDigits fuel n h hf j
    rw [← List.length_reverse, ← not_iff_not, not_lt, ← List.getElem?_eq_none_iff, hj]
    simp
  have h1 : 1 ≤ (decDigits fuel n).length := (hdigit 0).mpr (.inl rfl)
  refine ⟨h1, fun hlt => ?_, ?_⟩
  · rcases (hdigit ((decDigits fuel n).length - 1)).mp (by omega) with h | h
    · omega
    · exact h
  · by_contra hle
    exact lt_irrefl _ ((hdigit _).mpr (.inr (Nat.not_lt.mp hle)))

/-- A number's text has its decimal digits, the lowest last, without leading zeros. -/
theorem isDecimal_decimalText {n : Nat} (h : n < 10 ^ 10) : IsDecimal (decimalText n) n := by
  obtain ⟨h1, hlead, hlt⟩ := length_decDigits (fuel := 10) (by decide) h
  have hlen : (decimalText n).length = (decDigits 10 n).length := List.length_map _
  refine ⟨hlen ▸ h1, hlen ▸ hlead, hlen ▸ hlt, fun j hj => ?_⟩
  rw [hlen] at hj ⊢
  have hrev := getElem?_reverse_decDigits 10 n h (by decide) j
  have hsome : (decDigits 10 n)[(decDigits 10 n).length - 1 - j]? = some (n / 10 ^ j % 10) := by
    rw [← List.getElem?_reverse hj, hrev, if_pos]
    by_contra hno
    rw [if_neg hno, List.getElem?_eq_none_iff, List.length_reverse] at hrev
    omega
  rw [decimalText, List.getElem?_map, hsome]
  rfl

theorem map_char_itemOf (text : List Byte) : (itemOf text).map (·.char) = text := by
  induction text with
  | nil => rfl
  | cons c text ih =>
    cases text with
    | nil => rfl
    | cons d text => simpa [itemOf] using ih

/-- The last character of a text carries the end mark, and no other (R153). -/
theorem endMark_itemOf (text : List Byte) (j : Nat) (x : TapeChar) (h : (itemOf text)[j]? = some x) :
    x.endMark = true ↔ j + 1 = text.length := by
  induction text generalizing j with
  | nil => simp [itemOf] at h
  | cons c text ih =>
    cases text with
    | nil =>
      cases j with
      | zero =>
        obtain rfl : ⟨c, true⟩ = x := by simpa [itemOf] using h
        simp
      | succ j => simp [itemOf] at h
    | cons d text =>
      cases j with
      | zero =>
        obtain rfl : ⟨c, false⟩ = x := by simpa [itemOf] using h
        simp
      | succ j =>
        have := ih j (by simpa [itemOf] using h)
        simpa using this

theorem sizeShown_iff (mode : TapeMode) (threshold z : Nat) : sizeShown mode threshold z = true ↔
    2 ≤ z ∧ (mode = .punctual ∨ threshold ≤ z) := by
  simp [sizeShown]

theorem abbreviated_iff (mode : TapeMode) (lastWhole : Option Nat) (full : Bool) (w : Nat) :
    abbreviated mode lastWhole full w = true ↔
      mode = .deleted ∧ full = false ∧ ∃ v, lastWhole = some v ∧ w / 10 = v / 10 := by
  cases lastWhole <;> simp [abbreviated, and_assoc]

/-! ### A take -/

/-- A banner stands at a change to LATE or to DELETED (R150), the only changes that a take can make but the return to
PUNCTUAL. -/
theorem bannerText_eq (b : TickerBlock) (before : TapeMode) (d : Nat) :
    bannerText before (modeAfter b before d) =
      if before = .punctual ∧ modeAfter b before d = .late ∨ before = .deleted ∧ modeAfter b before d = .late then
        tapeLateText
      else if before = .late ∧ modeAfter b before d = .deleted then digitsDeletedText
      else [] := by
  have hpunctual : modeAfter b .punctual d ≠ .deleted := by
    unfold modeAfter
    dsimp only
    split <;> decide
  cases before with
  | punctual => cases h : modeAfter b .punctual d <;> simp_all [bannerText]
  | late => cases modeAfter b .late d <;> simp [bannerText]
  | deleted => cases modeAfter b .deleted d <;> simp [bannerText]

/-- Settles O50. -/
theorem tapeTake : Obligations.TapeTake := by
  refine ⟨fun p rest r s hreset hrun hhold hheld hqueue hroom hr => ?_, fun n => isDecimal_decimalText, ⟨rfl, rfl⟩,
    fun text => ⟨map_char_itemOf text, endMark_itemOf text⟩, fun mode threshold symbol lastWhole full p => ?_⟩
  · intro late d b mode banner text led fits
    have hready : s.takeReady = true := by simp [State.takeReady, hrun, hhold, hheld, hqueue, hroom]
    have hmode : modeAfter b s.tape.mode d = mode := rfl
    have hbanner : bannerText s.tape.mode mode = banner := by
      exact bannerText_eq b s.tape.mode d
    have hafter : s.tape.afterTake s.ctl.timeBase (some r) p =
        { s.tape with
          queue := rest
          lateness := late
          mode := mode
          buffer := if fits then led ++ itemOf text else led
          held := if fits then [] else itemOf text } := by
      have hdrop : s.tape.queue.drop 1 = rest := by rw [hqueue]; rfl
      show ({ s.tape with queue := s.tape.queue.drop 1, lateness := late, mode := mode } : TickerUnit).writeText
        (bannerText s.tape.mode mode) text = _
      rw [hbanner, hdrop, TickerUnit.writeText]
      by_cases hfits : fits
      · rw [if_pos hfits, if_pos hfits, if_pos hfits, ← hheld]
      · rw [if_neg hfits, if_neg hfits, if_neg hfits]
    have hexec : exec .take s =
        .next (grant (post .tickerState (setInstrument p.instr
          { r with lastPrintedWhole := some (p.price / p.base.den), full := false }
          (setTape (s.tape.afterTake s.ctl.timeBase (some r) p) s)))) := by
      show answer (if !s.rst.inReset && s.takeReady then takePrint s else s) = _
      simp only [hreset, hready, Bool.not_false, Bool.and_self, if_true, takePrint, hqueue, hr]
      rfl
    refine ⟨_, hexec, post_posted _ _, ?_⟩
    rw [hafter]
    exact post_onlyPosts _ _
  · intro f short size fraction text
    have hsize : (if sizeShown mode threshold p.size then decimalText p.size ++ [0x40] else []) = size := by
      simp only [sizeShown_iff, size]
    have hfraction : fractionText f = fraction := by
      unfold fractionText
      simp only [fraction]
      cases f.frac <;> rfl
    have hshort : abbreviated mode lastWhole full f.whole = true ↔ short := abbreviated_iff _ _ _ _
    have htext : text = symbol ++ [0x20] ++ size ++
        decimalText (if abbreviated mode lastWhole full f.whole then f.whole % 10 else f.whole) ++ fraction := by
      rw [← hsize, ← hfraction]
      rfl
    refine ⟨fun h => ?_, fun h => ?_⟩
    · rw [htext, if_pos (hshort.mpr h)]
    · rw [htext, if_neg (mt hshort.mp h)]

/-! ### The ribbon -/

theorem length_glyphColumns (c : Byte) : (glyphColumns c).length = 5 := by
  unfold glyphColumns
  split <;> rfl

theorem columnAt_five (c : Byte) : columnAt c 5 = 0 := by
  rw [columnAt, List.getD_eq_default]
  rw [length_glyphColumns]

theorem speed_eq (t : TickerUnit) : t.speed = if t.mode = .punctual then t.block.baseSpeed else .fast := by
  unfold TickerUnit.speed
  cases t.mode <;> rfl

theorem enterHeld_eq (t : TickerUnit) : t.enterHeld =
    { t with
      buffer := if t.held ≠ [] ∧ t.buffer.length + t.held.length ≤ 40 then t.buffer ++ t.held else t.buffer
      held := if t.held ≠ [] ∧ t.buffer.length + t.held.length ≤ 40 then [] else t.held } := by
  unfold TickerUnit.enterHeld
  by_cases h : t.held ≠ [] ∧ t.buffer.length + t.held.length ≤ 40
  · rw [if_pos h, if_pos h, if_pos h]
  · rw [if_neg h, if_neg h, if_neg h]

/-- What every step of a running ribbon presents: the column of the last character of the window as it then stands. -/
def TickerUnit.presents (t : TickerUnit) (old : TickerUnit) (brightness : Nat) : TickerUnit :=
  { t with
    portColumn := columnAt (t.window.getLast?.getD 0x20) old.phase
    portBrightness := brightness
    phase := if old.phase = 5 then 0 else old.phase + 1
    interval := if old.mode = .punctual then old.block.baseSpeed else .fast }

theorem runStep_between {t : TickerUnit} (h : t.phase ≠ 0) (brightness : Nat) :
    t.runStep brightness = t.presents t brightness := by
  unfold TickerUnit.runStep
  dsimp only
  rw [if_neg h, speed_eq]
  rfl

theorem runStep_draws {t : TickerUnit} (h : t.phase = 0) {c : Byte} {buffer : List TapeChar} {gap : Bool}
    (hd : t.draw = (c, buffer, gap)) (brightness : Nat) :
    t.runStep brightness =
      ({ t with
          window := t.window.drop 1 ++ [c]
          gapDue := gap
          buffer := if t.held ≠ [] ∧ buffer.length + t.held.length ≤ 40 then buffer ++ t.held else buffer
          held := if t.held ≠ [] ∧ buffer.length + t.held.length ≤ 40 then [] else t.held } : TickerUnit).presents
        t brightness := by
  unfold TickerUnit.runStep
  dsimp only
  rw [if_pos h, hd, speed_eq, enterHeld_eq]
  rfl

theorem exec_ribbonStep {s : State} (h : s.rst.inReset = false) :
    exec .ribbonStep s = .next (grant (ribbonStep s)) := by
  show answer (if s.rst.inReset then s else ribbonStep s) = _
  rw [if_neg (ne_true_of_eq_false h)]
  rfl

theorem exec_blankOutEnd {s : State} (h : s.rst.inReset = false) (hc : s.tape.condition = .blanking 0) :
    exec .blankOutEnd s = .next (grant (blankOutOver s)) := by
  show answer (if !s.rst.inReset && s.tape.condition == .blanking 0 then blankOutOver s else s) = _
  simp only [h, hc, Bool.not_false, beq_self_eq_true, Bool.and_self, if_true]
  rfl

/-- Settles O51. -/
theorem ribbonMoves : Obligations.RibbonMoves := by
  refine ⟨fun s hreset => ?_, columnAt_five, by decide⟩
  intro t stepped drawn
  refine ⟨fun hrun => ?_, fun left hleft => ?_, fun hover => ⟨fun hl => ?_, fun hl => ?_⟩⟩
  · have hexec : exec .ribbonStep s = .next (grant (setTape (t.runStep s.ribbonBrightness) s)) := by
      have hrun' : s.tape.condition = .running := hrun
      rw [exec_ribbonStep hreset, ribbonStep, hrun']
    refine ⟨fun hp => ?_, fun hp hg => ?_, fun hp hg hb => ?_, fun c rest hp hg hb => ?_⟩
    · rw [hexec, runStep_between hp]
      rfl
    · have hdraw : t.draw = (0x20, t.buffer, false) := by simp [TickerUnit.draw, hg]
      rw [hexec, runStep_draws hp hdraw]
      rfl
    · have hdraw : t.draw = (0x20, [], false) := by simp [TickerUnit.draw, hg, hb]
      rw [hexec, runStep_draws hp hdraw]
      rfl
    · have hdraw : t.draw = (c.char, rest, c.endMark) := by simp [TickerUnit.draw, hg, hb]
      rw [hexec, runStep_draws hp hdraw]
      rfl
  · have hleft' : s.tape.condition = .blanking (left + 1) := hleft
    rw [exec_ribbonStep hreset, ribbonStep, hleft']
    simp only [Nat.succ_pos, if_true]
    rfl
  · have hl' : s.tape.loadedInBlankOut = true := hl
    rw [exec_blankOutEnd hreset hover, blankOutOver, if_pos hl', TickerUnit.run, speed_eq]
    rfl
  · have hl' : ¬ s.tape.loadedInBlankOut = true := ne_true_of_eq_false hl
    rw [exec_blankOutEnd hreset hover, blankOutOver, if_neg hl']
    rfl

end Sys2Proof.Machine
end


section
/-! A line changed several times in one event, and the characters that a line receives (chapter 9). -/

namespace Sys2Proof.Machine

open Sys2Proof

/-! ### A line that changes more than once in an event -/

/-- However word `t` is posted next, a value of it that then waits in `q` is that one, or waited in `q0` before. -/
def QueueFresh (t : TableWord) (q0 q : List WbEntry) : Prop :=
  ∀ ws x, .table t x ∈ joinTable t ws q → x = ws ∨ .table t x ∈ q0

theorem QueueFresh.refl (t : TableWord) (q : List WbEntry) : QueueFresh t q q := by
  intro ws x h
  rcases of_mem_joinTable h with h | h
  · exact .inr h
  · exact .inl (WbEntry.table.inj h).2

/-- The later of two posts of one word stands alone. -/
theorem joinTable_twice (t : TableWord) (ws ws' : List Word) (q : List WbEntry) :
    joinTable t ws (joinTable t ws' q) = joinTable t ws q := by
  induction q with
  | nil => simp [joinTable]
  | cons e q ih =>
    cases e with
    | table u us => by_cases h : u = t <;> simp [joinTable, h, ih]
    | faultRecord n w => simp [joinTable, ih]
    | inboxSlot n l k w => simp [joinTable, ih]

theorem joinTable_cons_other {t : TableWord} {ws : List Word} {e : WbEntry} {q : List WbEntry}
    (h : ∀ x, e ≠ .table t x) : joinTable t ws (e :: q) = e :: joinTable t ws q := by
  cases e with
  | table u us =>
    have hu : u ≠ t := fun hut => h us (by rw [hut])
    simp [joinTable, hu]
  | faultRecord n w => rfl
  | inboxSlot n l k w => rfl

theorem QueueFresh.join {t : TableWord} {q0 q : List WbEntry} (h : QueueFresh t q0 q) (ws : List Word) :
    QueueFresh t q0 (joinTable t ws q) := by
  intro ws' x hx
  rw [joinTable_twice] at hx
  exact h ws' x hx

/-- Whatever of word `t` waits behind the head waited before. -/
theorem QueueFresh.tail {t : TableWord} {q0 q : List WbEntry} (h : QueueFresh t q0 q) (ws : List Word) :
    QueueFresh t q0 (joinTable t ws q).tail := by
  cases q with
  | nil =>
    intro ws' x hx
    exact .inl (by simpa [joinTable] using hx)
  | cons e q =>
    by_cases he : ∃ y, e = .table t y
    · obtain ⟨y, rfl⟩ := he
      have htail : (joinTable t ws (.table t y :: q)).tail = q := by simp [joinTable]
      rw [htail]
      intro ws' x hx
      rcases of_mem_joinTable hx with hx | hx
      · refine .inr ((h (x ++ [0]) x ?_).resolve_left (by simp))
        simp [joinTable, hx]
      · exact .inl (WbEntry.table.inj hx).2
    · have hne : ∀ x, e ≠ .table t x := fun x hx => he ⟨x, hx⟩
      rw [joinTable_cons_other hne, List.tail_cons]
      intro ws' x hx
      rw [joinTable_twice] at hx
      refine h ws' x ?_
      rw [joinTable_cons_other hne]
      exact List.mem_cons_of_mem _ hx

theorem pumpWriteBack_queue (s : State) : (pumpWriteBack s).ctl.writeBack.queue = s.ctl.writeBack.queue ∨
    (pumpWriteBack s).ctl.writeBack.queue = s.ctl.writeBack.queue.tail := by
  unfold pumpWriteBack
  split
  · rename_i e rest _ hq
    split
    · exact .inl rfl
    · exact .inr (by rw [hq]; rfl)
  · exact .inl rfl

theorem QueueFresh.post {t : TableWord} {q0 : List WbEntry} {s : State} (h : QueueFresh t q0 s.ctl.writeBack.queue) :
    QueueFresh t q0 (post t s).ctl.writeBack.queue := by
  rcases pumpWriteBack_queue (setWaiting (joinTable t (s.tableWords t) s.ctl.writeBack.queue) s) with hq | hq
  · show QueueFresh t q0 (pumpWriteBack _).ctl.writeBack.queue
    rw [hq]
    exact h.join _
  · show QueueFresh t q0 (pumpWriteBack _).ctl.writeBack.queue
    rw [hq]
    exact h.tail _

/-- `u` is `s` after line `n` has become `l`, in one change or in several, and after nothing else but posting. -/
structure LineBecomes (n : Fin 16) (l : Line) (s u : State) : Prop where
  posts : OnlyPosts { s with lines := s.lines.set n l } u
  fresh : QueueFresh (.lineWord n) s.ctl.writeBack.queue u.ctl.writeBack.queue

section
variable {n : Fin 16} {l : Line} {s u : State}

theorem setLines_self (n : Fin 16) (s : State) : { s with lines := s.lines.set n s.lines[n] } = s := by
  simp

theorem LineBecomes.refl (n : Fin 16) (s : State) : LineBecomes n s.lines[n] s s :=
  ⟨by rw [setLines_self]; exact .refl s, .refl _ _⟩

theorem LineBecomes.lines (h : LineBecomes n l s u) : u.lines = s.lines.set n l := by rw [h.posts.eq]

theorem LineBecomes.line (h : LineBecomes n l s u) : u.lines[n] = l := by
  rw [h.lines]
  simp

theorem LineBecomes.time (h : LineBecomes n l s u) : u.ctl.timeBase = s.ctl.timeBase := by
  rw [h.posts.eq]

theorem LineBecomes.tbl (h : LineBecomes n l s u) : u.tbl = s.tbl := by
  rw [h.posts.eq]

theorem tableWords_setLines_other (n : Fin 16) (l : Line) (s : State) {w : TableWord} (hw : w ≠ .lineWord n) :
    { s with lines := s.lines.set n l }.tableWords w = s.tableWords w := by
  cases w with
  | lineWord m =>
    have hne : n.val ≠ m.val := fun h => hw (by rw [Fin.ext h])
    simp [State.tableWords, Vector.getElem_set_ne _ _ hne]
  | _ => rfl

theorem setLine_eq (n : Fin 16) (l : Line) (u : State) : setLine n l u =
    if l.tableWord = u.lines[n].tableWord then { u with lines := u.lines.set n l }
    else post (.lineWord n) { u with lines := u.lines.set n l } := by
  have hword : ({ u with lines := u.lines.set n l }.tableWords (.lineWord n) = u.tableWords (.lineWord n)) ↔
      l.tableWord = u.lines[n].tableWord := by
    simp [State.tableWords]
  simp only [setLine, postChanged, List.foldl_cons, List.foldl_nil, hword]

/-- A further change of the line takes the place of the one before, its table word posted anew where it has changed. -/
theorem LineBecomes.setLine (h : LineBecomes n l s u) (l' : Line) : LineBecomes n l' s (setLine n l' u) := by
  have hstep := setLine_onlyPosts n l' u
  have hu := h.posts.eq
  have hrest : { u with lines := u.lines.set n l' }.atRest = { s with lines := s.lines.set n l' }.atRest := by
    rw [hu]
    simp [State.atRest]
  obtain ⟨p1, e1, q1⟩ := h.posts.parts
  obtain ⟨p2, e2, q2⟩ := hstep.parts
  have hwords : ∀ w, (Machine.setLine n l' u).tableWords w = { u with lines := u.lines.set n l' }.tableWords w :=
    hstep.tableWords
  refine ⟨⟨hstep.rest.trans hrest, hstep.port.trans h.posts.port, hstep.waiting.trans h.posts.waiting,
    ⟨p1 ++ p2, by rw [e2]; show u.mem.parts ++ p2 = _; rw [e1, List.append_assoc], fun p hp => ?_⟩,
    h.posts.kept.trans hstep.kept, fun w ws hw hm => ?_⟩, ?_⟩
  · exact (List.mem_append.mp hp).elim (q1 p) (q2 p)
  · rw [hwords]
    rw [setLine_eq] at hm
    by_cases hword : w = .lineWord n
    · subst hword
      split at hm
      · rename_i hsame
        rcases h.posts.present _ ws hw hm with hm | hm
        · exact .inl hm
        · refine .inr (hm.trans ?_)
          exact (tableWords_setLines hsame _).symm
      · rcases h.fresh _ ws (mem_queue_of_pump hm) with hx | hx
        · exact .inr hx
        · exact .inl hx
    · have hold : .table w ws ∈ u.ctl.writeBack.queue := by
        split at hm
        · exact hm
        · exact mem_queue_of_post (s := { u with lines := u.lines.set n l' }) hword hm
      rw [tableWords_setLines_other n l' u hword]
      exact h.posts.present w ws hw hold
  · rw [setLine_eq]
    split
    · exact h.fresh
    · exact QueueFresh.post (s := { u with lines := u.lines.set n l' }) h.fresh

end

end Sys2Proof.Machine
end


section
/-! The characters that a line receives: marks, the characters of a frame, good and bad frames (R166 to R168, R182). -/

namespace Sys2Proof.Machine

open Sys2Proof

/-! ### What the assembler makes of a character (R166, R167, R186) -/

theorem hexValue_eq_some {c : Byte} {v : Nat} : hexValue c = some v ↔ IsHex c v := by
  unfold hexValue IsHex
  have hc := c.isLt
  split
  · simp only [Option.some.injEq]
    split <;> omega
  · split
    · simp only [Option.some.injEq]
      split <;> omega
    · simp only [reduceCtorEq, false_iff]
      split <;> omega

/-- The hexadecimal value of a received character: none for one with a framing fault. -/
def hexHere (c : RxChar) : Option Nat := if c.framingFault then none else hexValue c.bits

/-- A received character is a printable one. -/
def charFits (c : RxChar) : Bool := !c.framingFault && printable c.bits

theorem charFits_iff {c : RxChar} :
    charFits c = true ↔ c.framingFault = false ∧ 0x20 ≤ c.bits.toNat ∧ c.bits.toNat ≤ 0x7D := by
  simp [charFits, printable]

theorem hexHere_eq_some {c : RxChar} {v : Nat} :
    hexHere c = some v ↔ c.framingFault = false ∧ IsHex c.bits v := by
  unfold hexHere
  rw [← hexValue_eq_some]
  split <;> simp_all

theorem hexHere_eq_none {c : RxChar} :
    hexHere c = none ↔ ∀ v, ¬ (c.framingFault = false ∧ IsHex c.bits v) := by
  simp only [← hexHere_eq_some, Option.eq_none_iff_forall_ne_some]

theorem hexHere_isSome {c : RxChar} :
    (hexHere c).isSome = true ↔ ∃ v, c.framingFault = false ∧ IsHex c.bits v := by
  simp only [← hexHere_eq_some, Option.isSome_iff_exists]

theorem assemble_nil (c : RxChar) : assemble [] c = if charFits c then .more else .bad .badCharacter := rfl

theorem assemble_one (kind : Byte) (c : RxChar) :
    assemble [kind] c = if (hexHere c).isSome then .more else .bad .badLength := rfl

theorem assemble_two {a : Byte} {x : Nat} (ha : IsHex a x) (kind : Byte) (c : RxChar) :
    assemble [kind, a] c =
      match hexHere c with
      | some y => if 16 * x + y ≤ 60 then .more else .bad .badLength
      | none => .bad .badLength := by
  have hx : hexValue ([kind, a].getD 1 0) = some x := hexValue_eq_some.mpr ha
  simp only [assemble, hx]
  rw [if_neg (by simp), if_neg (by simp), if_pos (by simp)]
  unfold hexHere
  cases (if c.framingFault = true then none else hexValue c.bits) <;> rfl

theorem assembledLength_eq {a b : Byte} {x y : Nat} (ha : IsHex a x) (hb : IsHex b y) (kind : Byte) (rest : List Byte) :
    assembledLength (kind :: a :: b :: rest) = 16 * x + y := by
  simp [assembledLength, hexPairValue, hexValue_eq_some.mpr ha, hexValue_eq_some.mpr hb]

theorem assemble_body_char {got : List Byte} (h3 : 3 ≤ got.length) (hlen : got.length < 3 + assembledLength got)
    (c : RxChar) : assemble got c = if charFits c then .more else .bad .badCharacter := by
  simp only [assemble]
  rw [if_neg (by omega), if_neg (by omega), if_neg (by omega), if_pos hlen]
  rfl

theorem assemble_check_high {got : List Byte} (h3 : 3 ≤ got.length) (hlen : got.length = 3 + assembledLength got)
    (c : RxChar) : assemble got c = if (hexHere c).isSome then .more else .bad .badCheck := by
  simp only [assemble]
  rw [if_neg (by omega), if_neg (by omega), if_neg (by omega), if_neg (by omega), if_pos hlen]
  rfl

/-- The character after the first check digit completes a good frame, or makes it bad (R167). -/
theorem assemble_check_low {got : List Byte} (h3 : 3 ≤ got.length) (hlen : 3 + assembledLength got < got.length)
    (c : RxChar) :
    assemble got c =
      match hexHere c, hexValue (got.getD (3 + assembledLength got) 0) with
      | some y, some x =>
        if BitVec.ofNat 8 (16 * x + y) = checkByte (got.take (3 + assembledLength got)) then
          .good (got.getD 0 0) ((got.drop 3).take (assembledLength got))
        else .bad .badCheck
      | _, _ => .bad .badCheck := by
  simp only [assemble]
  rw [if_neg (by omega), if_neg (by omega), if_neg (by omega), if_neg (by omega), if_neg (by omega)]
  rfl

/-- A character completes a good frame exactly where it stands after the first check digit, and makes with it the value
that the characters before them call for. -/
theorem assemble_eq_good {got : List Byte} {c : RxChar} {kind : Byte} {body : List Byte} :
    assemble got c = .good kind body ↔
      3 ≤ got.length ∧ 3 + assembledLength got < got.length ∧
        (∃ x y, hexHere c = some y ∧ hexValue (got.getD (3 + assembledLength got) 0) = some x ∧
          BitVec.ofNat 8 (16 * x + y) = checkByte (got.take (3 + assembledLength got))) ∧
        kind = got.getD 0 0 ∧ body = (got.drop 3).take (assembledLength got) := by
  constructor
  · intro h
    by_cases h3 : 3 ≤ got.length
    · rcases Nat.lt_trichotomy got.length (3 + assembledLength got) with hlen | hlen | hlen
      · rw [assemble_body_char h3 hlen] at h
        split at h <;> cases h
      · rw [assemble_check_high h3 hlen] at h
        split at h <;> cases h
      · rw [assemble_check_low h3 hlen] at h
        split at h
        · rename_i y x hy hx
          split at h
          · rename_i hsum
            cases h
            exact ⟨h3, hlen, ⟨x, y, hy, hx, hsum⟩, rfl, rfl⟩
          · cases h
        · cases h
    · match got, h3 with
      | [], _ => rw [assemble_nil] at h; split at h <;> cases h
      | [a], _ => rw [assemble_one] at h; split at h <;> cases h
      | [a, b], _ =>
        simp only [assemble] at h
        rw [if_neg (by simp), if_neg (by simp), if_pos (by simp)] at h
        split at h
        · split at h <;> cases h
        · cases h
      | a :: b :: d :: rest, h3 => exact absurd (Nat.le_add_left 3 rest.length) h3
  · rintro ⟨h3, hlen, ⟨x, y, hy, hx, hsum⟩, rfl, rfl⟩
    rw [assemble_check_low h3 hlen, hy, hx]
    exact if_pos hsum

/-- The frame that one more character would complete is the one of `readyFrame`, whichever the character is. -/
theorem readyFrame_eq_some {got : List Byte} {kind : Byte} {body : List Byte} :
    readyFrame got = some (kind, body) ↔ ∃ c : Byte, assemble got ⟨c, false⟩ = .good kind body := by
  have hready : readyFrame got = some (kind, body) ↔
      assemble got ⟨hexDigit ((checkByte (got.take (3 + assembledLength got))).toNat % 16), false⟩ = .good kind body := by
    simp only [readyFrame]
    split
    · rename_i k b hgood
      rw [hgood]
      simp
    · rename_i hno
      simp only [reduceCtorEq, false_iff]
      exact hno kind body
  rw [hready]
  constructor
  · exact fun h => ⟨_, h⟩
  · rintro ⟨c, hc⟩
    obtain ⟨h3, hlen, ⟨x, y, hy, hx, hsum⟩, hkind, hbody⟩ := assemble_eq_good.mp hc
    have hy16 : y < 16 := (hexHere_eq_some.mp hy).2.1
    have hx16 : x < 16 := (hexValue_eq_some.mp hx).1
    have hmod : (checkByte (got.take (3 + assembledLength got))).toNat % 16 = y := by
      rw [← hsum, BitVec.toNat_ofNat]
      omega
    refine assemble_eq_good.mpr ⟨h3, hlen, ⟨x, y, ?_, hx, hsum⟩, hkind, hbody⟩
    rw [hmod]
    exact hexHere_eq_some.mpr ⟨rfl, isHex_hexDigit hy16⟩

theorem isMark_of_good {got : List Byte} {c : RxChar} {kind : Byte} {body : List Byte}
    (h : assemble got c = .good kind body) : c.isMark = false := by
  obtain ⟨_, _, ⟨_, _, hy, _⟩, _⟩ := assemble_eq_good.mp h
  obtain ⟨_, hy16, hbits⟩ := hexHere_eq_some.mp hy
  have hne : c.bits ≠ 0x7E#8 := by
    intro h7
    rw [h7] at hbits
    have : (0x7E#8 : Byte).toNat = 126 := rfl
    split at hbits <;> omega
  simp [RxChar.isMark, hne]

/-- The check value of a frame is right exactly where its characters and the value sum to 0 modulo 256. -/
theorem check_iff (got : List Byte) (v : Nat) :
    BitVec.ofNat 8 v = checkByte got ↔ ((got.map (·.toNat)).sum + v) % 256 = 0 := by
  rw [← BitVec.toNat_inj, BitVec.toNat_ofNat, checkByte_toNat]
  omega

/-! ### A fault behind a change -/

/-- A fault that finds room, after a change that has posted. -/
theorem OnlyPosts.postFault {a u : State} (h : OnlyPosts a u) (hroom : a.LogRoom) (k : FaultKind) (subj : Subject)
    (d : List Nat) :
    OnlyPosts a.slotTaken (Machine.postFault k subj d u) ∧ (Machine.postFault k subj d u).Queued (a.faultEntry k subj d) := by
  have hu := h.eq
  have hroom' : u.LogRoom := by
    rw [hu]
    exact hroom
  have hentry : u.faultEntry k subj d = a.faultEntry k subj d := by
    rw [hu]
    rfl
  obtain ⟨hposts, hqueued⟩ := postFault_room (k := k) (subj := subj) (d := d) hroom'
  have hslot : OnlyPosts a.slotTaken u.slotTaken :=
    h.map State.slotTaken (fun _ _ => rfl) (fun w _ => by cases w <;> rfl)
  exact ⟨hslot.trans hposts, hentry ▸ hqueued⟩

/-! ### Marks and bad frames on a line -/

theorem Line.wake_eq (l : Line) (now : Time) :
    l.wake now =
      if l.state = .dozing then { l with state := .active, dozeTimer := if l.doze = 0 then none else some now }
      else l := rfl

section
variable {n : Fin 16} {l : Line} {s u : State}

/-- A bad frame is counted, where it is not the eighth in a row of an ACTIVE line (R167, R168). -/
theorem LineBecomes.badFrame_counts (h : LineBecomes n l s u) (hq : l.badRun + 1 < 8 ∨ l.state ≠ .active)
    (cause : BadCause) :
    LineBecomes n { l with assembler := .hunting, badRun := min 8 (l.badRun + 1) } s (badFrame n cause u) := by
  have h1 := h.setLine { u.lines[n] with assembler := .hunting }
  rw [h.line] at h1
  have hno : ¬ (min 8 (l.badRun + 1) = 8 ∧ l.state = .active) := by
    rintro ⟨h8, hact⟩
    rcases hq with hq | hq
    · omega
    · exact hq hact
  rw [badFrame, h.line, countBad, h1.line]
  simp only [if_neg hno]
  exact h1.setLine _

/-- The eighth bad frame in a row mutes an ACTIVE line and posts LINE NOISE (R168). -/
theorem LineBecomes.badFrame_mutes (h : LineBecomes n l s u) (hrun : 8 ≤ l.badRun + 1) (hact : l.state = .active)
    (hroom : s.LogRoom) (cause : BadCause) :
    let x := { s with
      lines := s.lines.set n
        { l with assembler := .hunting, badRun := min 8 (l.badRun + 1), cls := 0, state := .muted } }
    OnlyPosts x.slotTaken (badFrame n cause u) ∧
      (badFrame n cause u).Queued (s.faultEntry .lineNoise (.line n.val) [l.cls, cause.code, l.rate.code]) := by
  have h1 := h.setLine { u.lines[n] with assembler := .hunting }
  rw [h.line] at h1
  have hyes : min 8 (l.badRun + 1) = 8 ∧ l.state = .active := ⟨by omega, hact⟩
  rw [badFrame, h.line, countBad, h1.line]
  simp only [if_pos hyes]
  exact (h1.setLine _).posts.postFault hroom _ _ _

theorem markArrives_begins (h : s.lines[n].assembler = .hunting) :
    LineBecomes n { s.lines[n].wake s.ctl.timeBase with assembler := .assembling [] s.ctl.timeBase } s
      (markArrives n s) := by
  have h1 := (LineBecomes.refl n s).setLine (s.lines[n].wake s.ctl.timeBase)
  have hasm : (s.lines[n].wake s.ctl.timeBase).assembler = .hunting := by
    rw [Line.wake_eq]
    split <;> exact h
  unfold markArrives
  simp only [h1.line, hasm, h1.time]
  exact h1.setLine _

theorem markArrives_cut {got : List Byte} {t : Time} (h : s.lines[n].assembler = .assembling got t) :
    ∃ u, LineBecomes n (s.lines[n].wake s.ctl.timeBase) s u ∧
      markArrives n s =
        setLine n
          { (badFrame n .cut u).lines[n] with assembler := .assembling [] (badFrame n .cut u).ctl.timeBase }
          (badFrame n .cut u) := by
  have h1 := (LineBecomes.refl n s).setLine (s.lines[n].wake s.ctl.timeBase)
  have hasm : (s.lines[n].wake s.ctl.timeBase).assembler = .assembling got t := by
    rw [Line.wake_eq]
    split <;> exact h
  refine ⟨_, h1, ?_⟩
  unfold markArrives
  simp only [h1.line, hasm]

theorem markArrives_counts {got : List Byte} {t : Time} (h : s.lines[n].assembler = .assembling got t)
    (hq : s.lines[n].badRun + 1 < 8 ∨ (s.lines[n].wake s.ctl.timeBase).state ≠ .active) :
    LineBecomes n
      { s.lines[n].wake s.ctl.timeBase with
        assembler := .assembling [] s.ctl.timeBase
        badRun := min 8 (s.lines[n].badRun + 1) } s (markArrives n s) := by
  have hrun : (s.lines[n].wake s.ctl.timeBase).badRun = s.lines[n].badRun := by
    rw [Line.wake_eq]
    split <;> rfl
  obtain ⟨u, hu, heq⟩ := markArrives_cut h
  have h2 := hu.badFrame_counts (by rwa [hrun]) .cut
  rw [heq, h2.line, h2.time]
  rw [hrun] at h2
  rw [hrun]
  exact h2.setLine _

/-- Line `n` has an assembly before it. -/
def beginAssembly (n : Fin 16) (x : State) : State :=
  { x with lines := x.lines.set n { x.lines[n] with assembler := .assembling [] x.ctl.timeBase } }

theorem tableWords_beginAssembly (n : Fin 16) (x : State) (w : TableWord) :
    (beginAssembly n x).tableWords w = x.tableWords w := by
  have hword : Line.tableWord { x.lines[n] with assembler := .assembling [] x.ctl.timeBase } = x.lines[n].tableWord := by
    simp only [Line.tableWord]
  exact tableWords_setLines (s := x) hword w

theorem OnlyPosts.beginAssembly {a b : State} (h : OnlyPosts a b) (n : Fin 16) :
    OnlyPosts (Machine.beginAssembly n a) (Machine.beginAssembly n b) :=
  h.map (Machine.beginAssembly n) (fun _ _ => rfl) (fun w _ => tableWords_beginAssembly n b w)

theorem queued_beginAssembly (n : Fin 16) (x : State) (e : WbEntry) : (beginAssembly n x).Queued e ↔ x.Queued e :=
  Iff.rfl

/-- A change of the assembler alone posts nothing: it does not show in the line's table word. -/
theorem setLine_assembling (n : Fin 16) (x : State) :
    setLine n { x.lines[n] with assembler := .assembling [] x.ctl.timeBase } x = beginAssembly n x := by
  rw [setLine_eq, if_pos]
  · rfl
  · rfl

theorem markArrives_mutes {got : List Byte} {t : Time} (h : s.lines[n].assembler = .assembling got t)
    (hrun : 8 ≤ s.lines[n].badRun + 1) (hact : (s.lines[n].wake s.ctl.timeBase).state = .active) (hroom : s.LogRoom) :
    let x := { s with
      lines := s.lines.set n
        { s.lines[n].wake s.ctl.timeBase with
          assembler := .assembling [] s.ctl.timeBase
          badRun := min 8 (s.lines[n].badRun + 1)
          cls := 0
          state := .muted } }
    OnlyPosts x.slotTaken (markArrives n s) ∧
      (markArrives n s).Queued
        (s.faultEntry .lineNoise (.line n.val) [s.lines[n].cls, BadCause.cut.code, s.lines[n].rate.code]) := by
  have hwake : (s.lines[n].wake s.ctl.timeBase).badRun = s.lines[n].badRun ∧
      (s.lines[n].wake s.ctl.timeBase).cls = s.lines[n].cls ∧
      (s.lines[n].wake s.ctl.timeBase).rate = s.lines[n].rate := by
    rw [Line.wake_eq]
    split <;> exact ⟨rfl, rfl, rfl⟩
  obtain ⟨hbad, hcls, hrate⟩ := hwake
  obtain ⟨u, hu, heq⟩ := markArrives_cut h
  obtain ⟨hposts, hqueued⟩ := hu.badFrame_mutes (by rwa [hbad]) hact hroom .cut
  rw [hcls, hrate] at hqueued
  rw [heq, setLine_assembling]
  refine ⟨?_, (queued_beginAssembly _ _ _).mpr hqueued⟩
  have hfinal := hposts.beginAssembly n
  refine Eq.mp (congrArg (OnlyPosts · _) ?_) hfinal
  simp only [beginAssembly, State.slotTaken, hbad]
  simp

end

/-! ### The commands of characters and frames -/

section
variable {n : Fin 16} {c : RxChar} {s : State} {got : List Byte} {t : Time}

theorem receiveChar_off (hoff : s.lines[n].state = .off) (c : RxChar) : receiveChar n c s = s := by
  simp [-Fin.getElem_fin, receiveChar, hoff]

theorem receiveChar_mark (hon : s.lines[n].state ≠ .off) : receiveChar n ⟨0x7E, false⟩ s = markArrives n s := by
  rw [receiveChar]
  exact (if_neg hon).trans (if_pos rfl)

theorem receiveChar_hunting (hmark : c.isMark = false) (hhunt : s.lines[n].assembler = .hunting) :
    receiveChar n c s = s := by
  simp [-Fin.getElem_fin, receiveChar, hmark, hhunt]

theorem receiveChar_assembling (hon : s.lines[n].state ≠ .off) (hmark : c.isMark = false)
    (hasm : s.lines[n].assembler = .assembling got t) :
    receiveChar n c s =
      match assemble got c with
      | .more => setLine n { s.lines[n] with assembler := .assembling (got ++ [c.bits]) s.ctl.timeBase } s
      | .bad cause => badFrame n cause s
      | .good kind body => goodFrame n kind body s := by
  simp only [receiveChar, hon, if_false, hmark, hasm, Bool.false_eq_true] <;> rfl

theorem exec_characterReceived (hreset : s.rst.inReset = false) :
    exec (.characterReceived n c) s = .next (grant (receiveChar n c s)) := by
  rw [← answer, show exec (.characterReceived n c) s = execCharacterReceived n c s from rfl, execCharacterReceived, hreset]
  rfl

theorem exec_markReceived (hreset : s.rst.inReset = false) :
    exec (.markReceived n) s = .next (grant (receiveChar n ⟨0x7E, false⟩ s)) := by
  rw [← answer, show exec (.markReceived n) s = execMarkReceived n s from rfl, execMarkReceived, hreset]
  rfl

theorem exec_badFrame (hreset : s.rst.inReset = false) (hbreaks : breaksFrame s.lines[n] c = true) :
    exec (.badFrame n c) s = .next (grant (receiveChar n c s)) := by
  rw [← answer, show exec (.badFrame n c) s = execBadFrame n c s from rfl, execBadFrame, hreset, hbreaks]
  rfl

theorem exec_frameAbandoned (hreset : s.rst.inReset = false) (hon : s.lines[n].state ≠ .off)
    (hasm : s.lines[n].assembler = .assembling got t) (htime : 500 ≤ since s t) :
    exec (.frameAbandoned n) s = .next (grant (badFrame n .abandoned s)) := by
  rw [← answer, show exec (.frameAbandoned n) s = execFrameAbandoned n s from rfl, execFrameAbandoned]
  simp [-Fin.getElem_fin, hasm, hreset, hon, htime]

theorem receiveChar_bad (hon : s.lines[n].state ≠ .off) (hmark : c.isMark = false)
    (hasm : s.lines[n].assembler = .assembling got t) {cause : BadCause} (hbad : assemble got c = .bad cause) :
    receiveChar n c s = badFrame n cause s := by
  rw [receiveChar_assembling hon hmark hasm, hbad]

/-- A character that makes the frame bad does so as CHARACTER_RECEIVED and as BAD_FRAME (R167). -/
theorem exec_badCharacter (hreset : s.rst.inReset = false) (hon : s.lines[n].state ≠ .off) (hmark : c.isMark = false)
    (hasm : s.lines[n].assembler = .assembling got t) {cause : BadCause} (hbad : assemble got c = .bad cause)
    {e : Instr} (he : e = .badFrame n c ∨ e = .characterReceived n c) :
    exec e s = .next (grant (badFrame n cause s)) := by
  rcases he with rfl | rfl
  · rw [exec_badFrame hreset (by simp [-Fin.getElem_fin, breaksFrame, hasm, hbad]), receiveChar_bad hon hmark hasm hbad]
  · rw [exec_characterReceived hreset, receiveChar_bad hon hmark hasm hbad]

/-- A mark cuts the frame in assembly as MARK_RECEIVED and as BAD_FRAME (R166, R167). -/
theorem exec_cuttingMark (hreset : s.rst.inReset = false) (hon : s.lines[n].state ≠ .off)
    (hasm : s.lines[n].assembler = .assembling got t) {e : Instr}
    (he : e = .markReceived n ∨ e = .badFrame n ⟨0x7E, false⟩) : exec e s = .next (grant (markArrives n s)) := by
  rcases he with rfl | rfl
  · rw [exec_markReceived hreset, receiveChar_mark hon]
  · have hbreaks : breaksFrame s.lines[n] ⟨0x7E, false⟩ = true := by
      simp [-Fin.getElem_fin, breaksFrame, hasm, RxChar.isMark]
    rw [exec_badFrame hreset hbreaks, receiveChar_mark hon]

/-- The event of a good frame of a kind (R169). -/
def goodEventOf (n : Fin 16) (kind : Byte) : Instr :=
  if kind = 0x57 then .watchRequest n
  else if kind = 0x44 then .watchDrop n
  else if kind = 0x50 then .pageRequest n
  else if kind = 0x4D then .messageRequest n
  else if kind = 0x5A then .ping n
  else .goodFrameOtherKind n

theorem onGoodFrame_ready (hreset : s.rst.inReset = false) (hon : s.lines[n].state ≠ .off)
    (hasm : s.lines[n].assembler = .assembling got t) {kind : Byte} {body : List Byte}
    (hready : readyFrame got = some (kind, body)) {kinds : Byte → Bool} (hkind : kinds kind = true) :
    onGoodFrame n kinds s = goodFrame n kind body s := by
  simp [-Fin.getElem_fin, onGoodFrame, hreset, hon, hasm, hready, hkind]

/-- The commands of good frames: each is the completion of a frame of its kinds (R169). -/
theorem exec_goodFrame (hreset : s.rst.inReset = false) (hon : s.lines[n].state ≠ .off)
    (hasm : s.lines[n].assembler = .assembling got t) {kind : Byte} {body : List Byte}
    (hready : readyFrame got = some (kind, body)) {e : Instr}
    (he : (e = .watchRequest n ∧ kind = 0x57) ∨ (e = .watchDrop n ∧ kind = 0x44) ∨ (e = .pageRequest n ∧ kind = 0x50) ∨
      (e = .messageRequest n ∧ kind = 0x4D) ∨ (e = .ping n ∧ kind = 0x5A) ∨
      (e = .goodFrameOtherKind n ∧ kind ∉ [0x57, 0x44, 0x50, 0x4D, 0x5A])) :
    exec e s = .next (grant (goodFrame n kind body s)) := by
  have hgood : ∀ kinds : Byte → Bool, kinds kind = true → answer (onGoodFrame n kinds s) =
      .next (grant (goodFrame n kind body s)) := fun kinds hk => by
    rw [onGoodFrame_ready hreset hon hasm hready hk, answer]
  rcases he with ⟨rfl, hk⟩ | ⟨rfl, hk⟩ | ⟨rfl, hk⟩ | ⟨rfl, hk⟩ | ⟨rfl, hk⟩ | ⟨rfl, hk⟩
  · exact hgood (· == 0x57) (beq_iff_eq.mpr hk)
  · exact hgood (· == 0x44) (beq_iff_eq.mpr hk)
  · exact hgood (· == 0x50) (beq_iff_eq.mpr hk)
  · exact hgood (· == 0x4D) (beq_iff_eq.mpr hk)
  · exact hgood (· == 0x5A) (beq_iff_eq.mpr hk)
  · refine hgood (fun c => !ownKind c) ?_
    simpa [ownKind, and_assoc] using hk

theorem goodEventOf_cases (n : Fin 16) (kind : Byte) :
    let e := goodEventOf n kind
    (e = .watchRequest n ∧ kind = 0x57) ∨ (e = .watchDrop n ∧ kind = 0x44) ∨ (e = .pageRequest n ∧ kind = 0x50) ∨
      (e = .messageRequest n ∧ kind = 0x4D) ∨ (e = .ping n ∧ kind = 0x5A) ∨
      (e = .goodFrameOtherKind n ∧ kind ∉ [0x57, 0x44, 0x50, 0x4D, 0x5A]) := by
  intro e
  simp only [e, goodEventOf]
  split_ifs <;> simp_all

end

/-- A character that completes a good frame is the good-frame event of its kind. -/
theorem exec_completing {n : Fin 16} {c : RxChar} {s : State} {got : List Byte} {t : Time} {kind : Byte}
    {body : List Byte} (hreset : s.rst.inReset = false) (hon : s.lines[n].state ≠ .off)
    (hasm : s.lines[n].assembler = .assembling got t) (hgood : assemble got c = .good kind body) :
    exec (.characterReceived n c) s = exec (goodEventOf n kind) s := by
  have hmark := isMark_of_good hgood
  have hff : c = ⟨c.bits, false⟩ := by
    obtain ⟨_, _, ⟨_, _, hy, _⟩, _⟩ := assemble_eq_good.mp hgood
    rw [← (hexHere_eq_some.mp hy).1]
  have hready : readyFrame got = some (kind, body) := readyFrame_eq_some.mpr ⟨c.bits, hff ▸ hgood⟩
  rw [exec_characterReceived hreset, receiveChar_assembling hon hmark hasm, hgood,
    exec_goodFrame hreset hon hasm hready (goodEventOf_cases n kind)]

/-! ### The obligation -/

/-- The characters of a frame, position by position (R166, R167). -/
theorem assemble_positions (c : RxChar) :
    let fits : Prop := c.framingFault = false ∧ 0x20 ≤ c.bits.toNat ∧ c.bits.toNat ≤ 0x7D
    let digit (v : Nat) : Prop := c.framingFault = false ∧ IsHex c.bits v
    (fits → assemble [] c = .more) ∧ (¬ fits → assemble [] c = .bad .badCharacter) ∧
    ∀ kind : Byte,
      ((∃ v, digit v) → assemble [kind] c = .more) ∧ ((∀ v, ¬ digit v) → assemble [kind] c = .bad .badLength) ∧
      ∀ (a : Byte) (x : Nat), IsHex a x →
        (∀ y, digit y → 16 * x + y ≤ 60 → assemble [kind, a] c = .more) ∧
        ((∀ y, digit y → 60 < 16 * x + y) → assemble [kind, a] c = .bad .badLength) ∧
        ∀ (b : Byte) (y : Nat) (body : List Byte), IsHex b y →
          let got := kind :: a :: b :: body
          (body.length < 16 * x + y → (fits → assemble got c = .more) ∧ (¬ fits → assemble got c = .bad .badCharacter)) ∧
          (body.length = 16 * x + y →
            ((∃ v, digit v) → assemble got c = .more) ∧ ((∀ v, ¬ digit v) → assemble got c = .bad .badCheck) ∧
            ∀ (d : Byte) (p : Nat), IsHex d p →
              let sum := (got.map (·.toNat)).sum
              (∀ q, digit q → (sum + (16 * p + q)) % 256 = 0 → assemble (got ++ [d]) c = .good kind body) ∧
                ((∀ q, digit q → (sum + (16 * p + q)) % 256 ≠ 0) → assemble (got ++ [d]) c = .bad .badCheck)) := by
  intro fits digit
  have hfits : charFits c = true ↔ fits := charFits_iff
  have hdigit : ∀ v, hexHere c = some v ↔ digit v := fun v => hexHere_eq_some
  have hsome : (hexHere c).isSome = true ↔ ∃ v, digit v := hexHere_isSome
  have hnone : hexHere c = none ↔ ∀ v, ¬ digit v := hexHere_eq_none
  have hchar : ∀ {got : List Byte} {r : Assembled}, (assemble got c = if charFits c then .more else r) →
      (fits → assemble got c = .more) ∧ (¬ fits → assemble got c = r) := fun h =>
    ⟨fun hf => h.trans (if_pos (hfits.mpr hf)), fun hf => h.trans (if_neg (mt hfits.mp hf))⟩
  have hhex : ∀ {got : List Byte} {r : Assembled}, (assemble got c = if (hexHere c).isSome then .more else r) →
      ((∃ v, digit v) → assemble got c = .more) ∧ ((∀ v, ¬ digit v) → assemble got c = r) := fun h =>
    ⟨fun hd => h.trans (if_pos (hsome.mpr hd)), fun hd => h.trans (if_neg (by rw [hnone.mpr hd]; simp))⟩
  refine ⟨(hchar (assemble_nil c)).1, (hchar (assemble_nil c)).2, fun kind =>
    ⟨(hhex (assemble_one kind c)).1, (hhex (assemble_one kind c)).2, fun a x ha => ⟨fun y hy hle => ?_, fun hall => ?_,
      fun b y body hb => ?_⟩⟩⟩
  · rw [assemble_two ha, (hdigit y).mpr hy]
    exact if_pos hle
  · rw [assemble_two ha]
    cases hh : hexHere c with
    | none => rfl
    | some y => exact if_neg (Nat.not_le.mpr (hall y ((hdigit y).mp hh)))
  · intro got
    have hlen : assembledLength got = 16 * x + y := assembledLength_eq ha hb kind body
    have hgot : got.length = 3 + body.length := by
      simp only [got, List.length_cons]
      omega
    refine ⟨fun hlt => hchar (assemble_body_char (got := got) (by omega) (by omega) c), fun heq => ?_⟩
    have hhigh := hhex (assemble_check_high (got := got) (by omega) (by omega) c)
    refine ⟨hhigh.1, hhigh.2, fun d p hd => ?_⟩
    intro sum
    have hlen' : assembledLength (got ++ [d]) = body.length := by
      rw [heq]
      exact assembledLength_eq ha hb kind (body ++ [d])
    have hget : (got ++ [d]).getD (3 + body.length) 0 = d := by
      rw [List.getD_append_right _ _ _ _ (by omega), hgot]
      simp
    have htake : (got ++ [d]).take (3 + body.length) = got := List.take_left' hgot
    have hbody : ((got ++ [d]).drop 3).take body.length = body := by simp [got]
    have hlength : (got ++ [d]).length = 4 + body.length := by
      rw [List.length_append, hgot, List.length_singleton]
      omega
    have hlow := assemble_check_low (got := got ++ [d]) (by omega) (by omega) c
    rw [hlen', hget, htake, hbody, hexValue_eq_some.mpr hd] at hlow
    refine ⟨fun q hq hsum => ?_, fun hall => ?_⟩
    · rw [hlow, (hdigit q).mpr hq]
      exact if_pos ((check_iff got _).mpr hsum)
    · rw [hlow]
      cases hh : hexHere c with
      | none => rfl
      | some q => exact if_neg (mt (check_iff got _).mp (hall q ((hdigit q).mp hh)))

/-- Settles O53: the assembler by positions, and the events by the changes they make of the line. -/
theorem charactersTaken : Obligations.CharactersTaken := by
  unfold Obligations.CharactersTaken
  refine ⟨fun n s hreset => ?_, fun c _ => assemble_positions c⟩
  intro l now woken becomes goodEvent noisy
  refine ⟨fun hoff => ⟨?_, fun c hc => ?_⟩, fun hon hhunt => ⟨⟨_, ?_, (markArrives_begins hhunt).posts⟩, fun c hc => ?_⟩,
    fun got t hon hasm => ⟨fun c hc hmore => ?_, fun c kind body hgood => exec_completing hreset hon hasm hgood,
      fun e cause he => ?_, fun e he => ?_⟩⟩
  · rw [exec_markReceived hreset, receiveChar_off hoff]
  · rw [exec_characterReceived hreset, receiveChar_off hoff]
  · rw [exec_markReceived hreset, receiveChar_mark hon]
  · rw [exec_characterReceived hreset, receiveChar_hunting hc hhunt]
  · refine ⟨_, ?_, setLine_onlyPosts n { l with assembler := .assembling (got ++ [c.bits]) now } s⟩
    rw [exec_characterReceived hreset, receiveChar_assembling hon hc hasm, hmore]
  · intro counted
    have hexec : exec e s = .next (grant (badFrame n cause s)) := by
      rcases he with ⟨c, he, hmark, hbad⟩ | ⟨rfl, rfl, htime⟩
      · exact exec_badCharacter hreset hon hmark hasm hbad he
      · exact exec_frameAbandoned hreset hon hasm htime
    refine ⟨fun hq => ⟨_, hexec, ((LineBecomes.refl n s).badFrame_counts hq cause).posts⟩, fun hrun hact hroom => ?_⟩
    obtain ⟨hposts, hqueued⟩ := (LineBecomes.refl n s).badFrame_mutes hrun hact hroom cause
    exact ⟨_, hexec, hposts, hqueued⟩
  · intro begun
    have hexec := exec_cuttingMark hreset hon hasm he
    refine ⟨fun hq => ⟨_, hexec, (markArrives_counts hasm hq).posts⟩, fun hrun hact hroom => ?_⟩
    obtain ⟨hposts, hqueued⟩ := markArrives_mutes hasm hrun hact hroom
    exact ⟨_, hexec, hposts, hqueued⟩

end Sys2Proof.Machine
end


section
/-! Good frames and the requests they make (R169 to R174, R176). -/

namespace Sys2Proof.Machine

open Sys2Proof

/-! ### The words of an inbox slot (para 10.3) -/

/-- A word is shifted up by one bit. -/
theorem shiftIn_getLsbD (w : Word) (b : Bool) (k : Nat) (hk : k < 16) :
    (w * 2 + (if b then 1 else 0)).getLsbD k = if k = 0 then b else w.getLsbD (k - 1) := by
  have hvalue : (w * 2 + (if b then 1 else 0)).toNat = (2 * w.toNat + b.toNat) % 65536 := by
    cases b <;> simp [BitVec.toNat_add, BitVec.toNat_mul] <;> omega
  have hmod : (2 * w.toNat + b.toNat) % 65536 = (2 * w.toNat + b.toNat) % 2 ^ 16 := rfl
  rw [BitVec.getLsbD, hvalue, hmod, Nat.testBit_mod_two_pow, decide_eq_true hk, Bool.true_and]
  cases k with
  | zero => cases b <;> simp [Nat.testBit_zero]
  | succ k =>
    have hhalf : (2 * w.toNat + b.toNat) / 2 = w.toNat := by
      have hb := Bool.toNat_lt b
      omega
    rw [Nat.testBit_add_one, hhalf, if_neg (Nat.succ_ne_zero k)]
    rfl

theorem foldl_bits (bs : List Bool) (w : Word) (k : Nat) (hk : k < bs.length) (hk16 : k < 16) :
    (bs.foldl (fun w b => w * 2 + (if b then 1 else 0)) w).getLsbD k = bs.getD (bs.length - 1 - k) false := by
  induction bs generalizing w with
  | nil => cases hk
  | cons b bs ih =>
    rw [List.foldl_cons]
    by_cases hlt : k < bs.length
    · rw [ih _ hlt, List.length_cons, show bs.length + 1 - 1 - k = (bs.length - 1 - k) + 1 by omega, List.getD_cons_succ]
    · have hkeep : ∀ (cs : List Bool) (v : Word), cs.length ≤ k →
          (cs.foldl (fun w b => w * 2 + (if b then 1 else 0)) v).getLsbD k = v.getLsbD (k - cs.length) := by
        intro cs
        induction cs with
        | nil => exact fun v _ => rfl
        | cons d cs ih2 =>
          intro v hle
          rw [List.length_cons] at hle
          rw [List.foldl_cons, ih2 _ (by omega), shiftIn_getLsbD _ _ _ (by omega), if_neg (by omega), List.length_cons,
            show k - cs.length - 1 = k - (cs.length + 1) by omega]
      have hk' : k = bs.length := by
        rw [List.length_cons] at hk
        omega
      rw [hkeep bs _ (by omega), hk', Nat.sub_self, shiftIn_getLsbD _ _ 0 (by decide), if_pos rfl, List.length_cons,
        show bs.length + 1 - 1 - bs.length = 0 by omega, List.getD_cons_zero]

theorem length_packWords (n : Nat) (bs : List Bool) : (packWords n bs).length = n := by
  induction n generalizing bs with
  | zero => rfl
  | succ n ih => rw [packWords, List.length_cons, ih]

theorem packWords_getD (n : Nat) (bs : List Bool) (q : Nat) (hq : q < n) :
    (packWords n bs).getD q 0 = wordOfBits ((bs.drop (16 * q)).take 16) := by
  induction n generalizing bs q with
  | zero => cases hq
  | succ n ih =>
    cases q with
    | zero => rfl
    | succ q =>
      rw [packWords, List.getD_cons_succ, ih _ _ (Nat.lt_of_succ_lt_succ hq), List.drop_drop,
        show 16 + 16 * q = 16 * (q + 1) by omega]

/-- Bit `r`, from the left, of word `q` is bit 16q + r of the list. -/
theorem packWords_getLsbD {n : Nat} {bs : List Bool} (hlen : bs.length = 16 * n) {q r : Nat} (hq : q < n) (hr : r < 16) :
    ((packWords n bs).getD q 0).getLsbD (15 - r) = bs.getD (16 * q + r) false := by
  have hchunk : ((bs.drop (16 * q)).take 16).length = 16 := by
    rw [List.length_take, List.length_drop]
    omega
  rw [packWords_getD n bs q hq, wordOfBits, foldl_bits _ _ _ (by omega) (by omega), hchunk,
    show 16 - 1 - (15 - r) = r by omega]
  simp [List.getD, hr]

theorem flatMap_sevenBits (cs : List Byte) (j b : Nat) (hb : b < 7) :
    (cs.flatMap sevenBits)[7 * j + b]? = cs[j]?.map (fun c => c.getLsbD (6 - b)) := by
  have hseven : ∀ c : Byte, (sevenBits c).length = 7 := fun _ => rfl
  induction cs generalizing j with
  | nil => rfl
  | cons c cs ih =>
    rw [List.flatMap_cons]
    cases j with
    | zero =>
      rw [List.getElem?_append_left (by rw [hseven]; omega)]
      match b, hb with
      | 0, _ | 1, _ | 2, _ | 3, _ | 4, _ | 5, _ | 6, _ => rfl
    | succ j =>
      rw [List.getElem?_append_right (by rw [hseven]; omega), hseven, show 7 * (j + 1) + b - 7 = 7 * j + b by omega, ih,
        List.getElem?_cons_succ]

theorem paddedText_getElem? (text : List Byte) {j : Nat} (hj : j < 32) :
    (paddedText text)[j]? = some (text.getD j 0x20) := by
  unfold paddedText
  by_cases hlt : j < text.length
  · rw [List.getElem?_append_left (by rw [List.length_take]; omega), List.getElem?_take, if_pos hj,
      List.getElem?_eq_getElem hlt, List.getD_eq_getElem _ _ hlt]
  · rw [List.getElem?_append_right (by rw [List.length_take]; omega), List.getElem?_replicate, if_pos
      (by rw [List.length_take]; omega), List.getD_eq_default _ _ (Nat.not_lt.mp hlt)]

theorem length_paddedText (text : List Byte) : (paddedText text).length = 32 := by
  unfold paddedText
  rw [List.length_append, List.length_take, List.length_replicate]
  omega

theorem length_flatMap_sevenBits (cs : List Byte) : (cs.flatMap sevenBits).length = 7 * cs.length := by
  induction cs with
  | nil => rfl
  | cons c cs ih =>
    rw [List.flatMap_cons, List.length_append, ih, show (sevenBits c).length = 7 from rfl, List.length_cons]
    omega

theorem inboxWords_spec (time : Time) (seq : Byte) (n : Fin 16) (text : List Byte) :
    let ws := inboxWords time seq n text
    ws.length = 18 ∧ numAt ws 0 * 65536 + numAt ws 1 = time.toNat ∧
      numAt ws 2 = 256 * seq.toNat + n.val ∧ numAt ws 3 = min 32 text.length ∧
      ∀ j < 32, ∀ b < 7,
        (ws.getD (4 + (7 * j + b) / 16) 0).getLsbD (15 - (7 * j + b) % 16) = (text.getD j 0x20).getLsbD (6 - b) := by
  intro ws
  obtain ⟨bits, hbits⟩ : ∃ x, (paddedText text).flatMap sevenBits = x := ⟨_, rfl⟩
  have hlen : bits.length = 16 * 14 := by
    rw [← hbits, length_flatMap_sevenBits, length_paddedText]
  have hws : ws = highLow time.toNat ++ [BitVec.ofNat 16 (256 * seq.toNat + n.val),
      BitVec.ofNat 16 (min 32 text.length)] ++ packWords 14 bits := by
    rw [← hbits]
    rfl
  have hhead : (highLow time.toNat ++ [BitVec.ofNat 16 (256 * seq.toNat + n.val),
      BitVec.ofNat 16 (min 32 text.length)]).length = 4 := rfl
  have hseq := seq.isLt
  have hn := n.isLt
  refine ⟨?_, ?_, ?_, ?_, fun j hj b hb => ?_⟩
  · rw [hws, List.length_append, hhead, length_packWords]
  · have htime : time.toNat % 4294967296 = time.toNat := Nat.mod_eq_of_lt time.isLt
    show (BitVec.ofNat 16 (time.toNat / 65536)).toNat * 65536 + (BitVec.ofNat 16 time.toNat).toNat = _
    rw [highLow_value, htime]
  · show (BitVec.ofNat 16 (256 * seq.toNat + n.val)).toNat = _
    rw [BitVec.toNat_ofNat]
    omega
  · show (BitVec.ofNat 16 (min 32 text.length)).toNat = _
    rw [BitVec.toNat_ofNat]
    omega
  · rw [hws, List.getD_append_right _ _ _ _ (by rw [hhead]; omega), hhead, Nat.add_sub_cancel_left,
      packWords_getLsbD hlen (by omega) (Nat.mod_lt _ (by decide)), Nat.div_add_mod, List.getD, ← hbits,
      flatMap_sevenBits _ _ _ hb, paddedText_getElem? text hj]
    rfl

/-! ### The outbound queue (R176) -/

theorem replacePage_none {q : List OutEntry} (h : ∀ j, .page j ∉ q) (i : Nat) : replacePage i q = (false, q) := by
  induction q with
  | nil => rfl
  | cons e q ih =>
    have htail := ih fun j hj => h j (List.mem_cons_of_mem _ hj)
    cases e with
    | page j => exact absurd List.mem_cons_self (h j)
    | _ => simp [replacePage, htail]

theorem replacePage_first {a : List OutEntry} (h : ∀ j, .page j ∉ a) (i j : Nat) (b : List OutEntry) :
    replacePage i (a ++ .page j :: b) = (true, a ++ .page i :: b) := by
  induction a with
  | nil => rfl
  | cons e a ih =>
    have htail := ih fun j hj => h j (List.mem_cons_of_mem _ hj)
    cases e with
    | page j' => exact absurd List.mem_cons_self (h j')
    | _ => simp [replacePage, htail]

theorem ackCount_cons (e : OutEntry) (q : List OutEntry) :
    ackCount (e :: q) = ackCount q + match e with
      | .ack _ => 1
      | _ => 0 := by
  cases e <;> simp [ackCount]

theorem queueOut_spec (q : List OutEntry) (i : Nat) (x : Byte) (c : Notice) :
    queueOut (.quote i) q = (if .quote i ∈ q then q else q ++ [.quote i]) ∧ queueOut (.ack x) q = q ++ [.ack x] ∧
    queueOut (.notice c) q = (if .notice c ∈ q then q else q ++ [.notice c]) ∧
    ((∀ j, .page j ∉ q) → queueOut (.page i) q = q ++ [.page i]) ∧
    (∀ a j b, q = a ++ .page j :: b → (∀ j', .page j' ∉ a) → queueOut (.page i) q = a ++ .page i :: b) ∧
    ackCount [] = 0 ∧
    ∀ e, ackCount (e :: q) = ackCount q + match e with
      | .ack _ => 1
      | _ => 0 := by
  refine ⟨by simp [queueOut], rfl, by simp [queueOut], fun h => ?_, ?_, rfl, fun e => ackCount_cons e q⟩
  · simp [queueOut, replacePage_none h]
  · rintro a j b rfl h
    simp [queueOut, replacePage_first h]

/-! ### The Symbol Index (R42) -/

theorem lookup_congr {s u : State} (h : u.tbl = s.tbl) (text : List Byte) : lookup u text = lookup s text := by
  unfold lookup State.instrument?
  rw [h]

theorem isSymbolText_iff (text : List Byte) :
    (decide (1 ≤ text.length ∧ text.length ≤ 5) && text.all isLetter) = true ↔
      1 ≤ text.length ∧ text.length ≤ 5 ∧ ∀ c ∈ text, 0x41 ≤ c.toNat ∧ c.toNat ≤ 0x5A := by
  simp [isLetter, and_assoc]

theorem lookup_spec (s : State) (text : List Byte) :
    let letters : Prop := 1 ≤ text.length ∧ text.length ≤ 5 ∧ ∀ c ∈ text, 0x41 ≤ c.toNat ∧ c.toNat ≤ 0x5A
    (∀ i, lookup s text = some i →
      letters ∧ i ∈ s.tbl.symbolIndex ∧ ∃ r, s.instrument? i = some r ∧ r.symbol = text) ∧
    (lookup s text = none →
      letters → ∀ i ∈ s.tbl.symbolIndex, ∀ r, s.instrument? i = some r → r.symbol ≠ text) := by
  intro letters
  have hletters := isSymbolText_iff text
  refine ⟨fun i hi => ?_, fun hnone hl i hmem r hr hsym => ?_⟩
  · unfold lookup at hi
    split at hi
    · rename_i hgood
      refine ⟨hletters.mp hgood, List.mem_of_find?_eq_some hi, ?_⟩
      have hmatch := List.find?_some hi
      split at hmatch
      · cases hmatch
      · rename_i r hr
        exact ⟨r, hr, beq_iff_eq.mp hmatch⟩
    · cases hi
  · unfold lookup at hnone
    rw [if_pos (hletters.mpr hl)] at hnone
    have hno := List.find?_eq_none.mp hnone i hmem
    rw [hr] at hno
    exact hno (beq_iff_eq.mpr hsym)

/-! ### A good frame and its request (R169 to R174) -/

/-- The line as a good frame leaves it, before it is acted on (R168, R182). -/
def Line.heard (l : Line) (now : Time) : Line :=
  { l with
    badRun := 0
    assembler := .hunting
    state := if l.state = .dozing then .active else l.state
    dozeTimer := if l.doze = 0 then none else some now }

theorem goodFrame_eq (n : Fin 16) (kind : Byte) (body : List Byte) (s : State) :
    goodFrame n kind body s =
      if (s.lines[n].heard s.ctl.timeBase).state = .active then
        actOnFrame n kind body (setLine n (s.lines[n].heard s.ctl.timeBase) s)
      else setLine n (s.lines[n].heard s.ctl.timeBase) s := by
  have hl : (({ s.lines[n] with badRun := 0, assembler := .hunting } : Line).wake s.ctl.timeBase).restartDoze s.ctl.timeBase
      = s.lines[n].heard s.ctl.timeBase := by
    rw [Line.wake_eq, Line.heard]
    split <;> rfl
  rw [← hl]
  rfl

section
variable {n : Fin 16} {l : Line} {s u : State} {body : List Byte} {i : Nat} {r : Instrument}

theorem LineBecomes.lookup (h : LineBecomes n l s u) (text : List Byte) : Machine.lookup u text = Machine.lookup s text :=
  lookup_congr h.tbl text

/-- The watcher set of an instrument changes behind a change of the line. -/
theorem OnlyPosts.changeWatchers {a u : State} (h : OnlyPosts a u) (hr : a.instrument? i = some r)
    (f : List (Fin 16) → List (Fin 16)) :
    OnlyPosts
      { a with tbl := { a.tbl with instruments := a.tbl.instruments.set i { r with watchers := f r.watchers } } }
      (Machine.changeWatchers i f u) := by
  have htbl : u.tbl = a.tbl := by rw [h.eq]
  have hr' : u.instrument? i = some r := by
    rw [State.instrument?, htbl]
    exact hr
  have hchange : Machine.changeWatchers i f u = setInstrument i { r with watchers := f r.watchers } u := by
    rw [Machine.changeWatchers, hr']
  rw [hchange]
  exact h.map (setInstrument i { r with watchers := f r.watchers }) (fun _ _ => rfl) (fun w _ => by cases w <;> rfl)

theorem LineBecomes.queues (h : LineBecomes n l s u) (e : OutEntry) :
    LineBecomes n { l with out := queueOut e l.out } s (Machine.setLine n (u.lines[n].queue e) u) := by
  rw [h.line]
  exact h.setLine _

/-- A request for an unknown symbol queues UNKNOWN (R171 to R173). -/
theorem LineBecomes.unknown (h : LineBecomes n l s u) (hnone : Machine.lookup s body = none) {kind : Byte}
    (hkind : kind ∈ [0x57, 0x44, 0x50]) :
    LineBecomes n { l with out := queueOut (.notice .unknown) l.out } s (actOnFrame n kind body u) := by
  have hl : Machine.lookup u body = none := (h.lookup body).trans hnone
  have hact : actOnFrame n kind body u = Machine.setLine n (u.lines[n].queue (.notice .unknown)) u := by
    simp only [List.mem_cons, List.not_mem_nil, or_false] at hkind
    rcases hkind with rfl | rfl | rfl
    · exact (if_pos rfl).trans (by rw [requestWatch, hl])
    · exact ((if_neg (by decide)).trans (if_pos rfl)).trans (by rw [requestDrop, hl])
    · exact ((if_neg (by decide)).trans ((if_neg (by decide)).trans (if_pos rfl))).trans (by rw [requestPage, hl])
  rw [hact]
  exact h.queues _

theorem actOnFrame_other {kind : Byte} (hkind : kind ∉ [0x57, 0x44, 0x50, 0x4D]) : actOnFrame n kind body u = u := by
  simp only [List.mem_cons, List.not_mem_nil, or_false, not_or] at hkind
  obtain ⟨hw, hd, hp, hm⟩ := hkind
  rw [actOnFrame, if_neg hw, if_neg hd, if_neg hp, if_neg hm]

theorem LineBecomes.watches (h : LineBecomes n l s u) (hi : Machine.lookup s body = some i)
    (hr : s.instrument? i = some r) :
    (i ∈ l.watch → requestWatch n body u = u) ∧
    (i ∉ l.watch → 24 ≤ l.watch.length →
      LineBecomes n { l with out := queueOut (.notice .full) l.out } s (requestWatch n body u)) ∧
    (i ∉ l.watch → l.watch.length < 24 →
      OnlyPosts
        { s with
          lines := s.lines.set n { l with out := queueOut (.quote i) l.out, watch := l.watch ++ [i] }
          tbl :=
            { s.tbl with
              instruments :=
                s.tbl.instruments.set i
                  { r with watchers := if n ∈ r.watchers then r.watchers else r.watchers ++ [n] } } }
        (requestWatch n body u)) := by
  have hl : Machine.lookup u body = some i := (h.lookup body).trans hi
  refine ⟨fun hin => ?_, fun hout hfull => ?_, fun hout hroom => ?_⟩
  · simp [-Fin.getElem_fin, requestWatch, hl, h.line, hin]
  · have hact : requestWatch n body u = Machine.setLine n (u.lines[n].queue (.notice .full)) u := by
      simp [-Fin.getElem_fin, requestWatch, hl, h.line, hout, hfull]
    rw [hact]
    exact h.queues _
  · have hact : requestWatch n body u = Machine.changeWatchers i (addWatcher n)
        (Machine.setLine n (({ l with watch := l.watch ++ [i] } : Line).queue (.quote i)) u) := by
      simp [-Fin.getElem_fin, requestWatch, hl, h.line, hout, Nat.not_le.mpr hroom]
    have hadd : addWatcher n r.watchers = if n ∈ r.watchers then r.watchers else r.watchers ++ [n] := by
      simp [addWatcher]
    rw [hact, ← hadd]
    exact (h.setLine _).posts.changeWatchers (r := r) hr (addWatcher n)

theorem LineBecomes.drops (h : LineBecomes n l s u) (hi : Machine.lookup s body = some i)
    (hr : s.instrument? i = some r) :
    (i ∉ l.watch → requestDrop n body u = u) ∧
    (i ∈ l.watch →
      OnlyPosts
        { s with
          lines := s.lines.set n { l with watch := l.watch.filter (· != i), out := l.out.filter (· != .quote i) }
          tbl :=
            { s.tbl with
              instruments := s.tbl.instruments.set i { r with watchers := r.watchers.filter (· != n) } } }
        (requestDrop n body u)) := by
  have hl : Machine.lookup u body = some i := (h.lookup body).trans hi
  refine ⟨fun hout => ?_, fun hin => ?_⟩
  · simp [-Fin.getElem_fin, requestDrop, hl, h.line, hout]
  · have hact : requestDrop n body u = Machine.changeWatchers i (dropWatcher n)
        (Machine.setLine n { l with watch := l.watch.filter (· != i), out := l.out.filter (· != .quote i) } u) := by
      simp [-Fin.getElem_fin, requestDrop, hl, h.line, hin]
    rw [hact]
    exact (h.setLine _).posts.changeWatchers (r := r) hr (dropWatcher n)

theorem LineBecomes.pages (h : LineBecomes n l s u) (hi : Machine.lookup s body = some i) :
    LineBecomes n { l with out := queueOut (.page i) l.out } s (requestPage n body u) := by
  have hl : Machine.lookup u body = some i := (h.lookup body).trans hi
  have hact : requestPage n body u = Machine.setLine n (u.lines[n].queue (.page i)) u := by
    rw [requestPage, hl]
  rw [hact]
  exact h.queues _

theorem LineBecomes.inbox (h : LineBecomes n l s u) : u.ctl.inbox = s.ctl.inbox := by
  rw [h.posts.eq]

/-- The room that a message needs: a free inbox slot, and fewer than four of the line's messages unanswered (R174). -/
def MessageRoom (s : State) (l : Line) : Prop :=
  s.ctl.inbox.nextSlot + 1 ≠ s.ctl.inbox.readIndex ∧ ackCount l.out + l.awaited.length < 4

theorem LineBecomes.messageRoom (h : LineBecomes n l s u) :
    (u.inboxFree && decide (ackCount u.lines[n].out + u.lines[n].awaited.length < 4)) = true ↔ MessageRoom s l := by
  rw [h.line, State.inboxFree, h.inbox, MessageRoom]
  simp

theorem LineBecomes.messageRefused (h : LineBecomes n l s u) (hno : ¬ MessageRoom s l) :
    LineBecomes n { l with out := queueOut (.notice .inboxBusy) l.out } s (requestMessage n body u) := by
  have hact : requestMessage n body u = Machine.setLine n (u.lines[n].queue (.notice .inboxBusy)) u :=
    if_neg (mt h.messageRoom.mp hno)
  rw [hact]
  exact h.queues _

/-- A message of a line is given the next inbox slot, behind a change of the line. -/
theorem LineBecomes.messageTaken (h : LineBecomes n l s u) (hroom : MessageRoom s l) :
    (requestMessage n body u).Queued
        (.inboxSlot s.ctl.inbox.nextSlot n l.nextSeq (inboxWords s.ctl.timeBase l.nextSeq n body)) ∧
      OnlyPosts
        { s with
          lines := s.lines.set n { l with nextSeq := l.nextSeq + 1, awaited := l.awaited ++ [l.nextSeq] }
          ctl := { s.ctl with inbox := { s.ctl.inbox with nextSlot := s.ctl.inbox.nextSlot + 1 } } }
        (requestMessage n body u) := by
  have hset := h.setLine { l with nextSeq := l.nextSeq + 1, awaited := l.awaited ++ [l.nextSeq] }
  obtain ⟨v, hv⟩ : ∃ v, Machine.setLine n { l with nextSeq := l.nextSeq + 1, awaited := l.awaited ++ [l.nextSeq] } u = v :=
    ⟨_, rfl⟩
  rw [hv] at hset
  have hact : requestMessage n body u = submitMessage n l.nextSeq body v := by
    refine (if_pos (h.messageRoom.mpr hroom)).trans ?_
    rw [h.line, hv]
  have hbox := hset.inbox
  have htime := hset.time
  rw [hact, submitMessage, hbox, htime]
  refine ⟨postRecord_queued _ _, ?_⟩
  have hslot := hset.posts.map
    (fun x => { x with ctl := { x.ctl with inbox := { x.ctl.inbox with nextSlot := x.ctl.inbox.nextSlot + 1 } } })
    (fun _ _ => rfl) (fun w _ => by cases w <;> rfl)
  simp only [hbox] at hslot
  exact hslot.trans (postRecord_onlyPosts _ _ (by simp))

end

/-- Settles O54. -/
theorem goodFramesActedOn : Obligations.GoodFramesActedOn := by
  unfold Obligations.GoodFramesActedOn
  refine ⟨fun n kind body got t s hreset hon hasm hready => ?_, lookup_spec, fun got kind body => readyFrame_eq_some,
    queueOut_spec, inboxWords_spec⟩
  intro l becomes watchers queued
  have hset : LineBecomes n l s (setLine n l s) := (LineBecomes.refl n s).setLine l
  have hframe : l.state = .active → goodFrame n kind body s = actOnFrame n kind body (setLine n l s) := fun hact =>
    (goodFrame_eq n kind body s).trans (if_pos hact)
  have hexec : ∀ {e : Instr}, _ → exec e s = .next (grant (goodFrame n kind body s)) :=
    fun he => exec_goodFrame hreset hon hasm hready he
  refine ⟨fun c hc => ⟨fun hquiet => ?_, fun hact hkind hnone => ?_⟩, fun hact i r hi hr => ⟨?_, ?_, ?_⟩, ?_⟩
  · have hgood : goodFrame n kind body s = setLine n l s := by
      refine (goodFrame_eq n kind body s).trans ?_
      split
      · rename_i hact
        refine actOnFrame_other (hquiet.resolve_left fun hmuted => ?_)
        have hact' : l.state = .active := hact
        rw [hmuted] at hact'
        cases hact'
      · rfl
    exact ⟨_, (hexec hc).trans (by rw [hgood]), hset.posts⟩
  · exact ⟨_, (hexec hc).trans (by rw [hframe hact]), (hset.unknown hnone hkind).posts⟩
  · intro hkind
    subst hkind
    have hact' : goodFrame n 0x57 body s = requestWatch n body (setLine n l s) := hframe hact
    have he := hexec (e := .watchRequest n) (.inl ⟨rfl, rfl⟩)
    rw [hact'] at he
    obtain ⟨hin, hfull, hroom⟩ := hset.watches hi hr
    refine ⟨fun h => ⟨_, he, ?_⟩, fun h h24 => ⟨_, he, (hfull h h24).posts⟩, fun h h24 => ⟨_, he, hroom h h24⟩⟩
    rw [hin h]
    exact hset.posts
  · intro hkind
    subst hkind
    have hact' : goodFrame n 0x44 body s = requestDrop n body (setLine n l s) := hframe hact
    have he := hexec (e := .watchDrop n) (.inr (.inl ⟨rfl, rfl⟩))
    rw [hact'] at he
    obtain ⟨hout, hin⟩ := hset.drops hi hr
    refine ⟨fun h => ⟨_, he, ?_⟩, fun h => ⟨_, he, hin h⟩⟩
    rw [hout h]
    exact hset.posts
  · intro hkind
    subst hkind
    have hact' : goodFrame n 0x50 body s = requestPage n body (setLine n l s) := hframe hact
    have he := hexec (e := .pageRequest n) (.inr (.inr (.inl ⟨rfl, rfl⟩)))
    rw [hact'] at he
    exact ⟨_, he, (hset.pages hi).posts⟩
  · intro hact hkind box room
    subst hkind
    have hact' : goodFrame n 0x4D body s = requestMessage n body (setLine n l s) := hframe hact
    have he := hexec (e := .messageRequest n) (.inr (.inr (.inr (.inl ⟨rfl, rfl⟩))))
    rw [hact'] at he
    exact ⟨fun hno => ⟨_, he, (hset.messageRefused hno).posts⟩, fun hroom => ⟨_, he, hset.messageTaken hroom⟩⟩

end Sys2Proof.Machine
end


section
/-! The directory header: what its checks look at (R47, R48, R50, R54, para 10.4). -/

namespace Sys2Proof.Machine

open Sys2Proof

/-! ### Words and codes -/

theorem numAt_eq (ws : List Word) (i : Nat) : numAt ws i = (wordAt ws i).toNat := rfl

theorem numAt_append {ws more : List Word} {i : Nat} (h : i < ws.length) : numAt (ws ++ more) i = numAt ws i := by
  rw [numAt, List.getD_append _ _ _ _ h, numAt]

/-- The five rates have the codes 0 to 4 (para 10.1). -/
theorem rateOfCode_isSome (w : Word) : (rateOfCode w).isSome = true ↔ w.toNat ≤ 4 := by
  unfold rateOfCode
  split_ifs <;> simp <;> bv_omega

theorem rateOfCode_eq_none_rate (w : Word) : rateOfCode w = some .none ↔ w.toNat = 0 := by
  unfold rateOfCode
  split_ifs <;> simp <;> bv_omega

theorem headerPolicy_isSome (ws : List Word) (k : Nat) :
    (headerPolicy ws k).isSome = true ↔ numAt ws (18 + 4 * k) ≤ 2 := by
  have hw : numAt ws (18 + 4 * k) = (wordAt ws (16 + 4 * k + 2)).toNat := by
    rw [numAt_eq, show 18 + 4 * k = 16 + 4 * k + 2 by omega]
  rw [hw]
  unfold headerPolicy
  dsimp only
  split_ifs <;> simp <;> bv_omega

/-! ### The watch list of a line block (R48) -/

theorem headerWatch_length (ws : List Word) (l : Nat) : (headerWatch ws l).length = numAt ws (67 + 28 * l) := by
  simp only [headerWatch, headerWatchCount, lineBlockAt, List.length_map, List.length_range, numAt_eq]
  rw [show 64 + 28 * l + 3 = 67 + 28 * l by omega]

theorem headerWatch_getElem? (ws : List Word) (l : Nat) {j : Nat} (hj : j < numAt ws (67 + 28 * l)) :
    (headerWatch ws l)[j]? = some (numAt ws (68 + 28 * l + j)) := by
  have hcount : j < headerWatchCount ws l := by
    simp only [headerWatchCount, lineBlockAt]
    rw [show 64 + 28 * l + 3 = 67 + 28 * l by omega]
    exact hj
  simp only [headerWatch, List.getElem?_map, List.getElem?_range hcount, Option.map_some, lineBlockAt, numAt_eq]
  rw [show 64 + 28 * l + 4 + j = 68 + 28 * l + j by omega]

theorem mem_headerWatch (ws : List Word) (l i : Nat) :
    i ∈ headerWatch ws l ↔ ∃ j < numAt ws (67 + 28 * l), numAt ws (68 + 28 * l + j) = i := by
  rw [List.mem_iff_getElem?]
  constructor
  · rintro ⟨j, hj⟩
    have hlt : j < numAt ws (67 + 28 * l) := by
      rw [← headerWatch_length]
      exact (List.getElem?_eq_some_iff.mp hj).1
    rw [headerWatch_getElem? ws l hlt] at hj
    exact ⟨j, hlt, Option.some.inj hj⟩
  · rintro ⟨j, hj, rfl⟩
    exact ⟨j, headerWatch_getElem? ws l hj⟩

/-- Index `j` of a list passes its two checks, below the count and unlike those before it and those seen. -/
def IndexGood (count : Nat) (seen is : List Nat) (j : Nat) : Prop :=
  ∀ i, is[j]? = some i → i < count ∧ i ∉ seen ∧ ∀ h < j, is[h]? ≠ some i

theorem indexGood_zero {count : Nat} {seen : List Nat} {i : Nat} {is : List Nat} :
    IndexGood count seen (i :: is) 0 ↔ i < count ∧ i ∉ seen := by
  simp [IndexGood]

theorem indexGood_succ {count : Nat} {seen : List Nat} {i : Nat} {is : List Nat} {j : Nat} :
    IndexGood count seen (i :: is) (j + 1) ↔ IndexGood count (i :: seen) is j := by
  unfold IndexGood
  refine forall_congr' fun x => ?_
  rw [List.getElem?_cons_succ]
  refine imp_congr_right fun _ => and_congr_right fun _ => ?_
  constructor
  · rintro ⟨hseen, hbefore⟩
    refine ⟨?_, fun h hh => ?_⟩
    · rintro hx
      rcases List.mem_cons.mp hx with rfl | hx
      · exact hbefore 0 (Nat.succ_pos j) rfl
      · exact hseen hx
    · have := hbefore (h + 1) (Nat.succ_lt_succ hh)
      rwa [List.getElem?_cons_succ] at this
  · rintro ⟨hseen, hbefore⟩
    refine ⟨fun hx => hseen (List.mem_cons_of_mem _ hx), fun h hh => ?_⟩
    cases h with
    | zero =>
      rw [List.getElem?_cons_zero]
      exact fun hx => hseen (Option.some.inj hx ▸ List.mem_cons_self)
    | succ h =>
      rw [List.getElem?_cons_succ]
      exact hbefore h (Nat.lt_of_succ_lt_succ hh)

/-- The watch indices pass exactly where each of them does. -/
theorem watchCheck_eq_none {count : Nat} {seen is : List Nat} :
    watchCheck count seen is = none ↔ ∀ j < is.length, IndexGood count seen is j := by
  induction is generalizing seen with
  | nil => simp [watchCheck]
  | cons i is ih =>
    have hsplit : (∀ j < (i :: is).length, IndexGood count seen (i :: is) j) ↔
        (i < count ∧ i ∉ seen) ∧ ∀ j < is.length, IndexGood count (i :: seen) is j := by
      rw [← indexGood_zero (is := is)]
      constructor
      · intro h
        exact ⟨h 0 (Nat.succ_pos _), fun j hj => indexGood_succ.mp (h (j + 1) (Nat.succ_lt_succ hj))⟩
      · rintro ⟨h0, h⟩ j hj
        cases j with
        | zero => exact h0
        | succ j => exact indexGood_succ.mpr (h j (Nat.lt_of_succ_lt_succ hj))
    rw [hsplit, ← ih, watchCheck]
    split
    · simp only [reduceCtorEq, false_iff]
      rintro ⟨⟨hlt, _⟩, _⟩
      omega
    · rename_i hlt
      split
      · rename_i hseen
        simp only [reduceCtorEq, false_iff]
        rintro ⟨⟨_, hno⟩, _⟩
        exact hno (by simpa using hseen)
      · rename_i hseen
        have hno : i ∉ seen := by simpa using hseen
        simp [hno, Nat.not_le.mp hlt]

/-- The first index that fails gives the code: its range before its repetition (R48). -/
theorem watchCheck_eq_some {count : Nat} {seen is : List Nat} {j : Nat} (hj : j < is.length)
    (hbefore : ∀ h < j, IndexGood count seen is h) (hbad : ¬ IndexGood count seen is j) :
    watchCheck count seen is = some (if count ≤ is[j] then .watchRange else .watchRepeated) := by
  induction is generalizing seen j with
  | nil => cases hj
  | cons i is ih =>
    rw [watchCheck]
    cases j with
    | zero =>
      rw [indexGood_zero] at hbad
      rw [List.getElem_cons_zero]
      split
      · rfl
      · rename_i hlt
        have hseen : i ∈ seen := by
          by_contra hno
          exact hbad ⟨Nat.not_le.mp hlt, hno⟩
        rw [if_pos (by simpa using hseen)]
    | succ j =>
      obtain ⟨hlt, hno⟩ := indexGood_zero.mp (hbefore 0 (Nat.succ_pos j))
      rw [if_neg (Nat.not_le.mpr hlt), if_neg (by simpa using hno), List.getElem_cons_succ]
      exact ih (Nat.lt_of_succ_lt_succ hj) (fun h hh => indexGood_succ.mp (hbefore (h + 1) (Nat.succ_lt_succ hh)))
        (mt indexGood_succ.mpr hbad)

section
variable (ws : List Word) (l : Fin 16)

theorem watchIndexGood_iff {j : Nat} (hj : j < numAt ws (67 + 28 * l.val)) :
    WatchIndexGood ws l j ↔ IndexGood (headerCount ws) [] (headerWatch ws l.val) j := by
  have hcount : headerCount ws = numAt ws 0 := rfl
  unfold WatchIndexGood IndexGood
  rw [headerWatch_getElem? ws l.val hj, hcount]
  constructor
  · rintro ⟨hlt, hdiff⟩ i hi
    cases hi
    refine ⟨hlt, by simp, fun h hh heq => ?_⟩
    rw [headerWatch_getElem? ws l.val (hh.trans hj)] at heq
    exact hdiff h hh (Option.some.inj heq)
  · intro hall
    obtain ⟨hlt, _, hdiff⟩ := hall _ rfl
    refine ⟨hlt, fun h hh heq => hdiff h hh ?_⟩
    rw [headerWatch_getElem? ws l.val (hh.trans hj), heq]

/-- A line block that is bad in its rate, its class or its count (R48). -/
theorem lineBlockCheck_bad (h : LineBlockBad ws l) : lineBlockCheck ws l.val = some .badLineBlock := by
  have hrate : (headerRate ws l.val).isSome = true ↔ numAt ws (64 + 28 * l.val) ≤ 4 := rateOfCode_isSome _
  have hnone : headerRate ws l.val = some .none ↔ numAt ws (64 + 28 * l.val) = 0 := rateOfCode_eq_none_rate _
  have hclass : headerClass ws l.val = numAt ws (65 + 28 * l.val) := by
    rw [headerClass, lineBlockAt, numAt_eq, show 64 + 28 * l.val + 1 = 65 + 28 * l.val by omega]
  have hcount : headerWatchCount ws l.val = numAt ws (67 + 28 * l.val) := by
    rw [headerWatchCount, lineBlockAt, numAt_eq, show 64 + 28 * l.val + 3 = 67 + 28 * l.val by omega]
  unfold lineBlockCheck
  rw [hclass, hcount]
  cases hr : headerRate ws l.val with
  | none => rfl
  | some r =>
    rw [hr] at hrate hnone
    rw [Option.some.injEq] at hnone
    have hle := hrate.mp rfl
    refine if_pos ?_
    rcases h with h | ⟨h0, h3⟩ | h | ⟨h0, hc⟩
    · omega
    · exact .inl ⟨mt hnone.mp h0, h3⟩
    · exact .inr (.inl h)
    · exact .inr (.inr ⟨hnone.mpr h0, hc⟩)

theorem lineBlockCheck_indexes (h : ¬ LineBlockBad ws l) :
    lineBlockCheck ws l.val = watchCheck (headerCount ws) [] (headerWatch ws l.val) := by
  have hrate : (headerRate ws l.val).isSome = true ↔ numAt ws (64 + 28 * l.val) ≤ 4 := rateOfCode_isSome _
  have hnone : headerRate ws l.val = some .none ↔ numAt ws (64 + 28 * l.val) = 0 := rateOfCode_eq_none_rate _
  have hclass : headerClass ws l.val = numAt ws (65 + 28 * l.val) := by
    rw [headerClass, lineBlockAt, numAt_eq, show 64 + 28 * l.val + 1 = 65 + 28 * l.val by omega]
  have hcount : headerWatchCount ws l.val = numAt ws (67 + 28 * l.val) := by
    rw [headerWatchCount, lineBlockAt, numAt_eq, show 64 + 28 * l.val + 3 = 67 + 28 * l.val by omega]
  simp only [LineBlockBad, not_or, not_and, not_lt] at h
  obtain ⟨h4, h3, h24, h0⟩ := h
  unfold lineBlockCheck
  cases hr : headerRate ws l.val with
  | none =>
    rw [hr] at hrate
    exact absurd (hrate.mpr h4) (by simp)
  | some r =>
    rw [hr, Option.some.injEq] at hnone
    refine if_neg ?_
    rw [hclass, hcount]
    rintro (⟨hr0, h3'⟩ | h24' | ⟨hr0, hc⟩)
    · exact absurd (h3 (mt hnone.mpr hr0)) (Nat.not_le.mpr h3')
    · omega
    · exact h0 (hnone.mp hr0) hc

theorem lineBlockCheck_eq_none (h : lineBlockCheck ws l.val = none) :
    ¬ LineBlockBad ws l ∧ ∀ j < numAt ws (67 + 28 * l.val), WatchIndexGood ws l j := by
  have hgood : ¬ LineBlockBad ws l := fun hbad => by
    rw [lineBlockCheck_bad ws l hbad] at h
    cases h
  refine ⟨hgood, fun j hj => (watchIndexGood_iff ws l hj).mpr ?_⟩
  rw [lineBlockCheck_indexes ws l hgood] at h
  exact watchCheck_eq_none.mp h j (by rwa [headerWatch_length])

end

/-! ### Which check is due at which word (R54) -/

theorem headerCheck_link (ws : List Word) (k : Fin 8) :
    headerCheck ws (18 + 4 * k.val) = if linkBlockGood ws k.val then none else some (.badLinkBlock, k.val) := by
  have hk := k.isLt
  have hdiv : (18 + 4 * k.val - 16) / 4 = k.val := by omega
  rw [headerCheck, if_neg (by omega), if_pos (by omega), hdiv]

theorem headerCheck_line (ws : List Word) (l : Fin 16) :
    headerCheck ws (91 + 28 * l.val) = (lineBlockCheck ws l.val).map (fun c => (c, l.val)) := by
  have hl := l.isLt
  have hdiv : (91 + 28 * l.val - 64) / 28 = l.val := by omega
  rw [headerCheck, if_neg (by omega), if_neg (by omega), if_neg (by omega), if_neg (by omega), if_pos (by omega), hdiv]

/-- The checks of the header (R47, R48, R50, R54). -/
theorem headerChecks (ws : List Word) : HeaderChecks ws where
  count := rfl
  links k := by
    rw [headerCheck_link]
    have hgood : linkBlockGood ws k.val = true ↔
        1 ≤ numAt ws (16 + 4 * k.val) ∧ numAt ws (16 + 4 * k.val) ≤ 16 ∧ numAt ws (17 + 4 * k.val) ≤ 2 ∧
          numAt ws (17 + 4 * k.val) < numAt ws (16 + 4 * k.val) ∧ numAt ws (18 + 4 * k.val) ≤ 2 := by
      rw [linkBlockGood, Bool.and_eq_true, headerPolicy_isSome, decide_eq_true_eq, headerChain, headerSpares,
        show 16 + 4 * k.val + 1 = 17 + 4 * k.val by omega]
      simp only [and_assoc, numAt_eq]
    exact if_congr hgood rfl rfl
  governor := by
    rw [headerCheck, if_neg (by decide), if_neg (by decide), if_pos rfl]
    refine if_congr ?_ rfl rfl
    rw [governorBlockGood, decide_eq_true_eq]
    rfl
  ticker := by
    rw [headerCheck, if_neg (by decide), if_neg (by decide), if_neg (by decide), if_pos rfl]
    refine if_congr ?_ rfl rfl
    rw [tickerBlockGood, decide_eq_true_eq]
    rfl
  lineBlocks l hbad := by rw [headerCheck_line, lineBlockCheck_bad ws l hbad]; rfl
  lineIndexes l hgood := by
    rw [headerCheck_line, lineBlockCheck_indexes ws l hgood]
    refine ⟨fun hall => ?_, fun j hj hbefore hbad => ?_⟩
    · rw [watchCheck_eq_none.mpr fun j hj => ?_]
      · rfl
      · rw [headerWatch_length] at hj
        exact (watchIndexGood_iff ws l hj).mp (hall j hj)
    · have hlen : j < (headerWatch ws l.val).length := by rwa [headerWatch_length]
      have hget : (headerWatch ws l.val)[j] = numAt ws (68 + 28 * l.val + j) :=
        Option.some.inj ((List.getElem?_eq_getElem hlen).symm.trans (headerWatch_getElem? ws l.val hj))
      rw [watchCheck_eq_some hlen (fun h hh => (watchIndexGood_iff ws l (hh.trans hj)).mp (hbefore h hh))
        (mt (watchIndexGood_iff ws l hj).mpr hbad), hget]
      rfl
  others n hn h0 h50 h60 hlinks hlines := by
    rw [headerCheck, if_neg h0, if_neg, if_neg h50, if_neg h60, if_neg]
    · rintro ⟨h64, hmod⟩
      exact hlines ⟨(n - 91) / 28, by omega⟩ (by simp only []; omega)
    · rintro ⟨h16, h48, hmod⟩
      exact hlinks ⟨(n - 18) / 4, by omega⟩ (by simp only []; omega)

end Sys2Proof.Machine
end


section
/-! The laws of one line (R170, R174, R176), and which changes of a line keep them. -/

namespace Sys2Proof.Machine

open Sys2Proof

/-! ### The outbound queue by itself -/

/-- What the laws of a line say of its outbound queue: a QUOTE entry only for an instrument of the watch list and one for
each, one PAGE entry, and one NOTICE entry for each code. -/
structure OutLawful (watch : List Nat) (q : List OutEntry) : Prop where
  quotes : ∀ i, .quote i ∈ q → i ∈ watch
  quoteOnce : ∀ i, q.count (.quote i) ≤ 1
  pageOnce : pageCount q ≤ 1
  noticeOnce : ∀ c, q.count (.notice c) ≤ 1

/-- The instruments of the QUOTE entries of a queue. -/
def quotesOf (q : List OutEntry) : List Nat :=
  q.filterMap (fun e => match e with
    | .quote i => some i
    | _ => none)

theorem mem_quotesOf {q : List OutEntry} {i : Nat} : i ∈ quotesOf q ↔ .quote i ∈ q := by
  rw [quotesOf, List.mem_filterMap]
  constructor
  · rintro ⟨e, he, h⟩
    cases e <;> cases h
    exact he
  · exact fun h => ⟨_, h, rfl⟩

theorem count_quotesOf (q : List OutEntry) (i : Nat) : (quotesOf q).count i = q.count (.quote i) := by
  induction q with
  | nil => rfl
  | cons e q ih =>
    have hcons : quotesOf (e :: q) = (match e with
      | .quote j => [j]
      | _ => []) ++ quotesOf q := by
      cases e <;> rfl
    rw [hcons, List.count_append, ih]
    cases e <;> simp [List.count_cons, Nat.add_comm]

/-- The entries of a queue, kind by kind. -/
theorem length_eq_kinds (q : List OutEntry) :
    q.length = (quotesOf q).length + pageCount q + ackCount q +
      (q.count (.notice .unknown) + q.count (.notice .full) + q.count (.notice .inboxBusy)) := by
  induction q with
  | nil => rfl
  | cons e q ih =>
    rw [List.length_cons, ih, ackCount_cons]
    cases e with
    | notice c =>
      cases c <;> (simp [quotesOf, pageCount]; omega)
    | _ =>
      simp [quotesOf, pageCount]
      omega

section
variable {watch : List Nat} {q : List OutEntry}

theorem OutLawful.length_le (h : OutLawful watch q) : q.length ≤ watch.length + 4 + ackCount q := by
  have hnodup : (quotesOf q).Nodup := List.nodup_iff_count_le_one.mpr fun i => by
    rw [count_quotesOf]
    exact h.quoteOnce i
  have hquotes : (quotesOf q).length ≤ watch.length :=
    (List.subperm_of_subset hnodup fun i hi => h.quotes i (mem_quotesOf.mp hi)).length_le
  have hpage := h.pageOnce
  have h1 := h.noticeOnce .unknown
  have h2 := h.noticeOnce .full
  have h3 := h.noticeOnce .inboxBusy
  rw [length_eq_kinds]
  omega

theorem OutLawful.nil (watch : List Nat) : OutLawful watch [] := ⟨by simp, by simp, by simp [pageCount], by simp⟩

theorem OutLawful.sublist (h : OutLawful watch q) {q' : List OutEntry} (hq : q'.Sublist q) : OutLawful watch q' where
  quotes i hi := h.quotes i (hq.subset hi)
  quoteOnce i := (hq.count_le _).trans (h.quoteOnce i)
  pageOnce := (hq.countP_le).trans h.pageOnce
  noticeOnce c := (hq.count_le _).trans (h.noticeOnce c)

theorem OutLawful.of_watch (h : OutLawful watch q) {watch' : List Nat} (hw : ∀ i, .quote i ∈ q → i ∈ watch → i ∈ watch') :
    OutLawful watch' q :=
  ⟨fun i hi => hw i hi (h.quotes i hi), h.quoteOnce, h.pageOnce, h.noticeOnce⟩

/-- The first PAGE entry of a queue, where it has one. -/
theorem exists_first_page (q : List OutEntry) :
    (∀ j, .page j ∉ q) ∨ ∃ a j b, q = a ++ .page j :: b ∧ ∀ j', .page j' ∉ a := by
  induction q with
  | nil => exact .inl (by simp)
  | cons e q ih =>
    by_cases he : ∃ j, e = .page j
    · obtain ⟨j, rfl⟩ := he
      exact .inr ⟨[], j, q, rfl, by simp⟩
    · have hne : ∀ j, .page j ≠ e := fun j h => he ⟨j, h.symm⟩
      rcases ih with h | ⟨a, j, b, rfl, h⟩
      · exact .inl fun j => List.not_mem_cons_of_ne_of_not_mem (hne j) (h j)
      · exact .inr ⟨e :: a, j, b, rfl, fun j' => List.not_mem_cons_of_ne_of_not_mem (hne j') (h j')⟩

theorem pageCount_eq_zero (h : ∀ j, .page j ∉ q) : pageCount q = 0 := by
  rw [pageCount, List.countP_eq_zero]
  intro e he
  cases e with
  | page j => exact absurd he (h j)
  | _ => simp

/-- An entry that the queue does not hold joins its tail. -/
theorem OutLawful.append (h : OutLawful watch q) {e : OutEntry} (hnew : e ∉ q) (hquote : ∀ i, e = .quote i → i ∈ watch)
    (hpage : ∀ i, e = .page i → ∀ j, .page j ∉ q) : OutLawful watch (q ++ [e]) where
  quotes i hi := (List.mem_append.mp hi).elim (h.quotes i) fun hi => hquote i (List.mem_singleton.mp hi).symm
  quoteOnce i := by
    rw [List.count_append]
    by_cases he : e = .quote i
    · subst he
      simp [List.count_eq_zero.mpr hnew]
    · simpa [List.count_singleton, he] using h.quoteOnce i
  pageOnce := by
    rw [pageCount, List.countP_append]
    cases e with
    | page i => simpa [pageCount] using pageCount_eq_zero (hpage i rfl)
    | _ => simpa [pageCount] using h.pageOnce
  noticeOnce c := by
    rw [List.count_append]
    by_cases he : e = .notice c
    · subst he
      simp [List.count_eq_zero.mpr hnew]
    · simpa [List.count_singleton, he] using h.noticeOnce c

/-- A PAGE entry takes another instrument. -/
theorem OutLawful.repage {a b : List OutEntry} {j : Nat} (h : OutLawful watch (a ++ .page j :: b)) (i : Nat) :
    OutLawful watch (a ++ .page i :: b) where
  quotes k hk := h.quotes k (by simpa using hk)
  quoteOnce k := by simpa [List.count_cons] using h.quoteOnce k
  pageOnce := by simpa [pageCount] using h.pageOnce
  noticeOnce c := by simpa [List.count_cons] using h.noticeOnce c

/-- Queuing an entry keeps the queue lawful, a QUOTE entry where its instrument is watched (R176). -/
theorem OutLawful.queue (h : OutLawful watch q) (e : OutEntry) (hquote : ∀ i, e = .quote i → i ∈ watch)
    (hack : ∀ x, e ≠ .ack x) : OutLawful watch (queueOut e q) := by
  cases e with
  | quote i =>
    by_cases hi : .quote i ∈ q
    · simpa [queueOut, hi] using h
    · have := h.append hi hquote (by simp)
      simpa [queueOut, hi] using this
  | notice c =>
    by_cases hc : .notice c ∈ q
    · simpa [queueOut, hc] using h
    · have := h.append hc (by simp) (by simp)
      simpa [queueOut, hc] using this
  | page i =>
    rcases exists_first_page q with hno | ⟨a, j, b, rfl, ha⟩
    · have := h.append (e := .page i) (hno i) (by simp) (fun _ _ => hno)
      simpa [queueOut, replacePage_none hno] using this
    · simpa [queueOut, replacePage_first ha] using h.repage i
  | ack x => exact absurd rfl (hack x)

theorem OutLawful.queueAck (h : OutLawful watch q) (x : Byte) : OutLawful watch (q ++ [.ack x]) where
  quotes i hi := h.quotes i (by simpa using hi)
  quoteOnce i := by simpa [List.count_append, List.count_singleton] using h.quoteOnce i
  pageOnce := by simpa [pageCount] using h.pageOnce
  noticeOnce c := by simpa [List.count_append, List.count_singleton] using h.noticeOnce c

theorem ackCount_eq_countP (q : List OutEntry) :
    ackCount q = q.countP (fun e => match e with
      | .ack _ => true
      | _ => false) := List.countP_eq_length_filter.symm

theorem ackCount_append (q q' : List OutEntry) : ackCount (q ++ q') = ackCount q + ackCount q' := by
  simp [ackCount]

theorem ackCount_queueOut (e : OutEntry) (q : List OutEntry) (hack : ∀ x, e ≠ .ack x) :
    ackCount (queueOut e q) = ackCount q := by
  cases e with
  | quote i => by_cases hi : .quote i ∈ q <;> simp [queueOut, hi, ackCount]
  | notice c => by_cases hc : .notice c ∈ q <;> simp [queueOut, hc, ackCount]
  | page i =>
    rcases exists_first_page q with hno | ⟨a, j, b, rfl, ha⟩
    · simp [queueOut, replacePage_none hno, ackCount]
    · simp [queueOut, replacePage_first ha, ackCount]
  | ack x => exact absurd rfl (hack x)

end

/-! ### A line -/

section
variable {l l' : Line}

/-- The laws of a line, the bound of 32 entries left out: it follows from the others. -/
theorem Line.lawful_iff :
    l.Lawful ↔ l.watch.length ≤ 24 ∧ l.watch.Nodup ∧ OutLawful l.watch l.out ∧ ackCount l.out + l.awaited.length ≤ 4 := by
  constructor
  · exact fun h => ⟨h.watch, h.watchOnce, ⟨h.quotes, h.quoteOnce, h.pageOnce, h.noticeOnce⟩, h.messages⟩
  · rintro ⟨hwatch, honce, hout, hack⟩
    have hlen := hout.length_le
    exact ⟨hwatch, honce, hout.quotes, hout.quoteOnce, hout.pageOnce, hout.noticeOnce, hack, by omega⟩

/-- What the laws of a line look at. -/
def Line.core (l : Line) : List Nat × List OutEntry × List Byte := (l.watch, l.out, l.awaited)

theorem Line.Lawful.of_core (h : l.Lawful) (hc : l'.core = l.core) : l'.Lawful := by
  simp only [Line.core, Prod.mk.injEq] at hc
  obtain ⟨hwatch, hout, hawaited⟩ := hc
  rw [Line.lawful_iff] at h ⊢
  rwa [hwatch, hout, hawaited]

theorem Line.Lawful.queue (h : l.Lawful) (e : OutEntry) (hquote : ∀ i, e = .quote i → i ∈ l.watch)
    (hack : ∀ x, e ≠ .ack x) : (l.queue e).Lawful := by
  rw [Line.lawful_iff] at h ⊢
  obtain ⟨hwatch, honce, hout, hacks⟩ := h
  refine ⟨hwatch, honce, hout.queue e hquote hack, ?_⟩
  show ackCount (queueOut e l.out) + _ ≤ 4
  rw [ackCount_queueOut e _ hack]
  exact hacks

theorem Line.Lawful.out_sublist (h : l.Lawful) {q : List OutEntry} (hq : q.Sublist l.out) :
    ({ l with out := q } : Line).Lawful := by
  rw [Line.lawful_iff] at h ⊢
  obtain ⟨hwatch, honce, hout, hacks⟩ := h
  refine ⟨hwatch, honce, hout.sublist hq, ?_⟩
  have : ackCount q ≤ ackCount l.out := by
    rw [ackCount_eq_countP, ackCount_eq_countP]
    exact hq.countP_le
  show ackCount q + l.awaited.length ≤ 4
  omega

theorem queueWatch_core (l : Line) : l.queueWatch.watch = l.watch ∧ l.queueWatch.awaited = l.awaited := by
  have hfold : ∀ (is : List Nat) (m : Line), (is.foldl (fun l i => l.queue (.quote i)) m).watch = m.watch ∧
      (is.foldl (fun l i => l.queue (.quote i)) m).awaited = m.awaited := by
    intro is
    induction is with
    | nil => exact fun m => ⟨rfl, rfl⟩
    | cons i is ih => exact fun m => ih _
  exact hfold l.watch l

theorem Line.Lawful.queueWatch (h : l.Lawful) : l.queueWatch.Lawful := by
  have hfold : ∀ (is : List Nat) (m : Line), m.Lawful → (∀ i ∈ is, i ∈ m.watch) →
      (is.foldl (fun l i => l.queue (.quote i)) m).Lawful := by
    intro is
    induction is with
    | nil => exact fun m hm _ => hm
    | cons i is ih =>
      intro m hm hsub
      refine ih _ (hm.queue _ (fun j hj => ?_) (by simp)) fun j hj => hsub j (List.mem_cons_of_mem i hj)
      cases hj
      exact hsub i List.mem_cons_self
  exact hfold l.watch l h fun _ hi => hi

/-- The watch list gains an instrument that it has not, and its quote (R171). -/
theorem Line.Lawful.watchMore (h : l.Lawful) {i : Nat} (hi : i ∉ l.watch) (hroom : l.watch.length < 24) :
    (({ l with watch := l.watch ++ [i] } : Line).queue (.quote i)).Lawful := by
  refine Line.Lawful.queue ?_ _ (fun j hj => ?_) (by simp)
  · rw [Line.lawful_iff] at h ⊢
    obtain ⟨hwatch, honce, hout, hacks⟩ := h
    refine ⟨?_, ?_, hout.of_watch fun j _ hj => List.mem_append_left _ hj, hacks⟩
    · rw [List.length_append, List.length_singleton]
      omega
    · exact honce.append (by simp) (by simpa using hi)
  · cases hj
    exact List.mem_append_right _ List.mem_cons_self

/-- The watch list loses an instrument, and its quote (R172). -/
theorem Line.Lawful.watchLess (h : l.Lawful) (i : Nat) :
    ({ l with watch := l.watch.filter (· != i), out := l.out.filter (· != .quote i) } : Line).Lawful := by
  have hout := h.out_sublist (List.filter_sublist (l := l.out) (p := (· != .quote i)))
  rw [Line.lawful_iff] at hout ⊢
  obtain ⟨hwatch, honce, hq, hacks⟩ := hout
  refine ⟨(List.length_filter_le _ _).trans hwatch, honce.filter _, hq.of_watch fun j hj hj' => ?_, hacks⟩
  rw [List.mem_filter] at hj ⊢
  exact ⟨hj', by simpa using hj.2⟩

/-- A message is awaited, where fewer than four are unanswered (R174). -/
theorem Line.Lawful.await (h : l.Lawful) (hroom : ackCount l.out + l.awaited.length < 4) (x : Byte) :
    ({ l with nextSeq := l.nextSeq + 1, awaited := l.awaited ++ [x] } : Line).Lawful := by
  rw [Line.lawful_iff] at h ⊢
  obtain ⟨hwatch, honce, hout, _⟩ := h
  refine ⟨hwatch, honce, hout, ?_⟩
  show ackCount l.out + (l.awaited ++ [x]).length ≤ 4
  rw [List.length_append, List.length_singleton]
  omega

/-- An awaited message is acknowledged (R175). -/
theorem Line.Lawful.acknowledge (h : l.Lawful) {x : Byte} (hx : x ∈ l.awaited) :
    (({ l with awaited := l.awaited.erase x } : Line).queue (.ack x)).Lawful := by
  rw [Line.lawful_iff] at h ⊢
  obtain ⟨hwatch, honce, hout, hacks⟩ := h
  refine ⟨hwatch, honce, hout.queueAck x, ?_⟩
  have hpos : 0 < l.awaited.length := List.length_pos_of_mem hx
  show ackCount (l.out ++ [.ack x]) + (l.awaited.erase x).length ≤ 4
  rw [ackCount_append, List.length_erase_of_mem hx, show ackCount [.ack x] = 1 from rfl]
  omega

/-- A line that is OFF is lawful, whatever its next sequence. -/
theorem Line.lawful_off : Line.off.Lawful := by
  rw [Line.lawful_iff]
  exact ⟨by decide, by simp [Line.off], by rw [show Line.off.out = [] from rfl]; exact .nil _, by decide⟩

theorem Line.Lawful.takeRate (h : l.Lawful) (rate : Rate) : (l.takeRate rate).Lawful := by
  unfold Line.takeRate
  split
  · exact h
  · exact (h.out_sublist (List.nil_sublist l.out)).of_core rfl

theorem Line.Lawful.takeClass (h : l.Lawful) (cls : Nat) : (l.takeClass cls).Lawful := by
  unfold Line.takeClass
  split
  · exact h.of_core rfl
  · split
    · exact Line.Lawful.queueWatch (h.of_core rfl)
    · exact h.of_core rfl

theorem takeDoze_core (l : Line) (doze : Nat) (now : Time) : (l.takeDoze doze now).core = l.core := by
  rw [Line.takeDoze_eq]
  rfl

theorem takeRate_watch (l : Line) (rate : Rate) : (l.takeRate rate).watch = l.watch := by
  unfold Line.takeRate
  split <;> rfl

theorem takeClass_watch (l : Line) (cls : Nat) : (l.takeClass cls).watch = l.watch := by
  unfold Line.takeClass
  split
  · rfl
  · split
    · exact (queueWatch_core _).1
    · rfl

theorem Line.Lawful.lineUp (h : l.Lawful) (header : List Word) (now : Time) (n : Fin 16) :
    (lineUp header now n l).Lawful ∧ (lineUp header now n l).watch = l.watch := by
  fun_cases Machine.lineUp header now n l with
  | case1 | case2 => exact ⟨h, rfl⟩
  | case3 => exact ⟨h.of_core rfl, rfl⟩
  | case4 rate =>
    have hl : ({ l with
        rate := rate
        cls := headerClass header n.val
        doze := headerDoze header n.val
        state := .active } : Line).Lawful := h.of_core rfl
    exact ⟨hl.queueWatch.of_core rfl, (queueWatch_core _).1⟩

end

end Sys2Proof.Machine
end


section
/-! The laws of the lines (R170, R176) kept by the operations on lines, by change notices and by capture. -/

namespace Sys2Proof.Machine

open Sys2Proof

variable {s t u : State} {x : Scope}

/-! ### What the laws of the lines look at -/

theorem instrument?_watchers_of_blocks (h : t.blocks x = u.blocks x) (hx : x.lines = false) (i : Nat) :
    (t.instrument? i).map Instrument.watchers = (u.instrument? i).map Instrument.watchers := by
  have hrec := congrArg (fun l : List Instrument => (l[i]?).map Instrument.watchers) (records_of_blocks h)
  have hw : Instrument.watchers ∘ x.record = Instrument.watchers := by
    funext r
    simp [Scope.record, hx]
  simpa only [List.getElem?_map, Option.map_map, hw, State.instrument?] using hrec

/-- The laws of the lines look at the core of each line, the watcher sets, and the course of phase 1. -/
theorem State.LinesLawful.congr_core (hu : u.LinesLawful) (hlines : ∀ n : Fin 16, t.lines[n].core = u.lines[n].core)
    (hwatchers : ∀ i, (t.instrument? i).map Instrument.watchers = (u.instrument? i).map Instrument.watchers)
    (hload : ∀ d, t.load = .phase1 d → u.load = .phase1 d) : t.LinesLawful := by
  have hlen : t.tbl.instruments.length = u.tbl.instruments.length := by
    have hmap : t.tbl.instruments.map Instrument.watchers = u.tbl.instruments.map Instrument.watchers :=
      List.ext_getElem? fun i => by simpa only [List.getElem?_map, State.instrument?] using hwatchers i
    simpa using congrArg List.length hmap
  have hwatch : ∀ n : Fin 16, t.lines[n].watch = u.lines[n].watch := fun n => congrArg Prod.fst (hlines n)
  refine ⟨fun n => (hu.lines n).of_core (hlines n), fun n i r hr => ?_, fun n i hi => ?_, fun d hd => ?_⟩
  · have hri := hwatchers i
    rw [hr, Option.map_some] at hri
    obtain ⟨r', hr', hw⟩ := Option.map_eq_some_iff.mp hri.symm
    rw [← hw, hwatch]
    exact hu.agree n i r' hr'
  · rw [hlen]
    rw [hwatch] at hi
    exact hu.known n i hi
  · obtain ⟨hempty, hread⟩ := hu.phase1 d (hload d hd)
    rw [hempty, List.length_nil] at hlen
    exact ⟨List.eq_nil_of_length_eq_zero hlen, hread⟩

theorem State.LinesLawful.congr (hu : u.LinesLawful) (hlines : t.lines = u.lines)
    (hwatchers : ∀ i, (t.instrument? i).map Instrument.watchers = (u.instrument? i).map Instrument.watchers)
    (hload : ∀ d, t.load = .phase1 d → u.load = .phase1 d) : t.LinesLawful :=
  hu.congr_core (fun n => by rw [hlines]) hwatchers hload

/-- What reaches neither lines nor watcher sets keeps the laws of the lines. -/
theorem State.LinesLawful.blocks (hu : u.LinesLawful) (hx : x.lines = false) (h : t.blocks x = u.blocks x) :
    t.LinesLawful :=
  hu.congr (lines_of_blocks h hx) (instrument?_watchers_of_blocks h hx) fun _ hd => phase1_of_course (course_of_blocks h) hd

/-- The scope that the laws of the lines do not look at. -/
def awayFromLines : Scope := ⟨true, true, false, true⟩

theorem State.LinesLawful.outside (hu : u.LinesLawful) (h : t.outside awayFromLines = u.outside awayFromLines) :
    t.LinesLawful := hu.blocks rfl (blocks_of_outside h)

theorem State.LinesLawful.postFault (hu : u.LinesLawful) (k : FaultKind) (subj : Subject) (d : List Nat) :
    (postFault k subj d u).LinesLawful := hu.outside (postFault_outside k subj d u)

/-! ### A line changes -/

theorem setLine_lines (n : Fin 16) (l : Line) (u : State) : (setLine n l u).lines = u.lines.set n l := by
  rw [(setLine_onlyPosts n l u).eq]

theorem setLine_tbl (n : Fin 16) (l : Line) (u : State) : (setLine n l u).tbl = u.tbl := by
  rw [(setLine_onlyPosts n l u).eq]

theorem setLine_load (n : Fin 16) (l : Line) (u : State) : (setLine n l u).load = u.load := by
  rw [(setLine_onlyPosts n l u).eq]

theorem setLine_instrument? (n : Fin 16) (l : Line) (u : State) (i : Nat) :
    (setLine n l u).instrument? i = u.instrument? i := by
  rw [State.instrument?, setLine_tbl]
  rfl

theorem setLine_getElem (n : Fin 16) (l : Line) (u : State) (m : Fin 16) :
    (setLine n l u).lines[m] = if n = m then l else u.lines[m] := by
  rw [setLine_lines]
  by_cases hm : n = m
  · subst hm
    simp
  · have hne : n.val ≠ m.val := fun h => hm (Fin.ext h)
    simp [Vector.getElem_set_ne _ _ hne, hm]

/-- A line becomes another lawful one with the same watch list. -/
theorem State.LinesLawful.setLine (hu : u.LinesLawful) {n : Fin 16} {l : Line} (hl : l.Lawful)
    (hw : l.watch = u.lines[n].watch) : (setLine n l u).LinesLawful := by
  have hwatch : ∀ m : Fin 16, (Machine.setLine n l u).lines[m].watch = u.lines[m].watch := fun m => by
    rw [setLine_getElem]
    split
    · rename_i h
      rw [hw, h]
    · rfl
  refine ⟨fun m => ?_, fun m i r hr => ?_, fun m i hi => ?_, fun d hd => ?_⟩
  · rw [setLine_getElem]
    split
    · exact hl
    · exact hu.lines m
  · rw [hwatch]
    rw [setLine_instrument?] at hr
    exact hu.agree m i r hr
  · rw [hwatch] at hi
    rw [setLine_tbl]
    exact hu.known m i hi
  · rw [setLine_load] at hd
    rw [setLine_tbl]
    exact hu.phase1 d hd

theorem State.LinesLawful.setCore (hu : u.LinesLawful) {n : Fin 16} {l : Line} (hc : l.core = u.lines[n].core) :
    (Machine.setLine n l u).LinesLawful :=
  hu.setLine ((hu.lines n).of_core hc) (congrArg Prod.fst hc)

theorem State.LinesLawful.queue (hu : u.LinesLawful) (n : Fin 16) (e : OutEntry)
    (hquote : ∀ i, e = .quote i → i ∈ u.lines[n].watch) (hack : ∀ y, e ≠ .ack y) :
    (Machine.setLine n (u.lines[n].queue e) u).LinesLawful :=
  hu.setLine ((hu.lines n).queue e hquote hack) rfl

/-- A line and the watcher set of one instrument change together: line `n` comes to watch `i`, or ceases to. -/
theorem State.LinesLawful.changeWatchers (hu : u.LinesLawful) {n : Fin 16} {l : Line} {i : Nat} {r : Instrument}
    (hl : l.Lawful) (hr : u.instrument? i = some r) {f : List (Fin 16) → List (Fin 16)}
    (hothers : ∀ j, j ≠ i → (j ∈ l.watch ↔ j ∈ u.lines[n].watch))
    (hself : n ∈ f r.watchers ↔ i ∈ l.watch) (hset : ∀ m, m ≠ n → (m ∈ f r.watchers ↔ m ∈ r.watchers)) :
    (Machine.changeWatchers i f (Machine.setLine n l u)).LinesLawful := by
  have hchange : Machine.changeWatchers i f (Machine.setLine n l u) =
      setInstrument i { r with watchers := f r.watchers } (Machine.setLine n l u) := by
    rw [Machine.changeWatchers, setLine_instrument?, hr]
  have hlt : i < u.tbl.instruments.length := (List.getElem?_eq_some_iff.mp hr).1
  rw [hchange]
  have hlines : ∀ m : Fin 16,
      (setInstrument i { r with watchers := f r.watchers } (Machine.setLine n l u)).lines[m] =
        if n = m then l else u.lines[m] := fun m => setLine_getElem n l u m
  refine ⟨fun m => ?_, fun m j r' hr' => ?_, fun m j hj => ?_, fun d hd => ?_⟩
  · rw [hlines]
    split
    · exact hl
    · exact hu.lines m
  · rw [setInstrument_instrument?, setLine_tbl, if_pos hlt, setLine_instrument?] at hr'
    rw [hlines]
    split at hr'
    · rename_i hij
      subst hij
      cases hr'
      split
      · rename_i hnm
        rw [← hnm]
        exact hself
      · rename_i hnm
        exact (hset m (Ne.symm hnm)).trans (hu.agree m i r hr)
    · rename_i hij
      split
      · rename_i hnm
        rw [hu.agree m j r' hr', ← hnm]
        exact (hothers j (Ne.symm hij)).symm
      · exact hu.agree m j r' hr'
  · rw [hlines] at hj
    have hlen : (setInstrument i { r with watchers := f r.watchers } (Machine.setLine n l u)).tbl.instruments.length =
        u.tbl.instruments.length := by
      simp [setLine_tbl]
    rw [hlen]
    split at hj
    · by_cases hji : j = i
      · rw [hji]
        exact hlt
      · exact hu.known n j ((hothers j hji).mp hj)
    · exact hu.known m j hj
  · have hd' : u.load = .phase1 d := by
      rw [← setLine_load n l u]
      exact hd
    have hempty := (hu.phase1 d hd').1
    rw [hempty] at hlt
    cases hlt

/-! ### Requests -/

theorem lookup_instrument {text : List Byte} {i : Nat} (h : lookup s text = some i) : ∃ r, s.instrument? i = some r := by
  obtain ⟨_, _, r, hr, _⟩ := (lookup_spec s text).1 i h
  exact ⟨r, hr⟩

theorem requestWatch_lawful (n : Fin 16) (body : List Byte) (hu : u.LinesLawful) :
    (requestWatch n body u).LinesLawful := by
  fun_cases requestWatch n body u with
  | case1 l h => exact hu.queue n _ (by simp) (by simp)
  | case2 => exact hu
  | case3 => exact hu.queue n _ (by simp) (by simp)
  | case4 l i h hin hroom =>
    obtain ⟨r, hr⟩ := lookup_instrument h
    have hout : i ∉ u.lines[n].watch := by simpa [l] using hin
    refine hu.changeWatchers ((hu.lines n).watchMore hout (Nat.not_le.mp hroom)) hr (fun j hj => ?_) ?_ fun m hm => ?_
    · show j ∈ u.lines[n].watch ++ [i] ↔ _
      simp [hj]
    · have hadd : n ∈ addWatcher n r.watchers := by
        unfold addWatcher
        split
        · rename_i h
          simpa using h
        · simp
      exact iff_of_true hadd (List.mem_append_right _ List.mem_cons_self)
    · unfold addWatcher
      split
      · rfl
      · simp [hm]

theorem requestDrop_lawful (n : Fin 16) (body : List Byte) (hu : u.LinesLawful) :
    (requestDrop n body u).LinesLawful := by
  fun_cases requestDrop n body u with
  | case1 l h => exact hu.queue n _ (by simp) (by simp)
  | case3 => exact hu
  | case2 l i h hin =>
    obtain ⟨r, hr⟩ := lookup_instrument h
    refine hu.changeWatchers ((hu.lines n).watchLess i) hr (fun j hj => ?_) ?_ fun m hm => ?_
    · show j ∈ u.lines[n].watch.filter (· != i) ↔ _
      simp [List.mem_filter, hj]
    · show n ∈ dropWatcher n r.watchers ↔ i ∈ u.lines[n].watch.filter (· != i)
      simp [dropWatcher, List.mem_filter]
    · simp [dropWatcher, List.mem_filter, hm]

theorem requestPage_lawful (n : Fin 16) (body : List Byte) (hu : u.LinesLawful) :
    (requestPage n body u).LinesLawful := by
  fun_cases requestPage n body u with
  | case1 | case2 => exact hu.queue n _ (by simp) (by simp)

theorem requestMessage_lawful (n : Fin 16) (body : List Byte) (hu : u.LinesLawful) :
    (requestMessage n body u).LinesLawful := by
  fun_cases requestMessage n body u with
  | case1 l hroom =>
    have hfree : ackCount u.lines[n].out + u.lines[n].awaited.length < 4 := by
      simpa [-Fin.getElem_fin, l] using (Bool.and_eq_true_iff.mp hroom).2
    have hset := hu.setLine (n := n) ((hu.lines n).await hfree u.lines[n].nextSeq) rfl
    refine hset.outside ?_
    rw [submitMessage_outside]
  | case2 => exact hu.queue n _ (by simp) (by simp)

theorem actOnFrame_lawful (n : Fin 16) (kind : Byte) (body : List Byte) (hu : u.LinesLawful) :
    (actOnFrame n kind body u).LinesLawful := by
  fun_cases actOnFrame n kind body u with
  | case1 => exact requestWatch_lawful n body hu
  | case2 => exact requestDrop_lawful n body hu
  | case3 => exact requestPage_lawful n body hu
  | case4 => exact requestMessage_lawful n body hu
  | case5 => exact hu

theorem goodFrame_lawful (n : Fin 16) (kind : Byte) (body : List Byte) (hu : u.LinesLawful) :
    (goodFrame n kind body u).LinesLawful := by
  have hset : (setLine n (u.lines[n].heard u.ctl.timeBase) u).LinesLawful := hu.setCore rfl
  rw [goodFrame_eq]
  split
  · exact actOnFrame_lawful n kind body hset
  · exact hset

theorem countBad_lawful (n : Fin 16) (cause : BadCause) (hu : u.LinesLawful) : (countBad n cause u).LinesLawful := by
  have hset (run : Nat) : (setLine n { u.lines[n] with badRun := run } u).LinesLawful := hu.setCore rfl
  have hmuted (run : Nat) : (setLine n { u.lines[n] with badRun := run, cls := 0, state := .muted } u).LinesLawful :=
    hu.setCore rfl
  unfold countBad
  dsimp only
  split
  · exact (hmuted _).postFault _ _ _
  · exact hset _

theorem badFrame_lawful (n : Fin 16) (cause : BadCause) (hu : u.LinesLawful) : (badFrame n cause u).LinesLawful := by
  have hset : (setLine n { u.lines[n] with assembler := .hunting } u).LinesLawful := hu.setCore rfl
  exact countBad_lawful n cause hset

theorem wake_core (l : Line) (now : Time) : (l.wake now).core = l.core := by
  rw [Line.wake_eq]
  split <;> rfl

theorem setAssembler_lawful (n : Fin 16) (a : Assembler) (hu : u.LinesLawful) :
    (setLine n { u.lines[n] with assembler := a } u).LinesLawful := hu.setCore rfl

theorem markArrives_lawful (n : Fin 16) (hu : u.LinesLawful) : (markArrives n u).LinesLawful := by
  have hwoken : (setLine n (u.lines[n].wake u.ctl.timeBase) u).LinesLawful := hu.setCore (wake_core _ _)
  unfold markArrives
  dsimp only
  split
  · exact setAssembler_lawful n _ hwoken
  · exact setAssembler_lawful n _ (badFrame_lawful n .cut hwoken)

theorem receiveChar_lawful (n : Fin 16) (c : RxChar) (hu : u.LinesLawful) : (receiveChar n c u).LinesLawful := by
  fun_cases receiveChar n c u with
  | case1 | case3 => exact hu
  | case2 => exact markArrives_lawful n hu
  | case4 => exact hu.setCore rfl
  | case5 => exact badFrame_lawful n _ hu
  | case6 => exact goodFrame_lawful n _ _ hu

theorem onGoodFrame_lawful (n : Fin 16) (kinds : Byte → Bool) (hu : u.LinesLawful) :
    (onGoodFrame n kinds u).LinesLawful := by
  fun_cases onGoodFrame n kinds u with
  | case4 => exact goodFrame_lawful n _ _ hu
  | _ => exact hu

/-! ### Service, the transmitter, reports -/

theorem leftAfter_sublist (e : OutEntry) (rest : List OutEntry) : (leftAfter e rest).Sublist rest := by
  unfold leftAfter
  split
  · exact List.filter_sublist
  · exact List.Sublist.refl _

theorem serveLine_lawful (cls : Nat) (n : Fin 16) (hu : u.LinesLawful) : (serveLine cls n u).LinesLawful := by
  fun_cases serveLine cls n u with
  | case1 => exact hu
  | case2 l e rest hq =>
    have hsub : (leftAfter e rest).Sublist u.lines[n].out := by
      rw [show u.lines[n].out = e :: rest from hq]
      exact (leftAfter_sublist e rest).trans (List.sublist_cons_self e rest)
    have hset := hu.setLine (n := n) (l := { u.lines[n] with out := leftAfter e rest, transmitter := buildEntry u e })
      (((hu.lines n).out_sublist hsub).of_core rfl) rfl
    exact hset.congr rfl (fun _ => rfl) fun _ h => h

theorem reportWritten_lawful (n : Fin 16) (seq : Byte) (hu : u.LinesLawful) :
    (reportWritten n seq u).LinesLawful := by
  fun_cases reportWritten n seq u with
  | case1 l hin => exact hu.setLine ((hu.lines n).acknowledge (by simpa [l] using hin)) rfl
  | case2 => exact hu

/-! ### SET LINE -/

theorem carrySetLine_lawful (n : Fin 16) (rate : Rate) (cls doze : Nat) (hu : u.LinesLawful) :
    (carrySetLine n rate cls doze u).LinesLawful := by
  have hrate := (hu.lines n).takeRate rate
  have hwatch := takeRate_watch u.lines[n] rate
  unfold carrySetLine
  dsimp only
  split
  · rw [leaveWatchers_eq]
    obtain ⟨v, hv⟩ : ∃ v, setLine n (u.lines[n].takeRate rate).turnOff u = v := ⟨_, rfl⟩
    have hlines : ∀ m : Fin 16, v.lines[m] = if n = m then (u.lines[n].takeRate rate).turnOff else u.lines[m] := by
      intro m
      rw [← hv]
      exact setLine_getElem _ _ _ m
    have htbl : v.tbl = u.tbl := by rw [← hv, setLine_tbl]
    have hload : v.load = u.load := by rw [← hv, setLine_load]
    rw [hv, hwatch]
    refine ⟨fun m => ?_, fun m i r hr => ?_, fun m i hi => ?_, fun d hd => ?_⟩
    · show v.lines[m].Lawful
      rw [hlines]
      split
      · exact Line.lawful_off.of_core rfl
      · exact hu.lines m
    · show m ∈ r.watchers ↔ i ∈ v.lines[m].watch
      have hr' : (leftRecords n u.lines[n].watch v.tbl.instruments)[i]? = some r := hr
      rw [getElem?_leftRecords, htbl, Option.map_eq_some_iff] at hr'
      obtain ⟨r0, hr0, rfl⟩ := hr'
      have hagree := hu.agree m i r0 hr0
      rw [hlines]
      by_cases hm : n = m
      · subst hm
        rw [if_pos rfl]
        refine iff_of_false (fun hmem => ?_) (by simp [Line.turnOff, Line.off])
        split at hmem
        · simp [dropWatcher] at hmem
        · rename_i hout
          exact hout (hagree.mp hmem)
      · rw [if_neg hm, ← hagree]
        split
        · simp [dropWatcher, Ne.symm hm]
        · rfl
    · have hi' : i ∈ v.lines[m].watch := hi
      have hlen : (leftRecords n u.lines[n].watch v.tbl.instruments).length = u.tbl.instruments.length := by
        rw [leftRecords, List.length_mapIdx, htbl]
      show i < (leftRecords n u.lines[n].watch v.tbl.instruments).length
      rw [hlen]
      rw [hlines] at hi'
      split at hi'
      · simp [Line.turnOff, Line.off] at hi'
      · exact hu.known m i hi'
    · have hd' : u.load = .phase1 d := by
        rw [← hload]
        exact hd
      obtain ⟨hempty, hread⟩ := hu.phase1 d hd'
      refine ⟨?_, hread⟩
      show leftRecords n u.lines[n].watch v.tbl.instruments = []
      rw [htbl, hempty]
      rfl
  · refine hu.setLine ((hrate.takeClass cls).of_core (takeDoze_core _ _ _)) ?_
    have hdoze := congrArg Prod.fst (takeDoze_core ((u.lines[n].takeRate rate).takeClass cls) doze u.ctl.timeBase)
    exact (hdoze.trans (takeClass_watch _ cls)).trans hwatch

theorem setLineTaken_lawful (hu : u.LinesLawful) : (setLineTaken u).LinesLawful := by
  have refused (code : ResultCode) (d : Nat) : (endRefused code d u).LinesLawful := hu.outside (endRefused_outside _ _ _)
  fun_cases setLineTaken u with
  | case4 => exact (carrySetLine_lawful _ _ _ _ hu).outside (endDone_outside _)
  | _ => exact refused _ _

/-! ### Change notices -/

theorem noticeLines_lawful (i : Nat) (hu : u.LinesLawful) : (noticeLines i u).LinesLawful := by
  fun_cases noticeLines i u with
  | case1 => exact hu
  | case2 r hr =>
    have hfold : ∀ (ns : List (Fin 16)) (v : State), v.LinesLawful → v.instrument? i = some r → (∀ n ∈ ns, n ∈ r.watchers) →
        (ns.foldl (fun s n =>
          if s.lines[n].state = .off then s else setLine n (s.lines[n].queue (.quote i)) s) v).LinesLawful := by
      intro ns
      induction ns with
      | nil => exact fun v hv _ _ => hv
      | cons n ns ih =>
        intro v hv hri hsub
        rw [List.foldl_cons]
        have hsub' : ∀ m ∈ ns, m ∈ r.watchers := fun m hm => hsub m (List.mem_cons_of_mem n hm)
        split
        · exact ih v hv hri hsub'
        · have hwatched : i ∈ v.lines[n].watch := (hv.agree n i r hri).mp (hsub n List.mem_cons_self)
          refine ih _ (hv.queue n _ (fun j hj => ?_) (by simp)) ((setLine_instrument? _ _ _ _).trans hri) hsub'
          cases hj
          exact hwatched
    exact hfold r.watchers u hu hr fun _ h => h

theorem noticeAll_lawful (hu : u.LinesLawful) : (noticeAll u).LinesLawful := by
  have hfold : ∀ (is : List Nat) (v : State), v.LinesLawful → (is.foldl (fun s i => noticeLines i s) v).LinesLawful := by
    intro is
    induction is with
    | nil => exact fun v hv => hv
    | cons i is ih => exact fun v hv => ih _ (noticeLines_lawful i hv)
  unfold noticeAll
  refine (hfold (List.range u.tbl.instruments.length) u hu).outside ?_
  rw [chooseAll_outside rfl, recomputeBoards_outside rfl]

theorem notify_lawful (i : Nat) (trade : Option TradePart) (hu : u.LinesLawful) : (notify i trade u).LinesLawful := by
  have hsettle {v : State} (hv : v.LinesLawful) : (chooseAll (recomputeBoards (· == i) (noticeLines i v))).LinesLawful := by
    refine (noticeLines_lawful i hv).outside ?_
    rw [chooseAll_outside rfl, recomputeBoards_outside rfl]
  unfold notify
  dsimp only
  cases trade with
  | none => exact hsettle hu
  | some p => exact hsettle (hu.outside (printTrade_outside rfl _ _ _))

/-! ### Capture -/

theorem applyCommit_lawful (i : Nat) (c : CommitFlags) (seq : BitVec 12) (time : Time) (v : FieldValues)
    (hu : u.LinesLawful) : (applyCommit i c seq time v u).LinesLawful := by
  have h4 : (applyFast i c (applyTrade i c seq time v (applyQuote i c v (applyHalt i c u))).1).LinesLawful := by
    refine hu.outside ?_
    rw [applyFast_outside rfl, applyTrade_outside rfl, applyQuote_outside rfl, applyHalt_outside rfl]
  unfold applyCommit
  dsimp only
  split
  · split
    · exact notify_lawful i _ h4
    · exact h4
  · exact h4

theorem setCap_lawful (c : CaptureUnit) (hu : u.LinesLawful) : (setCap c u).LinesLawful :=
  hu.outside (setCap_outside rfl c u)

theorem drainGroupless_lawful (fuel : Nat) (hu : u.LinesLawful) : (drainGroupless fuel u).LinesLawful := by
  fun_induction drainGroupless fuel u with
  | case2 fuel u e rest ha hq hp ih => exact ih (applyCommit_lawful _ _ _ _ _ (setCap_lawful _ hu))
  | _ => exact hu

theorem pumpCapture_lawful (hu : u.LinesLawful) : (pumpCapture u).LinesLawful := by
  have hd := drainGroupless_lawful u.cap.fetchQueue.length hu
  have hfetch {v : State} (hv : v.LinesLawful) : (placeFetch v).LinesLawful := hv.outside (placeFetch_outside rfl v)
  have hphase {v : State} (hv : v.LinesLawful) : (placePhase2 v).LinesLawful := hv.outside (placePhase2_outside rfl v)
  unfold pumpCapture
  dsimp only
  split
  · exact hd
  · split
    · split
      exacts [hfetch hd, hphase hd]
    · exact hfetch hd
    · exact hphase hd
    · exact hd

/-- A record is changed in what the laws of the lines do not look at. -/
theorem State.LinesLawful.setInstrument (hu : u.LinesLawful) {i : Nat} {r r1 : Instrument}
    (h0 : u.instrument? i = some r) (hw : r1.watchers = r.watchers) : (Machine.setInstrument i r1 u).LinesLawful := by
  refine hu.congr rfl (fun j => ?_) fun _ h => h
  rw [setInstrument_instrument?]
  split
  · rename_i hij
    subst hij
    rw [if_pos (List.getElem?_eq_some_iff.mp h0).1, h0, Option.map_some, Option.map_some, hw]
  · rfl

theorem settleCommit_lawful (i : Nat) (c : CommitFlags) (seq : BitVec 12) (hu : u.LinesLawful) :
    (settleCommit i c seq u).LinesLawful := by
  have hset {r : Instrument} (h0 : u.instrument? i = some r) (c1 : CaptureUnit) :
      (Machine.setInstrument i { r with fetchOnCommit := false } (Machine.setCap c1 u)).LinesLawful :=
    (setCap_lawful c1 hu).setInstrument h0 rfl
  fun_cases settleCommit i c seq u with
  | case1 => exact hu
  | case2 r h0 => exact setCap_lawful _ (hset h0 _)
  | case3 r h0 => exact applyCommit_lawful _ _ _ _ _ (hset h0 _)
  | case4 r h0 => exact setCap_lawful _ (hset h0 _)

theorem takeCommit_lawful (i : Nat) (w : Word) (hu : u.LinesLawful) : (takeCommit i w u).LinesLawful := by
  have accept (r : Instrument) (v : State) (hv : v.LinesLawful) (h0 : v.instrument? i = some r) :
      (acceptCommit i w r v).LinesLawful := by
    have hset : (Machine.setInstrument i { r with lastSeq := commitSeq w } v).LinesLawful := hv.setInstrument h0 rfl
    unfold acceptCommit
    refine settleCommit_lawful _ _ _ ?_
    split
    · exact hset.postFault _ _ _
    · exact hset
  fun_cases takeCommit i w u with
  | case1 | case2 => exact hu
  | case3 r h0 => exact accept r u hu h0
  | case4 r h0 => exact accept r _ (hu.postFault _ _ _) (by simpa using h0)

theorem byStanding_lawful {take : State → State} (ht : ∀ v : State, v.LinesLawful → (take v).LinesLawful) (i : Nat)
    (hu : u.LinesLawful) : (byStanding i take u).LinesLawful := by
  fun_cases byStanding i take u with
  | case1 => exact ht u hu
  | case2 => exact hu
  | case3 => exact hu.outside (tearPhase2_outside rfl u)

theorem takeFetched_lawful (w : Word) (good : Bool) (hu : u.LinesLawful) : (takeFetched w good u).LinesLawful := by
  fun_cases takeFetched w good u with
  | case1 => exact setCap_lawful _ hu
  | case3 => exact hu
  | case2 a e rest hq =>
    fun_cases endAttempt e rest a.plan _ u with
    | case1 => exact applyCommit_lawful _ _ _ _ _ (setCap_lawful _ (setCap_lawful _ hu))
    | case2 =>
      exact applyCommit_lawful _ _ _ _ _
        (State.LinesLawful.postFault (setCap_lawful _ (setCap_lawful _ hu)) _ _ _)
    | case3 => exact setCap_lawful _ hu

end Sys2Proof.Machine
end


section
/-! The laws of the lines through LOAD and CLOSE, kept by every command; and the line service arbiter (R178). -/

namespace Sys2Proof.Machine

open Sys2Proof

variable {s t u : State}

/-! ### Phase 1 -/

/-- Lines that watch nothing. -/
def State.UnwatchedLines (s : State) : Prop := ∀ n : Fin 16, s.lines[n].Lawful ∧ s.lines[n].watch = []

theorem linesLawful_of_empty (hlines : t.UnwatchedLines) (hi : t.tbl.instruments = [])
    (hl : ∀ d, t.load = .phase1 d → d.LinesRead) : t.LinesLawful := by
  refine ⟨fun n => (hlines n).1, fun n i r hr => ?_, fun n i hin => ?_, fun d hd => ⟨hi, hl d hd⟩⟩
  · rw [State.instrument?, hi] at hr
    cases hr
  · rw [(hlines n).2] at hin
    cases hin

theorem State.LinesLawful.unwatched (hu : u.LinesLawful) (hi : u.tbl.instruments = []) : u.UnwatchedLines := by
  refine fun n => ⟨hu.lines n, List.eq_nil_iff_forall_not_mem.mpr fun i hin => ?_⟩
  have := hu.known n i hin
  rw [hi] at this
  cases this

theorem loadRefused_lawful (code : ResultCode) (d : Nat) (hu : u.UnwatchedLines) : (loadRefused code d u).LinesLawful :=
  State.LinesLawful.outside (u := { u with tbl := InstrumentTable.empty, load := .idle })
    (linesLawful_of_empty hu rfl fun d hd => by cases hd) (loadRefused_outside code d u)

theorem readOn_lawful {d : DirectoryRead} (hu : u.UnwatchedLines) (hi : u.tbl.instruments = []) (hd : d.LinesRead) :
    (readOn d u).LinesLawful :=
  State.LinesLawful.outside (u := { u with load := .phase1 d })
    (linesLawful_of_empty hu hi fun d1 h1 => by cases h1; exact hd) (readOn_outside d u)

theorem lineBlockBad_append {ws more : List Word} {l : Fin 16} (h : 91 + 28 * l.val < ws.length) :
    LineBlockBad (ws ++ more) l ↔ LineBlockBad ws l := by
  simp only [LineBlockBad]
  rw [numAt_append (by omega), numAt_append (by omega), numAt_append (by omega)]

theorem watchIndexGood_append {ws more : List Word} {l : Fin 16} {j : Nat} (h : 91 + 28 * l.val < ws.length) (hj : j < 24) :
    WatchIndexGood (ws ++ more) l j ↔ WatchIndexGood ws l j := by
  simp only [WatchIndexGood]
  rw [numAt_append (by omega), numAt_append (by omega)]
  refine and_congr_right fun _ => forall_congr' fun i => imp_congr_right fun hi => ?_
  rw [numAt_append (by omega)]

/-- A line block has passed its checks. -/
def BlockRead (ws : List Word) (l : Fin 16) : Prop :=
  ¬ LineBlockBad ws l ∧ ∀ j < numAt ws (67 + 28 * l.val), WatchIndexGood ws l j

theorem BlockRead.count_le {ws : List Word} {l : Fin 16} (h : BlockRead ws l) : numAt ws (67 + 28 * l.val) ≤ 24 := by
  have hbad := h.1
  simp only [LineBlockBad, not_or, not_lt] at hbad
  exact hbad.2.2.1

theorem BlockRead.append {ws : List Word} {l : Fin 16} (h : BlockRead ws l) (more : List Word)
    (hlen : 91 + 28 * l.val < ws.length) : BlockRead (ws ++ more) l := by
  refine ⟨mt (lineBlockBad_append hlen).mp h.1, fun j hj => ?_⟩
  rw [numAt_append (by omega)] at hj
  exact (watchIndexGood_append hlen (hj.trans_le h.count_le)).mpr (h.2 j hj)

/-- A header word that passes its check joins what phase 1 has read (R54). -/
theorem DirectoryRead.LinesRead.takeHeader {d : DirectoryRead} (hd : d.LinesRead) (hn : d.next < 512) {w : Word}
    (hcheck : headerCheck (d.header ++ [w]) d.next = none) :
    ({ d with header := d.header ++ [w], next := d.next + 1 } : DirectoryRead).LinesRead := by
  obtain ⟨hlen, hbuilt⟩ := hd.header hn
  have hlen' : (d.header ++ [w]).length = d.next + 1 := by rw [List.length_append, hlen, List.length_singleton]
  refine ⟨fun _ => ⟨hlen', hbuilt⟩, fun h512 => ?_, fun l hl => ?_, fun i r hr => ?_⟩
  · show (d.header ++ [w]).length = 512
    have : 512 ≤ d.next + 1 := h512
    omega
  · have hl' : 91 + 28 * l.val < d.next + 1 := by
      rw [← hlen']
      exact hl
    by_cases hlt : 91 + 28 * l.val < d.next
    · have hlt' : 91 + 28 * l.val < d.header.length := by omega
      exact BlockRead.append (hd.blocks l hlt') [w] hlt'
    · have heq : d.next = 91 + 28 * l.val := by omega
      rw [heq, headerCheck_line, Option.map_eq_none_iff] at hcheck
      exact lineBlockCheck_eq_none _ l hcheck
  · have hr' : d.built[i]? = some r := hr
    rw [hbuilt] at hr'
    cases hr'

/-- A word of an entry changes neither the header nor the records built. -/
theorem DirectoryRead.LinesRead.takeEntry {d : DirectoryRead} (hd : d.LinesRead) (hn : 512 ≤ d.next) (e : List Word)
    {built : List Instrument}
    (hbuilt : ∀ i r, built[i]? = some r → ∀ n : Fin 16, n ∈ r.watchers ↔
      ∃ j < numAt d.header (67 + 28 * n.val), numAt d.header (68 + 28 * n.val + j) = i) :
    ({ d with entry := e, built := built, next := d.next + 1 } : DirectoryRead).LinesRead := by
  refine ⟨fun h => ?_, fun _ => hd.whole hn, hd.blocks, hbuilt⟩
  have : d.next + 1 < 512 := h
  omega

theorem buildInstrument_watchers (header : List Word) (i : Nat) (e : List Word) (n : Fin 16) :
    n ∈ (buildInstrument header i e).watchers ↔
      ∃ j < numAt header (67 + 28 * n.val), numAt header (68 + 28 * n.val + j) = i := by
  rw [← mem_headerWatch]
  simp [buildInstrument, all16_eq]

theorem DirectoryRead.LinesRead.built {d : DirectoryRead} (hd : d.LinesRead) (e : List Word) (i : Nat) (r : Instrument)
    (hr : (d.built ++ [buildInstrument d.header d.built.length e])[i]? = some r) (n : Fin 16) :
    n ∈ r.watchers ↔ ∃ j < numAt d.header (67 + 28 * n.val), numAt d.header (68 + 28 * n.val + j) = i := by
  rcases Nat.lt_or_ge i d.built.length with hlt | hge
  · rw [List.getElem?_append_left hlt] at hr
    exact hd.watchers i r hr n
  · have heq : i = d.built.length := by
      have := (List.getElem?_eq_some_iff.mp hr).1
      rw [List.length_append, List.length_singleton] at this
      omega
    rw [heq, List.getElem?_append_right (le_refl _), Nat.sub_self, List.getElem?_cons_zero, Option.some.injEq] at hr
    rw [← hr, heq]
    exact buildInstrument_watchers _ _ _ n

/-! ### The end of phase 1 -/

/-- Each line has the watch list of its block, and no line is changed otherwise (R49). -/
theorem fillWatchLists_line (header : List Word) (s : State) (m : Fin 16) :
    (fillWatchLists header s).lines[m] = { s.lines[m] with watch := headerWatch header m.val } := by
  have hfold : ∀ (ls : List (Fin 16)) (v : State),
      (ls.foldl (fun s l => setLine l { s.lines[l] with watch := headerWatch header l.val } s) v).lines[m] =
        if m ∈ ls then { v.lines[m] with watch := headerWatch header m.val } else v.lines[m] := by
    intro ls
    induction ls with
    | nil => exact fun v => rfl
    | cons l ls ih =>
      intro v
      rw [List.foldl_cons, ih, setLine_getElem]
      by_cases hlm : l = m
      · subst hlm
        simp
      · simp [hlm, Ne.symm hlm]
  rw [fillWatchLists, hfold, if_pos (by rw [all16_eq]; exact List.mem_finRange m)]

theorem fillWatchLists_outside_lines (header : List Word) (s : State) :
    (fillWatchLists header s).tbl = s.tbl ∧ (fillWatchLists header s).load = s.load := by
  have hfold : ∀ (ls : List (Fin 16)) (v : State),
      (ls.foldl (fun s l => setLine l { s.lines[l] with watch := headerWatch header l.val } s) v).tbl = v.tbl ∧
      (ls.foldl (fun s l => setLine l { s.lines[l] with watch := headerWatch header l.val } s) v).load = v.load := by
    intro ls
    induction ls with
    | nil => exact fun v => ⟨rfl, rfl⟩
    | cons l ls ih =>
      intro v
      obtain ⟨ht, hl⟩ := ih (setLine l { v.lines[l] with watch := headerWatch header l.val } v)
      exact ⟨ht.trans (setLine_tbl _ _ _), hl.trans (setLine_load _ _ _)⟩
  exact hfold all16 s

/-- The watch list of a block that has passed its checks has at most 24 instruments and none twice (R48). -/
theorem headerWatch_once {header : List Word} {l : Fin 16} (h : BlockRead header l) :
    (headerWatch header l.val).length ≤ 24 ∧ (headerWatch header l.val).Nodup := by
  refine ⟨by rw [headerWatch_length]; exact h.count_le, ?_⟩
  rw [List.nodup_iff_getElem?_ne_getElem?]
  intro i j hij hj
  rw [headerWatch_length] at hj
  rw [headerWatch_getElem? _ _ hj, headerWatch_getElem? _ _ (hij.trans hj)]
  exact fun heq => (h.2 j hj).2 i hij (Option.some.inj heq)

theorem endPhase1_lawful {header : List Word} {rs : List Instrument} (hu : u.UnwatchedLines)
    (hblocks : ∀ l : Fin 16, BlockRead header l) (hcount : headerCount header ≤ rs.length)
    (hrs : ∀ i r, rs[i]? = some r → ∀ n : Fin 16, n ∈ r.watchers ↔
      ∃ j < numAt header (67 + 28 * n.val), numAt header (68 + 28 * n.val + j) = i) :
    (endPhase1 header rs u).LinesLawful := by
  rw [endPhase1_eq]
  refine pumpCapture_lawful ?_
  obtain ⟨htbl, hload⟩ := fillWatchLists_outside_lines header (phase1Ended header rs u)
  have hline : ∀ m : Fin 16, (fillWatchLists header (phase1Ended header rs u)).lines[m] =
      { u.lines[m] with watch := headerWatch header m.val } := fun m => fillWatchLists_line header _ m
  refine ⟨fun m => ?_, fun m i r hr => ?_, fun m i hi => ?_, fun d hd => ?_⟩
  · rw [hline, Line.lawful_iff]
    obtain ⟨hl, hw⟩ := hu m
    obtain ⟨_, _, hout, hack⟩ := Line.lawful_iff.mp hl
    rw [hw] at hout
    have hout' : OutLawful (headerWatch header m.val) u.lines[m].out := hout.of_watch fun i _ hi => (List.not_mem_nil hi).elim
    exact ⟨(headerWatch_once (hblocks m)).1, (headerWatch_once (hblocks m)).2, hout', hack⟩
  · rw [State.instrument?, htbl] at hr
    rw [hline, hrs i r hr m]
    exact (mem_headerWatch header m.val i).symm
  · rw [hline] at hi
    obtain ⟨j, hj, rfl⟩ := (mem_headerWatch header m.val i).mp hi
    have hlt : numAt header (68 + 28 * m.val + j) < numAt header 0 := ((hblocks m).2 j hj).1
    rw [htbl]
    exact hlt.trans_le hcount
  · rw [hload] at hd
    cases hd

theorem takeDirectoryWord_lawful (w : Word) (good : Bool) (hs : s.LinesLawful) :
    (takeDirectoryWord w good s).LinesLawful := by
  fun_cases takeDirectoryWord w good s with
  | case1 d hl =>
    exact loadRefused_lawful _ _ (hs.unwatched (hs.phase1 d hl).1)
  | case2 d hl _ hn =>
    obtain ⟨hi, hd⟩ := hs.phase1 d hl
    have hlines := hs.unwatched hi
    fun_cases takeHeaderWord d w s with
    | case1 => exact loadRefused_lawful _ _ hlines
    | case2 header hcheck => exact readOn_lawful hlines hi (hd.takeHeader hn hcheck)
  | case3 d hl _ hn =>
    obtain ⟨hi, hd⟩ := hs.phase1 d hl
    have hlines := hs.unwatched hi
    have hn' : 512 ≤ d.next := Nat.not_lt.mp hn
    fun_cases takeEntryWord d w s with
    | case1 => exact readOn_lawful hlines hi (hd.takeEntry hn' _ hd.watchers)
    | case2 => exact loadRefused_lawful _ _ hlines
    | case3 => exact readOn_lawful hlines hi (hd.takeEntry hn' _ (hd.built _))
    | case4 =>
      refine endPhase1_lawful hlines (fun l => hd.blocks l ?_) (Nat.not_lt.mp ‹_›) (hd.built _)
      rw [hd.whole hn']
      have := l.isLt
      omega
  | case4 => exact hs

/-! ### Phase 2, the taking of LOAD, and CLOSE -/

theorem loadEnd_lawful (header : List Word) (hs : s.LinesLawful) : (loadEnd header s).LinesLawful := by
  refine State.LinesLawful.outside (u := loadUp header s) ?_ (loadEnd_outside rfl rfl header s)
  have hline : ∀ m : Fin 16, (loadUp header s).lines[m] = lineUp header s.ctl.timeBase m s.lines[m] := fun m => by
    show (Vector.ofFn fun l => lineUp header s.ctl.timeBase l s.lines[l])[m.val] = _
    rw [Vector.getElem_ofFn]
  refine ⟨fun m => ?_, fun m i r hr => ?_, fun m i hi => ?_, fun d hd => by cases hd⟩
  · rw [hline]
    exact ((hs.lines m).lineUp header _ m).1
  · rw [hline, ((hs.lines m).lineUp header _ m).2]
    exact hs.agree m i r hr
  · rw [hline, ((hs.lines m).lineUp header _ m).2] at hi
    exact hs.known m i hi

theorem fieldsSet_lines (r : RecordRead) (got : List (Word × Bool)) (s : State) : (fieldsSet r got s).lines = s.lines := by
  have hfault (u : State) (k : FaultKind) (subj : Subject) (d : List Nat) : (postFault k subj d u).lines = u.lines :=
    lines_of_blocks (blocks_of_outside (postFault_outside (x := noScope) k subj d u)) rfl
  unfold fieldsSet
  dsimp only
  split <;> split <;> simp [hfault]

theorem takeRecordWord_lawful (w : Word) (good : Bool) (hs : s.LinesLawful) : (takeRecordWord w good s).LinesLawful := by
  have hload {v : State} (hv : v.LinesLawful) (p : RecordRead) : ({ v with load := .phase2 p } : State).LinesLawful :=
    hv.congr rfl (fun _ => rfl) fun d hd => by cases hd
  fun_cases takeRecordWord w good s with
  | case1 => exact hload hs _
  | case2 r hl got =>
    rw [endRecordRead_eq]
    split
    · exact hload hs _
    · have hset : (fieldsSet r got s).LinesLawful := by
        refine hs.congr (fieldsSet_lines r got s) (fun i => ?_) fun d hd => by rwa [fieldsSet_load] at hd
        rw [fieldsSet_instrument?]
        split
        · rw [Option.map_map]
          rfl
        · rfl
      fun_cases nextInstrument r (fieldsSet r got s) with
      | case1 => exact hload hset _
      | case2 => exact loadEnd_lawful _ hset
  | case3 => exact hs

theorem unwatched_of_off (h : ∀ n : Fin 16, u.lines[n] = Line.off) : u.UnwatchedLines := fun n => by
  rw [h n]
  exact ⟨Line.lawful_off, rfl⟩

theorem replicate_off (n : Fin 16) : (Vector.replicate 16 Line.off)[n] = Line.off := by
  simp

theorem loadTaken_lawful (s : State) : (loadTaken s).LinesLawful := by
  have hclear := blocks_of_outside (clearForLoad_outside (x := awayFromLines) rfl s)
  have hlines : (clearForLoad s).UnwatchedLines := unwatched_of_off fun n => by
    rw [lines_of_blocks hclear rfl]
    exact replicate_off n
  have htbl : (clearForLoad s).tbl.instruments = [] := by
    have h := records_of_blocks hclear
    rwa [loadCleared, InstrumentTable.empty, List.map_nil, List.map_eq_nil_iff] at h
  fun_cases loadTaken s with
  | case1 => exact loadRefused_lawful _ _ hlines
  | case2 =>
    refine readOn_lawful (u := clearForLoad s) hlines htbl ⟨fun _ => ⟨rfl, rfl⟩, fun h => ?_, fun l h => ?_, fun i r h => ?_⟩
    · have hle : 512 ≤ 0 := h
      omega
    · exact absurd h (Nat.not_lt_zero _)
    · cases h

theorem closeDay_lawful (hs : s.LinesLawful) : (closeDay s).LinesLawful := by
  fun_cases closeDay s with
  | case1 => exact hs.outside (endRefused_outside _ _ _)
  | case2 =>
    have hclosed : (dayClosed s).LinesLawful := by
      refine hs.congr rfl (fun i => ?_) fun _ h => h
      show ((s.tbl.instruments.map Instrument.closeDay)[i]?).map _ = _
      rw [List.getElem?_map, Option.map_map]
      rfl
    have hposted : (post .partState (dayClosed s)).LinesLawful := hclosed.outside (post_outside _ _)
    exact (noticeAll_lawful hposted).outside (endDone_outside _)

/-! ### Every command -/

theorem outside_awayFromLines_of_noScope (h : t.outside noScope = u.outside noScope) :
    t.outside awayFromLines = u.outside awayFromLines := by
  have hs (v : State) : v.outside awayFromLines = (v.outside noScope).outside awayFromLines := by
    simp [State.outside, awayFromLines, noScope, Scope.record]
  rw [hs t, h, hs u]

theorem completeEntry_lawful (e : WbEntry) (hu : u.LinesLawful) : (completeEntry e u).LinesLawful := by
  fun_cases completeEntry e u with
  | case1 => exact hu
  | case2 => exact hu.outside ((post_outside _ _).trans rfl)
  | case3 => exact reportWritten_lawful _ _ (hu.outside ((post_outside _ _).trans rfl))

theorem writeBackNext_lawful (hu : u.LinesLawful) : (writeBackNext u).LinesLawful := by
  fun_cases writeBackNext u with
  | case1 => exact hu.outside (pumpWriteBack_onlyPosts _).outside
  | case2 => exact hu.outside rfl
  | case3 e n =>
    have hset : (setActive none u).LinesLawful := hu.outside rfl
    exact (completeEntry_lawful e hset).outside (pumpWriteBack_onlyPosts _).outside

/-- A reset that begins cuts the transmitters, leaves the lines and the table, and abandons LOAD. -/
theorem beginReset_lawful (port : Option PortCycle) (hs : s.LinesLawful) : (beginReset port s).LinesLawful := by
  refine hs.congr_core (fun n => ?_) (fun _ => rfl) fun d hd => by cases hd
  have hline : (beginReset port s).lines[n] = { s.lines[n] with transmitter := [] } := by
    simp [beginReset]
  rw [hline]
  rfl

theorem abandonHost_lawful (hs : s.LinesLawful) : (abandonHost s).LinesLawful := by
  obtain ⟨b, hb⟩ := abandonHost_eq s
  rw [hb]
  exact hs.congr rfl (fun _ => rfl) fun _ h => h

/-- Every command keeps the laws of the lines. -/
theorem exec_linesLawful {c : Instr} (hs : s.LinesLawful) (h : exec c s = .next t) : t.LinesLawful := by
  have keep {u : State} (h : answer u = .next t) (hu : u.LinesLawful) : t.LinesLawful := by
    cases h
    exact hu.outside (grant_outside u)
  have hout (u v : State) (ho : v.outside noScope = u.outside noScope) (hu : u.LinesLawful) : v.LinesLawful :=
    hu.outside (outside_awayFromLines_of_noScope ho)
  by_cases hspared : unscoped c = false ∧ (blockScope c).lines = false
  · exact hs.blocks hspared.2 (exec_blocks hspared.1 h)
  cases c with
  | externalReset =>
    refine keep h ?_
    split
    exacts [hs, (beginReset_lawful (cutPort s.mem.port) hs).congr rfl (fun _ => rfl) fun _ h => h]
  | supplyLowReset =>
    refine keep h ?_
    split
    exacts [hs, (beginReset_lawful none (abandonHost_lawful hs)).congr rfl (fun _ => rfl) fun _ h => h]
  | powerOnReset p =>
    refine keep h (State.LinesLawful.outside ?_ (placeClear_outside _))
    exact (beginReset_lawful none (abandonHost_lawful hs)).congr rfl (fun _ => rfl) fun _ h => h
  | resetEnd p =>
    refine keep h ?_
    split
    · refine State.LinesLawful.outside (u := resetBlocks p s) ?_ (postAll_outside _ _)
      exact linesLawful_of_empty (unwatched_of_off replicate_off) rfl fun d hd => by cases hd
    · exact hs
  | load => exact keep h (onCommand_blocks hout (fun u _ => loadTaken_lawful u) _ hs)
  | close => exact keep h (onCommand_blocks hout (fun _ hu => closeDay_lawful hu) _ hs)
  | directoryReadReturn =>
    refine keep h ?_
    split
    · rename_i d hd
      split
      · exact hs
      · have hl : s.load = .phase1 d := by
          unfold State.directoryBeyond at hd
          split at hd
          · rename_i d' hl
            split at hd
            · rw [hl, Option.some.inj hd]
            · cases hd
          · cases hd
        exact loadRefused_lawful _ _ (hs.unwatched (hs.phase1 d hl).1)
    · refine onPartRead_blocks hout (fun u hu => hu.outside ?_) (fun w g _ hu => takeDirectoryWord_lawful w g hu) _ _ hs
      fun_cases pumpDirectory u with
      | case1 d => fun_cases placeDirectory d u <;> rfl
      | case2 => rfl
  | phase2ReadReturn =>
    exact keep h (onPartRead_blocks hout (fun _ => pumpCapture_lawful)
      (fun w g _ hu => pumpCapture_lawful (takeRecordWord_lawful w g hu)) _ _ hs)
  | fetchReadReturn =>
    exact keep h (onPartRead_blocks hout (fun _ => pumpCapture_lawful)
      (fun w g _ hu => pumpCapture_lawful (takeFetched_lawful w g hu)) _ _ hs)
  | commitWrite =>
    refine keep h (onCaptureWord_blocks (fun _ hu => hu.outside rfl) (fun i n w u hu => ?_) _ hs)
    exact pumpCapture_lawful (byStanding_lawful (fun v hv => takeCommit_lawful i w hv) i hu)
  | confirm =>
    refine keep h (onCommand_blocks hout (fun u hu => ?_) _ hs)
    fun_cases settleHold confirmHold u with
    | case1 | case2 => exact hu.outside (endRefused_outside _ _ _)
    | case3 i r h0 d hd =>
      have hset : (setInstrument i { takeTrade d.price d.size d.rounding r with hold := none } u).LinesLawful :=
        hu.setInstrument h0 rfl
      exact (notify_lawful i _ hset).outside (endDone_outside _)
  | setLine => exact keep h (onCommand_blocks hout (fun _ hu => setLineTaken_lawful hu) _ hs)
  | markReceived n => exact keep h (by split; exacts [hs, receiveChar_lawful n _ hs])
  | characterReceived n c => exact keep h (by split; exacts [hs, receiveChar_lawful n _ hs])
  | badFrame n c => exact keep h (by split; exacts [receiveChar_lawful n _ hs, hs])
  | frameAbandoned n =>
    refine keep h ?_
    split
    · exact hs
    · split
      exacts [badFrame_lawful n _ hs, hs]
  | watchRequest n | watchDrop n | pageRequest n | messageRequest n | ping n | goodFrameOtherKind n =>
    exact keep h (onGoodFrame_lawful n _ hs)
  | dozeExpiry n =>
    refine keep h ?_
    split
    · exact hs
    · split
      exacts [hs.setCore rfl, hs]
  | lineService =>
    refine keep h ?_
    split
    · exact hs
    · split
      exacts [hs, serveLine_lawful _ _ hs]
  | transmitterEmpty n => exact keep h (hs.setCore rfl)
  | writeBackWritten =>
    refine keep h ?_
    have hfree (a : Nat) (w : Word) : (freePort (writeRam a w s)).LinesLawful := hs.outside rfl
    split
    · split
      · dsimp only
        split
        · exact (hfree _ _).outside (pumpWriteBack_onlyPosts _).outside
        · exact writeBackNext_lawful (hfree _ _)
      · exact hs
    · exact hs
  | _ => exact absurd ⟨rfl, rfl⟩ hspared

/-! ### The line service arbiter (R178) -/

/-- A line is ready to be served in its class. -/
def State.Ready (s : State) (cls : Nat) (n : Fin 16) : Prop :=
  s.lines[n].state = .active ∧ s.lines[n].out ≠ [] ∧ s.lines[n].transmitter = [] ∧ s.lines[n].cls = cls

theorem ready_iff (s : State) (cls : Nat) (n : Fin 16) :
    (s.lines[n].qualifies && s.lines[n].cls == cls) = true ↔ s.Ready cls n := by
  simp [-Fin.getElem_fin, Line.qualifies, State.Ready, and_assoc]

/-- The first of the positions after `last`, in turn, that passes a test. -/
theorem find?_afterPosition {p : Fin 16 → Bool} {last n : Fin 16} (hn : p n = true)
    (hbefore : ∀ m, m - last - 1 < n - last - 1 → p m = false) : (afterPosition last).find? p = some n := by
  have hget : ∀ i : Fin 16, (afterPosition last)[i.val]? = some (i + last + 1) := fun i => by
    simp [afterPosition, all16_eq]
  have hlen : (afterPosition last).length = 16 := by simp [afterPosition, all16_eq]
  rw [List.find?_eq_some_iff_getElem]
  refine ⟨hn, (n - last - 1).val, by rw [hlen]; exact (n - last - 1).isLt, ?_, fun j hj => ?_⟩
  · have hn' := hget (n - last - 1)
    rw [List.getElem?_eq_getElem (by rw [hlen]; exact (n - last - 1).isLt), Option.some.injEq] at hn'
    rw [hn']
    abel
  · have hj16 : j < 16 := hj.trans (n - last - 1).isLt
    have hj' := hget ⟨j, hj16⟩
    rw [List.getElem?_eq_getElem (by rw [hlen]; exact hj16), Option.some.injEq] at hj'
    rw [hj', hbefore _ _]
    · rfl
    · rw [show (⟨j, hj16⟩ : Fin 16) + last + 1 - last - 1 = ⟨j, hj16⟩ by abel]
      exact hj

theorem serviceOf_eq_some {cls : Nat} {n : Fin 16} (hn : s.Ready cls n)
    (hbefore : ∀ m, m - s.service.place cls - 1 < n - s.service.place cls - 1 → ¬ s.Ready cls m) :
    s.serviceOf cls = some n :=
  find?_afterPosition ((ready_iff s cls n).mpr hn) fun m hm =>
    Bool.eq_false_iff.mpr (mt (ready_iff s cls m).mp (hbefore m hm))

theorem serviceOf_eq_none {cls : Nat} (h : ∀ m, ¬ s.Ready cls m) : s.serviceOf cls = none :=
  List.find?_eq_none.mpr fun m _ => mt (ready_iff s cls m).mp (h m)

theorem serviceChoice_eq_some {cls : Nat} {n : Fin 16} (h1 : 1 ≤ cls) (h3 : cls ≤ 3) (hn : s.serviceOf cls = some n)
    (hhigher : ∀ cls', cls < cls' → cls' ≤ 3 → s.serviceOf cls' = none) : s.serviceChoice = some (cls, n) := by
  unfold State.serviceChoice
  obtain rfl | rfl | rfl : cls = 3 ∨ cls = 2 ∨ cls = 1 := by omega
  · rw [hn]
  · rw [hhigher 3 (by decide) (by decide), hn]
  · rw [hhigher 3 (by decide) (by decide), hhigher 2 (by decide) (by decide), hn]
    rfl

theorem serviceChoice_eq_none (h : ∀ cls, 1 ≤ cls → cls ≤ 3 → s.serviceOf cls = none) : s.serviceChoice = none := by
  unfold State.serviceChoice
  rw [h 3 (by decide) (by decide), h 2 (by decide) (by decide), h 1 (by decide) (by decide)]
  rfl

/-- The served line has its entry in its transmitter, and it is the last served in its class (R178). -/
theorem serveLine_onlyPosts {cls : Nat} {n : Fin 16} {e : OutEntry} {rest : List OutEntry} (hq : s.lines[n].out = e :: rest) :
    OnlyPosts
      { s with
        lines := s.lines.set n { s.lines[n] with transmitter := buildEntry s e, out := leftAfter e rest }
        service := s.service.set cls n }
      (serveLine cls n s) := by
  have hset := setLine_onlyPosts n { s.lines[n] with out := leftAfter e rest, transmitter := buildEntry s e } s
  have hserve : serveLine cls n s =
      { setLine n { s.lines[n] with out := leftAfter e rest, transmitter := buildEntry s e } s with
        service := s.service.set cls n } := by
    unfold serveLine
    simp only [hq]
  rw [hserve]
  exact hset.map (fun u => { u with service := s.service.set cls n }) (fun _ _ => rfl) (fun w _ => by cases w <;> rfl)

/-- A line word is posted where the line's state changes. -/
theorem setLine_posted {n : Fin 16} {l : Line} (h : l.tableWord ≠ s.lines[n].tableWord) :
    (setLine n l s).Posted (.lineWord n) := by
  rw [setLine_eq, if_neg h]
  exact post_posted _ _

theorem tableWord_dozing {l : Line} (h : l.state = .active) :
    Line.tableWord { l with dozeTimer := none, state := .dozing } ≠ l.tableWord := by
  intro heq
  have hnat := congrArg BitVec.toNat heq
  simp only [Line.tableWord, h, LineState.code, BitVec.toNat_ofNat] at hnat
  omega

/-- Settles O55. -/
theorem linesServed : Obligations.LinesServed := by
  refine ⟨fun s => ?_, fun s t hs h => step_keeps (p := State.LinesLawful)
    (fun _ _ hs => ⟨hs.lines, hs.agree, hs.known, hs.phase1⟩) exec_linesLawful hs h⟩
  have hservice (hreset : s.rst.inReset = false) : exec .lineService s =
      answer (match s.serviceChoice with
        | none => s
        | some (cls, n) => serveLine cls n s) := by
    show execLineService s = _
    unfold execLineService
    rw [hreset]
    rfl
  intro ready
  refine ⟨fun hreset n cls e rest h1 h3 hn hhigher hbefore hq => ?_, fun hreset hnone => ?_, fun n => ⟨?_, ?_⟩⟩
  · have hchoice : s.serviceChoice = some (cls, n) :=
      serviceChoice_eq_some h1 h3 (serviceOf_eq_some hn hbefore)
        fun cls' hlt hle => serviceOf_eq_none fun m => hhigher cls' m hlt hle
    refine ⟨serveLine cls n s, ?_, ?_⟩
    · rw [hservice hreset, hchoice]
      rfl
    · cases e <;> exact serveLine_onlyPosts hq
  · have hchoice : s.serviceChoice = none :=
      serviceChoice_eq_none fun cls h1 h3 => serviceOf_eq_none fun m => hnone cls m h1 h3
    rw [hservice hreset, hchoice]
    rfl
  · exact ⟨_, rfl, setLine_onlyPosts n _ s⟩
  · intro t htimer hreset htime
    have hexec : exec (.dozeExpiry n) s = .next (grant (dozeOver n s)) := by
      show execDozeExpiry n s = _
      unfold execDozeExpiry
      rw [htimer]
      simp only [hreset, htime, Bool.not_false, decide_true, Bool.and_self, if_true]
      rfl
    refine ⟨_, hexec, setLine_onlyPosts n _ s, fun hact => ?_⟩
    show (setLine n { s.lines[n] with
      dozeTimer := none, state := if s.lines[n].state = .active then .dozing else s.lines[n].state } s).Posted _
    rw [if_pos hact]
    exact setLine_posted (tableWord_dozing hact)

end Sys2Proof.Machine
end


section
/-! The board links choose their frames (R106, R108, R111, R122, R123, R142). -/

namespace Sys2Proof.Machine

open Sys2Proof

/-! ### A link but for the choice of a frame -/

theorem SameLink.refl (a : Link) : SameLink a a := ⟨rfl, fun _ => rfl⟩

theorem SameLink.trans {a b c : Link} (h1 : SameLink a b) (h2 : SameLink b c) : SameLink a c := by
  refine ⟨?_, fun p => ?_⟩
  · rw [h2.link, h1.link]
  · rw [h2.positions, h1.positions]

/-- The position that a chosen frame goes to is stamped, and the wire and the places are set: the link is the same. -/
theorem sameLink_sent (l : Link) (p : Fin 16) (now : Time) (w : Wire) (a b : Fin 16) :
    SameLink l
      { l.setPosition p { l.positions[p] with lastFrame := now } with wire := w, lastSet := a, lastCells := b } := by
  refine ⟨rfl, fun q => ?_⟩
  by_cases hq : p = q
  · subst hq
    simp [Link.setPosition]
  · have hne : p.val ≠ q.val := fun h => hq (Fin.ext h)
    simp [Link.setPosition, Vector.getElem_set_ne _ _ hne]

theorem setLink_getElem (k : Fin 8) (l : Link) (s : State) (j : Fin 8) :
    (setLink k l s).links[j] = if k = j then l else s.links[j] := by
  by_cases hj : k = j
  · subst hj
    simp [setLink]
  · have hne : k.val ≠ j.val := fun h => hj (Fin.ext h)
    simp [setLink, Vector.getElem_set_ne _ _ hne, hj]

theorem setLink_self (k : Fin 8) (l : Link) (s : State) : (setLink k l s).links[k] = l := by
  rw [setLink_getElem, if_pos rfl]

/-- The choice of a frame leaves every link the same. -/
theorem chooseFrame_same (k : Fin 8) (s : State) : SameBoards s (chooseFrame k s) := by
  intro j
  unfold chooseFrame
  dsimp only
  split
  · split
    · exact .refl _
    · rw [setLink_getElem]
      split
      · rename_i h
        rw [← h]
        exact sameLink_sent _ _ _ _ _ _
      · exact .refl _
  · exact .refl _

theorem SameBoards.refl (s : State) : SameBoards s s := fun k => .refl s.links[k]

theorem SameBoards.trans {a b c : State} (h1 : SameBoards a b) (h2 : SameBoards b c) : SameBoards a c :=
  fun k => (h1 k).trans (h2 k)

theorem chooseAll_same (s : State) : SameBoards s (chooseAll s) := by
  unfold chooseAll
  generalize all8 = ks
  induction ks generalizing s with
  | nil => exact .refl s
  | cons k ks ih => exact (chooseFrame_same k s).trans (ih _)

/-! ### Which frame a link chooses (R111) -/

/-- The best of some positions by age: the oldest, and the lowest among equals. -/
def IsOldest (age : Fin 16 → Option Nat) (ps : List (Fin 16)) (p : Fin 16) (a : Nat) : Prop :=
  age p = some a ∧ p ∈ ps ∧ ∀ q ∈ ps, ∀ b, age q = some b → b < a ∨ (b = a ∧ p ≤ q)

/-- One step of the choice of the oldest. -/
def olderOf (age : Fin 16 → Option Nat) (best : Option (Fin 16 × Nat)) (p : Fin 16) : Option (Fin 16 × Nat) :=
  match age p, best with
  | none, b => b
  | some a, none => some (p, a)
  | some a, some (q, b) => if b < a then some (p, a) else some (q, b)

theorem foldl_olderOf (age : Fin 16 → Option Nat) (ps : List (Fin 16)) (hps : ps.Pairwise (· < ·)) :
    match ps.foldl (olderOf age) none with
    | none => ∀ p ∈ ps, age p = none
    | some (p, a) => IsOldest age ps p a := by
  induction ps using List.reverseRecOn with
  | nil => simp
  | append_singleton ps q ih =>
    rw [List.pairwise_append] at hps
    obtain ⟨hps, _, hlast⟩ := hps
    have ih := ih hps
    rw [List.foldl_append, List.foldl_cons, List.foldl_nil]
    cases hbest : ps.foldl (olderOf age) none with
    | none =>
      rw [hbest] at ih
      cases hq : age q with
      | none =>
        simp only [olderOf, hq]
        intro p hp
        rcases List.mem_append.mp hp with hp | hp
        · exact ih p hp
        · rwa [List.mem_singleton.mp hp]
      | some a =>
        simp only [olderOf, hq]
        refine ⟨hq, by simp, fun p hp b hb => ?_⟩
        rcases List.mem_append.mp hp with hp | hp
        · rw [ih p hp] at hb
          cases hb
        · rw [List.mem_singleton.mp hp, hq] at hb
          exact .inr ⟨(Option.some.inj hb).symm, (List.mem_singleton.mp hp).ge⟩
    | some best =>
      obtain ⟨p, a⟩ := best
      rw [hbest] at ih
      obtain ⟨hp, hmem, hold⟩ := ih
      cases hq : age q with
      | none =>
        simp only [olderOf, hq]
        refine ⟨hp, List.mem_append_left _ hmem, fun r hr b hb => ?_⟩
        rcases List.mem_append.mp hr with hr | hr
        · exact hold r hr b hb
        · rw [List.mem_singleton.mp hr, hq] at hb
          cases hb
      | some c =>
        by_cases hlt : a < c
        · simp only [olderOf, hq, if_pos hlt]
          refine ⟨hq, by simp, fun r hr b hb => ?_⟩
          rcases List.mem_append.mp hr with hr | hr
          · have := hold r hr b hb
            omega
          · rw [List.mem_singleton.mp hr, hq] at hb
            exact .inr ⟨(Option.some.inj hb).symm, (List.mem_singleton.mp hr).ge⟩
        · simp only [olderOf, hq, if_neg hlt]
          refine ⟨hp, List.mem_append_left _ hmem, fun r hr b hb => ?_⟩
          rcases List.mem_append.mp hr with hr | hr
          · exact hold r hr b hb
          · rw [List.mem_singleton.mp hr, hq] at hb
            have hpq := hlast p hmem q List.mem_cons_self
            rw [List.mem_singleton.mp hr]
            rw [Option.some.injEq] at hb
            omega

section
variable {k : Fin 8} {s : State}

theorem pollChoice_eq : s.pollChoice k = (all16.foldl (olderOf (s.pollAge k)) none).map Prod.fst := rfl

theorem all16_pairwise : all16.Pairwise (· < ·) := by
  rw [all16_eq]
  exact List.pairwise_lt_finRange 16

theorem mem_all16 (p : Fin 16) : p ∈ all16 := by
  rw [all16_eq]
  exact List.mem_finRange p

theorem pollChoice_eq_some {p : Fin 16} {a : Nat} (hp : s.pollAge k p = some a)
    (hold : ∀ p' a', s.pollAge k p' = some a' → a' < a ∨ (a' = a ∧ p ≤ p')) : s.pollChoice k = some p := by
  have hfold := foldl_olderOf (s.pollAge k) all16 all16_pairwise
  rw [pollChoice_eq]
  cases hbest : all16.foldl (olderOf (s.pollAge k)) none with
  | none =>
    rw [hbest] at hfold
    rw [hfold p (mem_all16 p)] at hp
    cases hp
  | some best =>
    obtain ⟨q, b⟩ := best
    rw [hbest] at hfold
    obtain ⟨hq, _, hqold⟩ := hfold
    have h1 := hold q b hq
    have h2 := hqold p (mem_all16 p) a hp
    rw [Option.map_some, Option.some.injEq]
    have hle : p ≤ q ∧ q ≤ p := by omega
    exact le_antisymm hle.2 hle.1

theorem pollChoice_eq_none (h : ∀ p, s.pollAge k p = none) : s.pollChoice k = none := by
  have hfold := foldl_olderOf (s.pollAge k) all16 all16_pairwise
  rw [pollChoice_eq]
  cases hbest : all16.foldl (olderOf (s.pollAge k)) none with
  | none => rfl
  | some best =>
    obtain ⟨q, b⟩ := best
    rw [hbest] at hfold
    have hq := hfold.1
    rw [h q] at hq
    cases hq

theorem find?_afterPosition_none {p : Fin 16 → Bool} (last : Fin 16) (h : ∀ q, p q = false) :
    (afterPosition last).find? p = none := List.find?_eq_none.mpr fun q _ => by rw [h q]; exact Bool.false_ne_true

theorem linkChoice_set {p : Fin 16} (hp : s.setDue k p = true)
    (hbefore : ∀ p', p' - s.links[k].lastSet - 1 < p - s.links[k].lastSet - 1 → s.setDue k p' = false) :
    s.linkChoice k = some ⟨.set (codeOf p) (s.dueSetting k p), p, p, s.links[k].lastCells⟩ := by
  unfold State.linkChoice
  dsimp only
  rw [find?_afterPosition hp hbefore]

theorem linkChoice_cells (hset : ∀ p, s.setDue k p = false) {p : Fin 16} (hp : s.cellsDue k p = true)
    (hbefore : ∀ p', p' - s.links[k].lastCells - 1 < p - s.links[k].lastCells - 1 → s.cellsDue k p' = false) :
    s.linkChoice k =
      some ⟨cellsFrame p s.links[k].positions[p].shownImage (s.dueImage k p), p, s.links[k].lastSet, p⟩ := by
  unfold State.linkChoice
  dsimp only
  rw [find?_afterPosition_none _ hset, find?_afterPosition hp hbefore]

theorem linkChoice_poll (hset : ∀ p, s.setDue k p = false) (hcells : ∀ p, s.cellsDue k p = false) :
    s.linkChoice k =
      (s.pollChoice k).map (fun p => ⟨.poll (codeOf p), p, s.links[k].lastSet, s.links[k].lastCells⟩) := by
  unfold State.linkChoice
  dsimp only
  rw [find?_afterPosition_none _ hset, find?_afterPosition_none _ hcells]
  cases s.pollChoice k <;> rfl

theorem chooseFrame_chosen (hrun : s.links[k].running = true) (hquiet : s.links[k].wire = .quiet) {c : Choice}
    (hc : s.linkChoice k = some c) :
    chooseFrame k s =
      setLink k
        { s.links[k].setPosition c.pos { s.links[k].positions[c.pos] with lastFrame := s.ctl.timeBase } with
          wire := .sending c.frame [] true, lastSet := c.lastSet, lastCells := c.lastCells } s := by
  have hfree : (s.links[k].running && s.links[k].wire == .quiet) = true := by
    rw [hrun, hquiet]
    rfl
  simp only [chooseFrame, hfree, if_true, hc]

theorem chooseFrame_quiet (hrun : s.links[k].running = true) (hquiet : s.links[k].wire = .quiet)
    (hc : s.linkChoice k = none) : chooseFrame k s = s := by
  have hfree : (s.links[k].running && s.links[k].wire == .quiet) = true := by
    rw [hrun, hquiet]
    rfl
  simp only [chooseFrame, hfree, if_true, hc]

theorem chooseFrame_busy (h : s.links[k].running = false ∨ s.links[k].wire ≠ .quiet) : chooseFrame k s = s := by
  refine if_neg fun hfree => ?_
  rw [Bool.and_eq_true] at hfree
  obtain ⟨hrun, hquiet⟩ := hfree
  rcases h with h | h
  · rw [h] at hrun
    cases hrun
  · exact h (beq_iff_eq.mp hquiet)

theorem frameGone_next {f g : LinkFrame} {rest : List LinkFrame} {wait : Bool}
    (hw : s.links[k].wire = .sending f (g :: rest) wait) : frameGone k s = setWire k (.sending g rest wait) s := by
  unfold frameGone
  rw [hw]

theorem frameGone_awaits {f : LinkFrame} (hw : s.links[k].wire = .sending f [] true) :
    frameGone k s = setWire k (.awaiting f s.ctl.timeBase) s := by
  unfold frameGone
  rw [hw]
  exact if_pos rfl

theorem frameGone_free {f : LinkFrame} (hw : s.links[k].wire = .sending f [] false) :
    frameGone k s = chooseFrame k (setWire k .quiet s) := by
  unfold frameGone
  rw [hw]
  exact if_neg Bool.false_ne_true

end

/-! ### What is due -/

section
variable {l : Link} {p : Fin 16}

theorem targetedBy_eq_some {m : Fin 16} (h : l.targetedBy p = some m) :
    l.positions[m].kind = .home ∧ l.modules[m].target = some p := by
  have hm := List.find?_some h
  simpa [-Fin.getElem_fin] using hm

theorem targetedBy_eq_none (h : l.targetedBy p = none) (m : Fin 16) (hm : l.positions[m].kind = .home) :
    l.modules[m].target ≠ some p := by
  have hno := List.find?_eq_none.mp h m (mem_all16 m)
  intro ht
  exact hno (by rw [hm, ht]; simp)

theorem served_iff (q : Position) :
    q.served = true ↔ q.kind ≠ .notFitted ∧ q.state ∈ [.unknown, .active, .idle, .tripped] := by
  simp [Position.served, or_assoc]

theorem underTest_iff (s : State) (k : Fin 8) : s.underTest k = true ↔ ∃ t, s.drive.lampTest = some t ∧ t.link = k := by
  unfold State.underTest
  cases s.drive.lampTest with
  | none => simp
  | some t => simp

theorem driven_iff {m : Fin 16} (hm : l.targetedBy p = some m) :
    l.driven p = true ↔
      l.positions[p].tripDisabled = false ∧ (l.positions[p].state = .unknown ∨ l.positions[p].state = .active) := by
  simp [-Fin.getElem_fin, Link.driven, Link.targeted, hm]

theorem showsHalted_iff (s : State) (k : Fin 8) (m : Fin 16) :
    s.showsHalted k m = true ↔ ∃ i r, s.shows k m = some i ∧ s.instrument? i = some r ∧ r.halted = true := by
  unfold State.showsHalted
  cases hi : s.shows k m with
  | none => simp
  | some i =>
    cases hr : s.instrument? i with
    | none => simp [hr]
    | some r => simp [hr]

theorem pollAge_eq_some (s : State) (k : Fin 8) (p : Fin 16) (a : Nat) :
    s.pollAge k p = some a ↔
      a = since s s.links[k].positions[p].lastFrame ∧
        (((s.links[k].positions[p].kind ≠ .notFitted ∧
              s.links[k].positions[p].state ∈ [.unknown, .active, .idle, .tripped]) ∧ 500 ≤ a) ∨
          (s.links[k].positions[p].kind ≠ .notFitted ∧ s.links[k].positions[p].state = .absent ∧ 5000 ≤ a)) := by
  unfold State.pollAge
  dsimp only
  rw [← served_iff]
  split
  · rename_i h
    rw [Option.some.injEq]
    constructor
    · rintro rfl
      refine ⟨rfl, ?_⟩
      simpa [-Fin.getElem_fin, and_assoc] using h
    · exact fun ha => ha.1.symm
  · rename_i h
    simp only [reduceCtorEq, false_iff]
    rintro ⟨rfl, hdue⟩
    exact h (by simpa [-Fin.getElem_fin, and_assoc] using hdue)

end

theorem dueImage_tested {s : State} {k : Fin 8} {p : Fin 16} (htest : s.underTest k = true)
    (hdriven : s.links[k].driven p = true) : s.dueImage k p = testImage := by
  unfold State.dueImage
  dsimp only
  rw [htest, hdriven]
  rfl

theorem dueImage_untested {s : State} {k : Fin 8} {p m : Fin 16} (hm : s.links[k].targetedBy p = some m)
    (hno : ¬ (s.underTest k = true ∧ s.links[k].driven p = true)) :
    s.dueImage k p = s.links[k].modules[m].image := by
  unfold State.dueImage
  dsimp only
  rw [if_neg (by rwa [Bool.and_eq_true]), hm]

theorem dueSetting_targeted {s : State} {k : Fin 8} {p m : Fin 16} (hm : s.links[k].targetedBy p = some m) :
    s.dueSetting k p =
      ⟨s.boardBrightness s.links[k].positions[p],
        if s.links[k].modules[m].flash.isSome && s.flashPermitted && !s.showsHalted k m then flashCells else 0⟩ := by
  unfold State.dueSetting
  dsimp only
  rw [hm]

/-- What is due at a position (R106, R122, R142). -/
theorem due_spec (k : Fin 8) (p : Fin 16) (s : State) :
    let l := s.links[k]
    let q := l.positions[p]
    let tested : Prop := ∃ t, s.drive.lampTest = some t ∧ t.link = k
    (l.targetedBy p = none → s.dueImage k p = Image.blank ∧ s.dueSetting k p = ⟨0, 0⟩) ∧
    (∀ m, l.targetedBy p = some m →
      (tested → q.tripDisabled = false → q.state = .unknown ∨ q.state = .active →
        s.dueImage k p = Vector.replicate 12 .allSegments) ∧
      (¬ (tested ∧ q.tripDisabled = false ∧ (q.state = .unknown ∨ q.state = .active)) →
        s.dueImage k p = l.modules[m].image) ∧
      (s.dueSetting k p).brightness = s.boardBrightness q ∧
      ((∃ i r, s.shows k m = some i ∧ s.instrument? i = some r ∧ r.halted = true) ∨ s.flashPermitted = false ∨
          l.modules[m].flash = none →
        (s.dueSetting k p).flash = 0) ∧
      ((∀ i r, s.shows k m = some i → s.instrument? i = some r → r.halted = false) → s.flashPermitted = true →
        l.modules[m].flash ≠ none → (s.dueSetting k p).flash = 0x01F)) := by
  intro l q tested
  have htested : s.underTest k = true ↔ tested := underTest_iff s k
  refine ⟨fun hnone => ⟨?_, ?_⟩, fun m hm => ?_⟩
  · unfold State.dueImage
    dsimp only
    rw [if_neg, hnone]
    rw [Bool.and_eq_true]
    rintro ⟨_, hdriven⟩
    have hnone' : s.links[k].targetedBy p = none := hnone
    simp [-Fin.getElem_fin, Link.driven, Link.targeted, hnone'] at hdriven
  · unfold State.dueSetting
    dsimp only
    rw [hnone]
  · have hdriven : l.driven p = true ↔ q.tripDisabled = false ∧ (q.state = .unknown ∨ q.state = .active) := driven_iff hm
    refine ⟨fun ht hd hst => dueImage_tested (htested.mpr ht) (hdriven.mpr ⟨hd, hst⟩), fun hno => ?_, ?_, fun hquiet => ?_,
      fun hrun hperm hflash => ?_⟩
    · exact dueImage_untested hm fun h => hno ⟨htested.mp h.1, hdriven.mp h.2⟩
    · rw [dueSetting_targeted hm]
    · rw [dueSetting_targeted hm]
      refine if_neg fun hall => ?_
      rw [Bool.and_eq_true, Bool.and_eq_true, Bool.not_eq_true'] at hall
      obtain ⟨⟨hsome, hperm⟩, hrun⟩ := hall
      rcases hquiet with hh | hp | hf
      · rw [(showsHalted_iff s k m).mpr hh] at hrun
        cases hrun
      · rw [hp] at hperm
        cases hperm
      · rw [show s.links[k].modules[m].flash = none from hf] at hsome
        cases hsome
    · rw [dueSetting_targeted hm]
      refine if_pos ?_
      have hsome : s.links[k].modules[m].flash.isSome = true := Option.isSome_iff_ne_none.mpr hflash
      have hnot : s.showsHalted k m = false := by
        rw [Bool.eq_false_iff]
        intro hh
        obtain ⟨i, r, hi, hr, hhalt⟩ := (showsHalted_iff s k m).mp hh
        rw [hrun i r hi hr] at hhalt
        cases hhalt
      rw [hsome, hperm, hnot]
      rfl

/-- Settles O38. -/
theorem linkChooses : Obligations.LinkChooses := by
  refine ⟨fun k s => ?_, fun k p s => ?_⟩
  · intro l sent wired
    have hpoll : ∀ u, exec (.pollDue k) u = .next (grant (chooseFrame k u)) := fun _ => rfl
    refine ⟨fun hbusy => ?_, fun hrun hquiet => ⟨fun p hp hbefore => ?_, fun hset => ⟨fun p hp hbefore => ?_,
      fun hcells => ⟨fun p a hp hold => ?_, fun hnone => ?_⟩⟩⟩, fun f next wait hw => ?_, fun m t hflash htime => ?_⟩
    · rw [hpoll, chooseFrame_busy hbusy]
    · rw [hpoll, chooseFrame_chosen hrun hquiet (linkChoice_set hp hbefore)]
      rfl
    · rw [hpoll, chooseFrame_chosen hrun hquiet (linkChoice_cells hset hp hbefore)]
      rfl
    · have hchoice := linkChoice_poll hset hcells
      rw [pollChoice_eq_some hp hold] at hchoice
      rw [hpoll, chooseFrame_chosen hrun hquiet hchoice]
      rfl
    · have hchoice := linkChoice_poll hset hcells
      rw [pollChoice_eq_none hnone] at hchoice
      rw [hpoll, chooseFrame_quiet hrun hquiet hchoice]
    · have hsent : exec (.frameSent k) s = .next (grant (frameGone k s)) := rfl
      rw [hsent]
      refine ⟨?_, ?_, ?_⟩
      · rintro g rest rfl
        rw [frameGone_next hw]
        rfl
      · rintro rfl rfl
        rw [frameGone_awaits hw]
        rfl
      · rintro rfl rfl
        rw [frameGone_free hw]
        rfl
    · intro stopped
      have hexec : exec (.flashTimerExpiry k m) s = exec (.pollDue k) stopped := by
        show execFlashTimerExpiry k m s = _
        unfold execFlashTimerExpiry
        rw [show s.links[k].modules[m].flash = some t from hflash]
        exact congrArg answer (if_pos htime)
      refine ⟨hexec, _, hexec, ?_⟩
      have hsame := (chooseFrame_same k stopped k).link
      have hmodules : (chooseFrame k stopped).links[k].modules = stopped.links[k].modules := by rw [hsame]
      rw [grant_eq]
      show (chooseFrame k stopped).links[k].modules[m].flash = none
      rw [hmodules]
      simp [stopped]
  · obtain ⟨hnone, hsome⟩ := due_spec k p s
    intro l q served tested
    have hserved : q.served = true ↔ served := served_iff q
    refine ⟨fun m => ?_, fun m => targetedBy_eq_some, targetedBy_eq_none, hnone, hsome, ?_, ?_, pollAge_eq_some s k p⟩
    · have hlt : 16 * k.val + m.val < 128 := by
        have := k.isLt
        have := m.isLt
        omega
      rw [State.shows, getElem?_pos s.tbl.boardMap (16 * k.val + m.val) hlt]
    · rw [← hserved, State.setDue, Bool.and_eq_true, bne_iff_ne]
    · rw [← hserved, State.cellsDue, Bool.and_eq_true, bne_iff_ne]

end Sys2Proof.Machine
end


section
/-! What an event of the floor leaves alone, and what its settlement does: the fault records that it queues, the words
that it posts, the limit reason log (R31, R128, R136, R141, R156). -/

namespace Sys2Proof.Machine

open Sys2Proof

/-! ### Records that wait -/

/-- An entry that stands is itself, but for a table word. -/
theorem WbEntry.Stands.eq {x y : WbEntry} (h : x.Stands y) (hx : ∀ w ws, x ≠ .table w ws) : y = x := by
  rcases h with h | ⟨w, old, new, rfl, -⟩
  · exact h
  · exact absurd rfl (hx w old)

theorem stand_mem {l m : List WbEntry} {e : WbEntry} (h : List.Forall₂ WbEntry.Stands l m) (he : e ∈ l)
    (hx : ∀ w ws, e ≠ .table w ws) : e ∈ m := by
  induction h with
  | nil => cases he
  | cons hs _ ih =>
    rcases List.mem_cons.mp he with rfl | he
    · rw [hs.eq hx]
      exact List.mem_cons_self
    · exact List.mem_cons_of_mem _ (ih he)

/-- A record that waits goes on waiting through posting. -/
theorem State.Queued.kept {a b : State} {e : WbEntry} (h : a.Queued e)
    (hk : a.ctl.writeBack.Kept b.ctl.writeBack) (hx : ∀ w ws, e ≠ .table w ws) : b.Queued e := by
  obtain ⟨front, behind, hb, hf⟩ := hk.order
  rcases h with h | h
  · exact .inl (hk.writing e 0 h)
  · cases ha : a.ctl.writeBack.active with
    | some x =>
      obtain ⟨x, n⟩ := x
      have hact := hk.writing x n ha
      simp only [WriteBack.entries, ha, hact, Option.map_some, Option.toList_some, List.singleton_append] at hb hf
      cases hf with
      | cons _ hf =>
        rw [List.cons_append] at hb
        refine .inr ?_
        rw [(List.cons.inj hb).2]
        exact List.mem_append_left _ (stand_mem hf h hx)
    | none =>
      have hmem : e ∈ b.ctl.writeBack.entries := by
        rw [hb]
        exact List.mem_append_left _ (stand_mem hf (by simpa [WriteBack.entries, ha] using h) hx)
      cases hact : b.ctl.writeBack.active with
      | none => exact .inr (by simpa [WriteBack.entries, hact] using hmem)
      | some x =>
        obtain ⟨x, n⟩ := x
        have hn := hk.takenUp ha x n hact
        simp only [WriteBack.entries, hact, Option.map_some, Option.toList_some, List.singleton_append,
          List.mem_cons] at hmem
        rcases hmem with rfl | hmem
        · exact .inl (by rw [hact, hn])
        · exact .inr hmem

theorem postFault_kept (k : FaultKind) (subj : Subject) (d : List Nat) (s : State) :
    s.ctl.writeBack.Kept (postFault k subj d s).ctl.writeBack :=
  (postFault_onlyPosts k subj d s).kept

/-! ### Faults in order -/

/-- Since `s` the faults `fs` have been posted, in order: as long as the log has room for the first of them, those have
the next slots, and their records wait (R31). -/
structure Ledger (s : State) (fs : List Posting) (u : State) : Prop where
  queued : ∀ n ≤ fs.length, s.LogRoomFor n → ∀ j < n, ∀ k subj d, fs[j]? = some (k, subj, d) →
    u.Queued (.faultRecord (s.ctl.log.nextSlot + BitVec.ofNat 5 j)
      (faultWords k (s.ctl.log.overflowCarry && j == 0) s.ctl.timeBase subj d))
  log : s.LogRoomFor fs.length → u.ctl.log =
    { s.ctl.log with
      nextSlot := s.ctl.log.nextSlot + BitVec.ofNat 5 fs.length
      overflowCarry := s.ctl.log.overflowCarry && fs.isEmpty }

section
variable {s u v : State} {fs : List Posting}

theorem Ledger.faultsPosted (h : Ledger s fs u) : FaultsPosted s u fs := by
  intro hroom
  refine ⟨h.log hroom, fun j k subj d hj => h.queued _ le_rfl hroom j ?_ k subj d hj⟩
  exact (List.getElem?_eq_some_iff.mp hj).1

theorem Ledger.nil (hlog : u.ctl.log = s.ctl.log) : Ledger s [] u where
  queued n hn _ j hj := by
    rw [List.length_nil, Nat.le_zero] at hn
    omega
  log _ := by
    rw [hlog]
    simp

/-- Posting, and a change of anything but the log, keeps the ledger. -/
theorem Ledger.kept (h : Ledger s fs u) (hlog : v.ctl.log = u.ctl.log)
    (hk : u.ctl.writeBack.Kept v.ctl.writeBack) : Ledger s fs v where
  queued n hn hroom j hj k subj d hf := (h.queued n hn hroom j hj k subj d hf).kept hk (by simp)
  log hroom := hlog.trans (h.log hroom)

/-- The next fault joins the ledger. -/
theorem Ledger.fault (h : Ledger s fs u) (hrst : u.rst = s.rst) (htime : u.ctl.timeBase = s.ctl.timeBase)
    (k : FaultKind) (subj : Subject) (d : List Nat) : Ledger s (fs ++ [(k, subj, d)]) (postFault k subj d u) := by
  have hkept := postFault_kept k subj d u
  have hnew (hroom : s.LogRoomFor (fs.length + 1)) :
      (postFault k subj d u).ctl.log =
          { s.ctl.log with
            nextSlot := s.ctl.log.nextSlot + BitVec.ofNat 5 fs.length + 1
            overflowCarry := false } ∧
        (postFault k subj d u).Queued (.faultRecord (s.ctl.log.nextSlot + BitVec.ofNat 5 fs.length)
          (faultWords k (s.ctl.log.overflowCarry && fs.isEmpty) s.ctl.timeBase subj d)) := by
    have hlog := h.log ⟨hroom.1, fun j hj => hroom.2 j (by omega)⟩
    have hu : u.LogRoom := by
      refine ⟨by rw [hrst]; exact hroom.1, ?_⟩
      rw [hlog]
      exact hroom.2 fs.length (by omega)
    obtain ⟨hposts, hq⟩ := postFault_room (k := k) (subj := subj) (d := d) hu
    refine ⟨?_, ?_⟩
    · rw [hposts.eq]
      simp only [State.slotTaken, hlog]
    · rw [State.faultEntry, hlog, htime] at hq
      exact hq
  have hempty : fs.isEmpty = (fs.length == 0) := by cases fs <;> rfl
  refine ⟨fun n hn hroom j hj k' subj' d' hf => ?_, fun hroom => ?_⟩
  · rw [List.length_append, List.length_singleton] at hn
    by_cases hlast : j = fs.length
    · subst hlast
      obtain rfl : n = fs.length + 1 := by omega
      have hfault : (k, subj, d) = (k', subj', d') := by simpa using hf
      have hq := (hnew hroom).2
      rw [hempty] at hq
      cases hfault
      exact hq
    · have hj' : j < fs.length := by omega
      rw [List.getElem?_append_left hj'] at hf
      have hroom' : s.LogRoomFor (min n fs.length) := ⟨hroom.1, fun i hi => hroom.2 i (by omega)⟩
      exact (h.queued _ (by omega) hroom' j (by omega) k' subj' d' hf).kept hkept (by simp)
  · rw [List.length_append, List.length_singleton] at hroom ⊢
    rw [(hnew hroom).1]
    have hjoin : (fs ++ [(k, subj, d)]).isEmpty = false := by simp
    rw [hjoin, Bool.and_false, BitVec.ofNat_add, ← BitVec.add_assoc]
    rfl

theorem State.LogRoom.one (h : s.LogRoom) : s.LogRoomFor 1 := by
  refine ⟨h.1, fun j hj => ?_⟩
  obtain rfl : j = 0 := by omega
  simpa using h.2

theorem State.LogRoom.two (h : s.LogRoom) (h' : s.slotTaken.LogRoom) : s.LogRoomFor 2 := by
  refine ⟨h.1, fun j hj => ?_⟩
  have hj : j = 0 ∨ j = 1 := by omega
  rcases hj with rfl | rfl
  · simpa using h.2
  · exact h'.2

/-- The first fault has been recorded. -/
theorem Ledger.first {k : FaultKind} {subj : Subject} {d : List Nat} (h : Ledger s ((k, subj, d) :: fs) u)
    (hroom : s.LogRoom) : u.Queued (s.faultEntry k subj d) := by
  have := h.queued 1 (by simp) hroom.one 0 (by omega) k subj d rfl
  simpa [State.faultEntry] using this

/-- The second fault has been recorded behind the first. -/
theorem Ledger.second {f : Posting} {k : FaultKind} {subj : Subject} {d : List Nat}
    (h : Ledger s (f :: (k, subj, d) :: fs) u) (hroom : s.LogRoom) (hroom' : s.slotTaken.LogRoom) :
    u.Queued (s.slotTaken.faultEntry k subj d) := by
  have := h.queued 2 (by simp) (hroom.two hroom') 1 (by omega) k subj d rfl
  simpa [State.faultEntry, State.slotTaken] using this

end

/-! ### Links that are the same -/

theorem SameLink.driveEnable {a b : Link} (h : SameLink a b) : b.driveEnable = a.driveEnable := by
  unfold Link.driveEnable
  refine congrArg all16.all (funext fun p => ?_)
  rw [h.positions p]

theorem SameLink.moduleWord {a b : Link} (h : SameLink a b) (k : Fin 8) (p : Fin 16) :
    b.moduleWord k p = a.moduleWord k p := by
  have hm : b.modules = a.modules := by rw [h.link]
  unfold Link.moduleWord
  rw [h.positions p, hm]

section
variable {s t : State}

theorem SameBoards.anyTripDisabled (h : SameBoards s t) : t.anyTripDisabled = s.anyTripDisabled := by
  unfold State.anyTripDisabled
  refine congrArg all8.any (funext fun k => ?_)
  rw [(h k).driveEnable]

/-- The words that the part writes do not show the choice of a frame. -/
theorem SameBoards.tableWords (h : SameBoards s t) (ht : t = { s with links := t.links }) (w : TableWord) :
    t.tableWords w = s.tableWords w := by
  have hdrive : t.driveStateWord = s.driveStateWord := by
    unfold State.driveStateWord
    have hlinks : (fun k : Fin 8 => bitOf t.links[k].driveEnable (8 + k.val)) =
        fun k => bitOf s.links[k].driveEnable (8 + k.val) := funext fun k => by rw [(h k).driveEnable]
    rw [hlinks, ht]
  have hany := h.anyTripDisabled
  cases w with
  | moduleWord k p => exact congrArg (fun x => [x]) ((h k).moduleWord k p)
  | driveState => exact congrArg (fun x => [x]) hdrive
  | limitReasons =>
    simp only [State.tableWords, State.limitStatus, hany]
    rw [ht]
  | _ => rw [ht]; rfl

end

/-! ### Events of the floor -/

/-- `u` is `s` but for what an event of the floor changes before it is settled: the links, the Drive Protection Unit
less its limit reason log, the fault log, the command record, the handed writes, and posting. -/
structure FloorStep (s u : State) : Prop where
  rest : u =
    { s with
      mem := { s.mem with parts := u.mem.parts }
      ctl :=
        { s.ctl with
          command := u.ctl.command
          alert := u.ctl.alert
          log := u.ctl.log
          writeBack := u.ctl.writeBack }
      handed := u.handed
      links := u.links
      drive := u.drive }
  kept : s.ctl.writeBack.Kept u.ctl.writeBack
  limitLog : u.drive.log = s.drive.log

/-- `u` is `s` but for its links, the faults `fs`, posted in order, and posting. -/
structure BoardWork (s : State) (fs : List Posting) (u : State) : Prop where
  rest : u =
    { s with
      mem := { s.mem with parts := u.mem.parts }
      ctl := { s.ctl with log := u.ctl.log, writeBack := u.ctl.writeBack }
      links := u.links }
  kept : s.ctl.writeBack.Kept u.ctl.writeBack
  ledger : Ledger s fs u

section
variable {s t u v : State} {fs : List Posting}

theorem FloorStep.refl (s : State) : FloorStep s s := ⟨rfl, .refl _, rfl⟩

theorem FloorStep.trans (h1 : FloorStep s t) (h2 : FloorStep t u) : FloorStep s u := by
  refine ⟨?_, h1.kept.trans h2.kept, h2.limitLog.trans h1.limitLog⟩
  rw [h2.rest, h1.rest]

theorem OnlyPosts.floorStep (h : OnlyPosts s u) : FloorStep s u := by
  refine ⟨?_, h.kept, ?_⟩ <;> rw [h.eq]

theorem FloorStep.posts (h : FloorStep s u) (hp : OnlyPosts u v) : FloorStep s v := h.trans hp.floorStep

theorem BoardWork.refl (s : State) : BoardWork s [] s := ⟨rfl, .refl _, .nil rfl⟩

theorem BoardWork.floorStep (h : BoardWork s fs u) : FloorStep s u := by
  refine ⟨?_, h.kept, ?_⟩ <;> rw [h.rest]

theorem BoardWork.drive (h : BoardWork s fs u) : u.drive = s.drive := by rw [h.rest]

theorem BoardWork.handed (h : BoardWork s fs u) : u.handed = s.handed := by rw [h.rest]

theorem BoardWork.setLink (h : BoardWork s fs u) (k : Fin 8) (l : Link) : BoardWork s fs (setLink k l u) := by
  refine ⟨?_, h.kept, h.ledger.kept rfl (.refl _)⟩
  conv_lhs => rw [h.rest]
  rfl

theorem BoardWork.links (h : BoardWork s fs u) (ls : Vector Link 8) : BoardWork s fs { u with links := ls } := by
  refine ⟨?_, h.kept, h.ledger.kept rfl (.refl _)⟩
  conv_lhs => rw [h.rest]

theorem BoardWork.posts (h : BoardWork s fs u) (hp : OnlyPosts u v) : BoardWork s fs v := by
  refine ⟨?_, h.kept.trans hp.kept, h.ledger.kept (by rw [hp.eq]) hp.kept⟩
  rw [hp.eq]
  conv_lhs => rw [h.rest]

theorem BoardWork.logged {fs' : List Posting} (h : BoardWork s fs u) (hp : OnlyPosts (setLog v.ctl.log u) v)
    (hl : Ledger s fs' v) : BoardWork s fs' v := by
  refine ⟨?_, h.kept.trans hp.kept, hl⟩
  rw [hp.eq]
  conv_lhs => rw [h.rest]
  rfl

theorem BoardWork.fault (h : BoardWork s fs u) (k : FaultKind) (subj : Subject) (d : List Nat) :
    BoardWork s (fs ++ [(k, subj, d)]) (postFault k subj d u) :=
  h.logged (postFault_onlyPosts k subj d u) (h.ledger.fault (by rw [h.rest]) (by rw [h.rest]) k subj d)

/-! ### What follows the Drive Protection Unit's state -/

theorem presentStill_tape (s : State) :
    presentStill s =
      { s with
        tape :=
          { s.tape with
            portBrightness := if s.tape.condition = .still then s.ribbonBrightness else s.tape.portBrightness } } := by
  unfold presentStill
  split <;> rfl

/-- A settled state is the one before it with the limit reason log joined, a still ribbon's brightness presented, the
choices of the links, and posting. -/
theorem settled_eq (h : OnlyPosts u v) (old : State) :
    chooseAll (driveSettle old v) =
      { u with
        mem := { u.mem with parts := (driveSettle old v).mem.parts }
        ctl := { u.ctl with writeBack := (driveSettle old v).ctl.writeBack }
        links := (chooseAll (driveSettle old v)).links
        drive := { u.drive with log := u.drive.log.union u.limitStatus }
        tape :=
          { u.tape with
            portBrightness :=
              if u.tape.condition = .still then u.ribbonBrightness else u.tape.portBrightness } } := by
  have hd := driveSettle_onlyPosts old v
  rw [chooseAll_eq]
  generalize driveSettle old v = w at hd
  generalize (chooseAll w).links = ls
  rw [presentStill_tape] at hd
  rw [hd.eq]
  conv_lhs => rw [h.eq]
  rfl

/-- What a settled state keeps of the state before it. -/
structure Settled (u t : State) : Prop where
  drive : t.drive = { u.drive with log := t.drive.log }
  handed : t.handed = u.handed
  command : t.ctl.command = u.ctl.command
  alert : t.ctl.alert = u.ctl.alert
  log : t.ctl.log = u.ctl.log
  boards : SameBoards u t
  kept : u.ctl.writeBack.Kept t.ctl.writeBack

theorem SameLink.congr {a b c : Link} (h : SameLink a c) (hb : b = a) : SameLink b c := hb ▸ h

theorem settled_boards (h : OnlyPosts u v) (old : State) : SameBoards u (chooseAll (driveSettle old v)) := by
  intro k
  have hsame := chooseAll_same (driveSettle old v) k
  have hlinks : (driveSettle old v).links = u.links := by
    rw [(driveSettle_onlyPosts old v).eq, presentStill_tape, h.eq]
    rfl
  rw [hlinks] at hsame
  exact hsame

theorem settled_kept (h : OnlyPosts u v) (old : State) :
    u.ctl.writeBack.Kept (chooseAll (driveSettle old v)).ctl.writeBack := by
  have hd := (driveSettle_onlyPosts old v).kept
  rw [presentStill_tape] at hd
  rw [chooseAll_eq]
  generalize driveSettle old v = w at hd
  exact h.kept.trans hd

theorem settled (h : OnlyPosts u v) (old : State) : Settled u (grant (chooseAll (driveSettle old v))) := by
  have he := settled_eq h old
  have hb := settled_boards h old
  have hk := settled_kept h old
  generalize chooseAll (driveSettle old v) = t at he hb hk
  refine ⟨?_, ?_, ?_, ?_, ?_, ?_, ?_⟩
  · rw [grant_drive, he]
  · rw [grant_handed, he]
  · rw [grant_ctl, he]
  · rw [grant_ctl, he]
  · rw [grant_ctl, he]
  · exact fun k => by rw [grant_links]; exact hb k
  · rw [grant_ctl]
    exact hk

/-- A step of the floor, settled, leaves the rest alone, joins the log and presents a still ribbon (R141, R156). -/
theorem FloorStep.settle (hs : FloorStep s u) (h : OnlyPosts u v) (old : State) :
    FloorOnly s (grant (chooseAll (driveSettle old v))) := by
  have he := settled_eq h old
  have hb := settled_boards h old
  have hk := hs.kept.trans (settled_kept h old)
  generalize chooseAll (driveSettle old v) = t at he hb hk
  have hany := hb.anyTripDisabled
  have hr := hs.rest
  have hl := hs.limitLog
  have hribbon : t.ribbonBrightness = u.ribbonBrightness := by
    rw [State.ribbonBrightness, State.ribbonBrightness, State.floorDark, State.floorDark, he]
  have hlog : LogJoins s.drive.log t := by
    unfold LogJoins
    rw [hany, ← hl, he]
    rfl
  have htape : t.tape =
      { u.tape with
        portBrightness := if u.tape.condition = .still then u.ribbonBrightness else u.tape.portBrightness } := by
    rw [he]
  have hsame : u.tape = s.tape := by rw [hr]
  constructor
  case limitLog =>
    have hgrant : (grant t).anyTripDisabled = t.anyTripDisabled := by
      rw [State.anyTripDisabled, State.anyTripDisabled, grant_links]
    unfold LogJoins
    rw [hgrant, grant_drive]
    exact hlog
  case tape =>
    have hgrant : (grant t).ribbonBrightness = t.ribbonBrightness := by
      rw [State.ribbonBrightness, State.ribbonBrightness, State.floorDark, State.floorDark, grant_drive]
    rw [hgrant, grant_tape, htape, hribbon, hsame]
  case kept =>
    rw [grant_ctl]
    exact hk
  case ctl =>
    rw [grant_ctl, he]
    conv_lhs => rw [hr]
  case ram => rw [grant_ram, he]; conv_lhs => rw [hr]
  case guards =>
    rw [grant_guards, grant_guardLock, grant_trap, he]
    exact ⟨congrArg (·.mem.guards) hr, congrArg (·.mem.guardLock) hr, congrArg (·.mem.trap) hr⟩
  case refresh => rw [grant_refresh, he]; conv_lhs => rw [hr]
  case rst => rw [grant_rst, he]; conv_lhs => rw [hr]
  case tbl => rw [grant_tbl, he]; conv_lhs => rw [hr]
  case load => rw [grant_load, he]; conv_lhs => rw [hr]
  case cap => rw [grant_cap, he]; conv_lhs => rw [hr]
  case flashTime => rw [grant_flashTime, he]; conv_lhs => rw [hr]
  case lines => rw [grant_lines, he]; conv_lhs => rw [hr]
  case service => rw [grant_service, he]; conv_lhs => rw [hr]
  case pending => rw [grant_pending, he]; conv_lhs => rw [hr]

/-! ### What stays posted -/

/-- What waits goes on waiting as the links choose. -/
theorem posted_chooseAll {w : TableWord} (h : s.Posted w) : (grant (chooseAll s)).Posted w := by
  have hw : (chooseAll s).tableWords w = s.tableWords w := (chooseAll_same s).tableWords (chooseAll_eq s) w
  have hctl : (chooseAll s).ctl = s.ctl := by rw [chooseAll_eq]
  unfold State.Posted
  rw [grant_tableWords, hw, grant_ctl, hctl]
  exact h

/-- The words of the drive that differ from what they were wait as the floor is settled. -/
theorem posted_changed {w : TableWord} {old : State} (hw : w ∈ [TableWord.driveState, .limitReasons, .governorStage])
    (hne : (driveSettle old s).tableWords w ≠ old.tableWords w) :
    (grant (chooseAll (driveSettle old s))).Posted w := by
  refine posted_chooseAll (postChanged_posted hw ?_)
  rwa [(driveSettle_onlyPosts old s).tableWords w] at hne

/-- What waits goes on waiting as the floor is settled, but for the word of the limit reasons. -/
theorem posted_settled {w : TableWord} {old : State} (h : s.Posted w) (hw : w ≠ .limitReasons) :
    (grant (chooseAll (driveSettle old s))).Posted w := by
  refine posted_chooseAll (posted_postChanged ?_ _)
  have hwords : (presentStill (logReasons s)).tableWords w = s.tableWords w := by
    rw [presentStill_tape]
    cases w with
    | limitReasons => exact absurd rfl hw
    | _ => rfl
  have hctl : (presentStill (logReasons s)).ctl = s.ctl := by rw [presentStill_tape]; rfl
  unfold State.Posted
  rw [hwords, hctl]
  exact h

end

end Sys2Proof.Machine
end


section
/-! Replies, missed replies, trips and the automatic remap (R107 to R116, R127, R128). -/

namespace Sys2Proof.Machine

open Sys2Proof

/-! ### Positions and modules of a link -/

section
variable (l : Link) (p : Fin 16) (q : Position)

theorem setPosition_getElem (r : Fin 16) :
    (l.setPosition p q).positions[r] = if p = r then q else l.positions[r] := by
  by_cases hr : p = r
  · subst hr
    simp [Link.setPosition]
  · have hne : p.val ≠ r.val := fun h => hr (Fin.ext h)
    simp [Link.setPosition, Vector.getElem_set_ne _ _ hne, hr]

theorem setPosition_self : (l.setPosition p q).positions[p] = q := by
  rw [setPosition_getElem, if_pos rfl]

theorem setPosition_twice (q' : Position) : (l.setPosition p q).setPosition p q' = l.setPosition p q' := by
  simp only [Link.setPosition, Vector.set_set]

end

/-- Who targets a position depends on the kinds and the targets alone. -/
theorem targetedBy_congr {a b : Link} (hk : ∀ p : Fin 16, b.positions[p].kind = a.positions[p].kind)
    (hm : b.modules = a.modules) (x : Fin 16) : b.targetedBy x = a.targetedBy x := by
  unfold Link.targetedBy
  refine congrArg (fun f => all16.find? f) (funext fun m => ?_)
  rw [hk, hm]

theorem targetedBy_setPosition {l : Link} {p : Fin 16} {q : Position} (hq : q.kind = l.positions[p].kind) (x : Fin 16) :
    (l.setPosition p q).targetedBy x = l.targetedBy x := by
  refine targetedBy_congr (a := l) (b := l.setPosition p q) (fun r => ?_) rfl x
  rw [setPosition_getElem]
  split
  · rename_i h
    rw [← h, hq]
  · rfl

theorem targeted_iff (l : Link) (p : Fin 16) : l.targeted p = true ↔ ∃ m, l.targetedBy p = some m :=
  Option.isSome_iff_exists

theorem idleSpare_eq_some (l : Link) (y : Fin 16) : l.idleSpare = some y ↔
    l.positions[y].kind = .spare ∧ l.positions[y].state = .idle ∧
      ∀ z : Fin 16, z < y → ¬ (l.positions[z].kind = .spare ∧ l.positions[z].state = .idle) := by
  unfold Link.idleSpare
  rw [all16_eq, List.find?_eq_some_iff_getElem]
  constructor
  · rintro ⟨hy, i, hi, heq, hbefore⟩
    simp only [Bool.and_eq_true, beq_iff_eq] at hy
    refine ⟨hy.1, hy.2, fun z hz hboth => ?_⟩
    have hval : y.val = i := by rw [← heq]; simp
    have hno := hbefore z.val (by omega)
    simp [-Fin.getElem_fin, hboth.1, hboth.2] at hno
  · rintro ⟨hkind, hstate, hbefore⟩
    refine ⟨by simp [-Fin.getElem_fin, hkind, hstate], y.val, by simp, by simp, fun j hj => ?_⟩
    have hno := hbefore ⟨j, by omega⟩ hj
    simpa [-Fin.getElem_fin, imp_iff_not_or] using hno

theorem idleSpare_eq_none (l : Link) : l.idleSpare = none ↔
    ∀ z : Fin 16, ¬ (l.positions[z].kind = .spare ∧ l.positions[z].state = .idle) := by
  unfold Link.idleSpare
  rw [List.find?_eq_none]
  refine ⟨fun h z hz => h z (mem_all16 z) (by rw [hz.1, hz.2]; rfl), fun h z _ hz => h z ?_⟩
  simpa [-Fin.getElem_fin] using hz

/-! ### A module moves (R112, R117) -/

theorem Position.enter_leave (q : Position) : q.leave.enter = q.enter := by
  obtain ⟨kind, state, trips, missed, image, setting, last, disabled⟩ := q
  cases state <;> rfl

section
variable (l : Link) (m : Fin 16) (dest : Option (Fin 16))

/-- The position that a moving module leaves, and the one that it enters, in a link. -/
def movedPosition (p : Fin 16) : Position :=
  let left := if l.modules[m].target = some p then l.positions[p].leave else l.positions[p]
  if dest = some p then left.enter else left

theorem move_positions (p : Fin 16) : (l.move m dest).positions[p] = movedPosition l m dest p := by
  unfold Link.move movedPosition
  cases l.modules[m].target with
  | none =>
    cases dest with
    | none => simp
    | some y =>
      dsimp only
      rw [setPosition_getElem]
      by_cases hy : y = p
      · subst hy
        simp
      · simp [hy]
  | some x =>
    cases dest with
    | none =>
      dsimp only
      rw [setPosition_getElem]
      by_cases hx : x = p
      · subst hx
        simp
      · simp [hx]
    | some y =>
      dsimp only
      rw [setPosition_getElem, setPosition_getElem, setPosition_getElem]
      by_cases hy : y = p
      · subst hy
        by_cases hx : x = y
        · subst hx
          simp
        · simp [hx]
      · by_cases hx : x = p
        · subst hx
          simp [hy]
        · simp [hx, hy]

theorem move_modules (j : Fin 16) : (l.move m dest).modules[j] =
    if m = j then { l.modules[m] with target := dest } else l.modules[j] := by
  have hkept : (l.move m dest).modules = l.modules.set m { l.modules[m] with target := dest } := by
    unfold Link.move
    cases l.modules[m].target <;> cases dest <;> rfl
  rw [hkept]
  by_cases hj : m = j
  · subst hj
    simp
  · have hne : m.val ≠ j.val := fun h => hj (Fin.ext h)
    simp [Vector.getElem_set_ne _ _ hne, hj]

theorem move_rest : l.move m dest =
    { l with positions := (l.move m dest).positions, modules := (l.move m dest).modules } := by
  unfold Link.move
  cases l.modules[m].target <;> cases dest <;> rfl

/-- A moved module has moved. -/
theorem move_moved : Moved m dest l (l.move m dest) where
  target := by rw [move_modules, if_pos rfl]
  others j hj := by rw [move_modules, if_neg (Ne.symm hj)]
  link := by
    conv_lhs => rw [move_rest]
    rw [move_rest]
  entered y hy := by
    rw [move_positions, movedPosition, if_pos hy]
    by_cases ht : l.modules[m].target = some y
    · rw [if_pos ht, Position.enter_leave]
      rfl
    · rw [if_neg ht]
      rfl
  left x hx hd := by
    rw [move_positions, movedPosition, if_neg hd, if_pos hx]
    rfl
  rest p hp hd := by rw [move_positions, movedPosition, if_neg hd, if_neg hp]

end

section
variable {m p : Fin 16} {dest : Option (Fin 16)} {a b c : Link}

theorem Moved.same (h : Moved m dest a b) (hs : SameLink b c) : Moved m dest a c where
  target := by
    rw [hs.link]
    exact h.target
  others j hj := by
    rw [hs.link]
    exact h.others j hj
  link := by
    rw [hs.link]
    conv_lhs => rw [h.link]
  entered y hy := by rw [hs.positions, h.entered y hy]
  left x hx hd := by rw [hs.positions, h.left x hx hd]
  rest q hq hd := by rw [hs.positions, h.rest q hq hd]

theorem RemapsAway.same (h : RemapsAway p a b) (hs : SameLink b c) : RemapsAway p a c :=
  ⟨fun hn => (h.untargeted hn).trans hs, fun m hm => (h.moved m hm).same hs⟩

end

/-! ### The automatic remap (R116) -/

section
variable {s u : State} {fs : List Posting} {k : Fin 8} {x : Fin 16}

/-- The fault of an automatic remap that finds no IDLE spare. -/
def spareFaults (k : Fin 8) (x : Fin 16) (l : Link) : List Posting :=
  match l.targetedBy x, l.idleSpare with
  | some m, none => [(.noSpare, .logicalModule (physical k m), [physical k x, l.positions[x].state.code])]
  | _, _ => []

theorem spareFaults_some {l : Link} {m : Fin 16} (hm : l.targetedBy x = some m) (hspare : l.idleSpare = none) :
    spareFaults k x l =
      [(.noSpare, .logicalModule (physical k m), [physical k x, l.positions[x].state.code])] := by
  unfold spareFaults
  rw [hm, hspare]

theorem setLink_other {j : Fin 8} (hj : j ≠ k) (l : Link) (s : State) : (setLink k l s).links[j] = s.links[j] := by
  rw [setLink_getElem, if_neg (Ne.symm hj)]

theorem postFault_links (kind : FaultKind) (subj : Subject) (d : List Nat) (s : State) :
    (postFault kind subj d s).links = s.links := by
  rw [(postFault_onlyPosts kind subj d s).eq]
  rfl

/-- The link after an automatic remap. -/
def Link.remapped (l : Link) (x : Fin 16) : Link :=
  match l.targetedBy x with
  | none => l
  | some m => l.move m l.idleSpare

theorem remapped_away (l : Link) (x : Fin 16) : RemapsAway x l (l.remapped x) := by
  refine ⟨fun h => ?_, fun m hm => ?_⟩
  · rw [Link.remapped, h]
    exact .refl l
  · rw [Link.remapped, hm]
    exact move_moved l m l.idleSpare

theorem autoRemap_links (j : Fin 8) :
    (autoRemap k x u).links[j] = if k = j then u.links[k].remapped x else u.links[j] := by
  unfold autoRemap Link.remapped
  dsimp only
  cases hm : u.links[k].targetedBy x with
  | none =>
    dsimp only
    split
    · rename_i h
      rw [h]
    · rfl
  | some m =>
    dsimp only
    cases u.links[k].idleSpare with
    | none => exact (congrArg (·[j]) (postFault_links _ _ _ _)).trans (setLink_getElem _ _ _ _)
    | some y => exact setLink_getElem _ _ _ _

theorem autoRemap_work (h : BoardWork s fs u) :
    BoardWork s (fs ++ spareFaults k x u.links[k]) (autoRemap k x u) := by
  unfold autoRemap spareFaults
  dsimp only
  cases u.links[k].targetedBy x with
  | none => simpa using h
  | some m =>
    dsimp only
    cases u.links[k].idleSpare with
    | none => exact (h.setLink k _).fault _ _ _
    | some y => simpa using h.setLink k _

end

/-! ### An event on a link is settled -/

/-- `t` is `s` after an event of the floor that has left the links of `u` and posted the faults `fs`. -/
structure BoardEvent (s : State) (fs : List Posting) (u t : State) : Prop where
  floor : FloorOnly s t
  drive : t.drive = { s.drive with log := t.drive.log }
  handed : t.handed = s.handed
  boards : SameBoards u t
  ledger : Ledger s fs t

section
variable {s u : State} {fs : List Posting} {k : Fin 8}

theorem BoardWork.event (h : BoardWork s fs u) (k : Fin 8) : BoardEvent s fs u (grant (boardSettle s k u)) := by
  have hp := postChanged_onlyPosts s (linkTable k) u
  have hset := settled hp s
  have hfloor := h.floorStep.settle hp s
  rw [boardSettle]
  generalize grant (chooseAll (driveSettle s (postChanged s (linkTable k) u))) = t at hset hfloor
  refine ⟨hfloor, ?_, ?_, hset.boards, ?_⟩
  · have hd := hset.drive
    rw [h.drive] at hd
    exact hd
  · exact hset.handed.trans h.handed
  · exact h.ledger.kept hset.log hset.kept

/-- What an event leaves a link that it has not touched. -/
theorem BoardEvent.other {t : State} {j : Fin 8} (h : BoardEvent s fs u t) (hj : u.links[j] = s.links[j]) :
    SameLink s.links[j] t.links[j] := by
  rw [← hj]
  exact h.boards j

end

/-! ### Missed replies (R107, R110) -/

/-- A position whose reply to a frame has been missed: what the frame was to show is unknown (R107). -/
def Position.afterMiss (q : Position) (f : LinkFrame) : Position :=
  match f with
  | .poll _ => q
  | _ => q.forget

section
variable (q : Position) (f : LinkFrame)

@[simp] theorem afterMiss_kind : (q.afterMiss f).kind = q.kind := by cases f <;> rfl
@[simp] theorem afterMiss_state : (q.afterMiss f).state = q.state := by cases f <;> rfl
@[simp] theorem afterMiss_trips : (q.afterMiss f).trips = q.trips := by cases f <;> rfl
@[simp] theorem afterMiss_missed : (q.afterMiss f).missed = q.missed := by cases f <;> rfl
@[simp] theorem afterMiss_served : (q.afterMiss f).served = q.served := by simp [Position.served]

end

section
variable {k : Fin 8} {f : LinkFrame} {s : State}

theorem missedReply_eq : missedReply k f s =
    let q := s.links[k].positions[f.pos].afterMiss f
    if q.served then
      if 3 ≤ q.missed + 1 then
        enterAbsent k f.pos (setLink k (s.links[k].setPosition f.pos { q with missed := q.missed + 1 }) s)
      else setLink k (s.links[k].setPosition f.pos { q with missed := q.missed + 1 }) s
    else setLink k (s.links[k].setPosition f.pos { q with missed := 0 }) s := by
  cases f <;> rfl

theorem missedReply_counted (h : s.links[k].positions[f.pos].served = false ∨ s.links[k].positions[f.pos].missed + 1 < 3) :
    missedReply k f s =
      setLink k
        (s.links[k].setPosition f.pos
          { s.links[k].positions[f.pos].afterMiss f with
            missed :=
              if s.links[k].positions[f.pos].served then s.links[k].positions[f.pos].missed + 1 else 0 }) s := by
  rw [missedReply_eq]
  simp only [afterMiss_served, afterMiss_missed]
  by_cases hserved : s.links[k].positions[f.pos].served = true
  · have hlt : s.links[k].positions[f.pos].missed + 1 < 3 := h.resolve_left (by rw [hserved]; simp)
    rw [if_pos hserved, if_neg (by omega), if_pos hserved]
  · rw [if_neg hserved, if_neg hserved]

theorem missedReply_absent (hserved : s.links[k].positions[f.pos].served = true)
    (hthree : 3 ≤ s.links[k].positions[f.pos].missed + 1) :
    missedReply k f s =
      enterAbsent k f.pos
        (setLink k
          (s.links[k].setPosition f.pos
            { s.links[k].positions[f.pos].afterMiss f with missed := s.links[k].positions[f.pos].missed + 1 }) s) := by
  rw [missedReply_eq]
  simp only [afterMiss_served, afterMiss_missed]
  rw [if_pos hserved, if_pos hthree]

/-! ### The end of a reply wait -/

theorem exec_reply_unawaited (b0 b1 b2 : Byte) (hw : ∀ f t, s.links[k].wire ≠ .awaiting f t) :
    exec (.reply k b0 b1 b2) s = .next (grant s) := by
  change execReply k b0 b1 b2 s = _
  unfold execReply
  split
  · rename_i f t h
    exact absurd h (hw f t)
  · rfl

theorem exec_reply_awaited {b0 b1 b2 : Byte} {t : Time} (hw : s.links[k].wire = .awaiting f t) :
    exec (.reply k b0 b1 b2) s =
      .next (grant (boardSettle s k
        (if replyGood s f t b0 b1 b2 then goodReply k f (b1 == 1) (quietLink k s)
        else missedReply k f (quietLink k s)))) := by
  change execReply k b0 b1 b2 s = _
  simp only [execReply, hw, answer_eq]

theorem exec_replyTimeout {t : Time} (hw : s.links[k].wire = .awaiting f t) (h4 : 4 ≤ since s t) :
    exec (.replyTimeout k) s = .next (grant (boardSettle s k (missedReply k f (quietLink k s)))) := by
  change execReplyTimeout k s = _
  simp only [execReplyTimeout, hw, if_pos h4, answer_eq]

theorem quietLink_work (k : Fin 8) (s : State) : BoardWork s [] (quietLink k s) := (BoardWork.refl s).setLink k _

theorem quietLink_link (k : Fin 8) (s : State) : (quietLink k s).links[k] = { s.links[k] with wire := .quiet } :=
  setLink_self k _ s

theorem quietLink_other {j : Fin 8} (hj : j ≠ k) : (quietLink k s).links[j] = s.links[j] := setLink_other hj _ s

/-- What has been put into a position of a link whose reply wait has ended. -/
theorem putReply_work (k : Fin 8) (p : Fin 16) (q : Position) (s : State) :
    BoardWork s [] (setLink k ((quietLink k s).links[k].setPosition p q) (quietLink k s)) :=
  (quietLink_work k s).setLink k _

theorem putReply_link (k : Fin 8) (p : Fin 16) (q : Position) (s : State) :
    (setLink k ((quietLink k s).links[k].setPosition p q) (quietLink k s)).links[k] =
      { s.links[k] with wire := .quiet, positions := s.links[k].positions.set p q } := by
  rw [setLink_self, quietLink_link]
  rfl

theorem putReply_other {j : Fin 8} (hj : j ≠ k) (p : Fin 16) (q : Position) :
    (setLink k ((quietLink k s).links[k].setPosition p q) (quietLink k s)).links[j] = s.links[j] := by
  rw [setLink_other hj, quietLink_other hj]

end

/-! ### Good replies (R107, R109, R112, R115) -/

theorem acknowledge_eq (q : Position) (f : LinkFrame) :
    q.acknowledge f =
      { q with shownImage := (q.acknowledge f).shownImage, shownSetting := (q.acknowledge f).shownSetting } := by
  cases f with
  | poll c => rfl
  | set c w => rfl
  | cells c first gs =>
    unfold Position.acknowledge
    dsimp only
    split
    · rfl
    · split <;> rfl

/-- A position from which a good reply with status OK has come. -/
def Position.heardOk (q : Position) (targeted : Bool) : Position :=
  match q.state with
  | .unknown => { q with state := if targeted then .active else .idle }
  | .absent => { q.forget with state := .idle }
  | _ => q

section
variable {k : Fin 8} {f : LinkFrame} {s : State}

theorem goodReply_ok : goodReply k f false s =
    setLink k
      (s.links[k].setPosition f.pos
        (({ s.links[k].positions[f.pos] with missed := 0 }.acknowledge f).heardOk (s.links[k].targeted f.pos))) s := by
  unfold goodReply Position.heardOk
  dsimp only
  generalize Position.acknowledge { s.links[k].positions[f.pos] with missed := 0 } f = q
  obtain ⟨kind, state, trips, missed, image, setting, last, disabled⟩ := q
  cases state <;> rfl

/-- The counts of an event on a link whose reply wait has ended, but for what it does to the position. -/
theorem putReply_event (k : Fin 8) (p : Fin 16) (q : Position) (s : State) :
    ∃ t, grant (boardSettle s k (setLink k ((quietLink k s).links[k].setPosition p q) (quietLink k s))) = t ∧
      BoardEvent s [] (setLink k ((quietLink k s).links[k].setPosition p q) (quietLink k s)) t ∧
      (∀ j : Fin 8, j ≠ k → SameLink s.links[j] t.links[j]) ∧
      SameLink { s.links[k] with wire := .quiet, positions := s.links[k].positions.set p q } t.links[k] := by
  have h := (putReply_work k p q s).event k
  refine ⟨_, rfl, h, fun j hj => h.other (putReply_other hj p q), ?_⟩
  have hk := h.boards k
  rwa [putReply_link] at hk

/-! ### A position becomes ABSENT (R114) -/

theorem enterAbsent_work {u : State} {fs : List Posting} (h : BoardWork s fs u) (k : Fin 8) (p : Fin 16) :
    let absent := u.links[k].setPosition p { u.links[k].positions[p] with state := .absent, missed := 0 }
    BoardWork s
      (fs ++ [(.moduleAbsent, .physicalPosition (physical k p),
          [u.links[k].positions[p].state.code, moduleDetail k (u.links[k].targetedBy p),
            u.links[k].positions[p].trips])] ++ spareFaults k p absent)
      (enterAbsent k p u) ∧
    RemapsAway p absent (enterAbsent k p u).links[k] ∧
    ∀ j : Fin 8, j ≠ k → (enterAbsent k p u).links[j] = u.links[j] := by
  intro absent
  have hposted := (h.setLink k absent).fault .moduleAbsent (.physicalPosition (physical k p))
    [u.links[k].positions[p].state.code, moduleDetail k (u.links[k].targetedBy p), u.links[k].positions[p].trips]
  have hlinks := postFault_links .moduleAbsent (.physicalPosition (physical k p))
    [u.links[k].positions[p].state.code, moduleDetail k (u.links[k].targetedBy p), u.links[k].positions[p].trips]
    (setLink k absent u)
  have heq : enterAbsent k p u = autoRemap k p (postFault .moduleAbsent (.physicalPosition (physical k p))
    [u.links[k].positions[p].state.code, moduleDetail k (u.links[k].targetedBy p), u.links[k].positions[p].trips]
    (setLink k absent u)) := rfl
  generalize postFault .moduleAbsent (.physicalPosition (physical k p))
    [u.links[k].positions[p].state.code, moduleDetail k (u.links[k].targetedBy p), u.links[k].positions[p].trips]
    (setLink k absent u) = v at hposted hlinks heq
  have hk : v.links[k] = absent := by
    rw [hlinks]
    exact setLink_self k absent u
  rw [heq]
  refine ⟨?_, ?_, fun j hj => ?_⟩
  · rw [← hk]
    exact autoRemap_work hposted
  · rw [autoRemap_links, if_pos rfl, hk]
    exact remapped_away absent p
  · rw [autoRemap_links, if_neg (Ne.symm hj), hlinks]
    exact setLink_other hj absent u

end

/-- A reply wait ends with no good reply: the bytes were not one, or the 4 ms have passed. -/
theorem exec_missed {k : Fin 8} {f : LinkFrame} {t : Time} {s : State} {b0 b1 b2 : Byte} {c : Instr}
    (hw : s.links[k].wire = .awaiting f t)
    (hc : (c = .reply k b0 b1 b2 ∧ replyGood s f t b0 b1 b2 = false) ∨ (c = .replyTimeout k ∧ 4 ≤ since s t)) :
    exec c s = .next (grant (boardSettle s k (missedReply k f (quietLink k s)))) := by
  rcases hc with ⟨rfl, hbad⟩ | ⟨rfl, h4⟩
  · rw [exec_reply_awaited hw, hbad]
    rfl
  · exact exec_replyTimeout hw h4

/-- The third miss, settled: the position is ABSENT, its module is remapped, and the faults are posted in order. -/
theorem absent_event (k : Fin 8) (p : Fin 16) (q : Position) (s : State) (hq : q.kind = s.links[k].positions[p].kind) :
    let absent : Link :=
      { s.links[k] with
        wire := .quiet
        positions := s.links[k].positions.set p { q with state := .absent, missed := 0 } }
    let u := enterAbsent k p (setLink k ((quietLink k s).links[k].setPosition p q) (quietLink k s))
    ∃ t, grant (boardSettle s k u) = t ∧
      (FloorOnly s t ∧ t.drive = { s.drive with log := t.drive.log } ∧ t.handed = s.handed ∧
        ∀ j : Fin 8, j ≠ k → SameLink s.links[j] t.links[j]) ∧
      RemapsAway p absent t.links[k] ∧
      (s.LogRoom → t.Queued (s.faultEntry .moduleAbsent (.physicalPosition (physical k p))
        [q.state.code, moduleDetail k (s.links[k].targetedBy p), q.trips])) ∧
      ∀ m, absent.targetedBy p = some m → absent.idleSpare = none → s.LogRoom → s.slotTaken.LogRoom →
        t.Queued (s.slotTaken.faultEntry .noSpare (.logicalModule (physical k m)) [physical k p, 4]) := by
  intro absent u
  obtain ⟨hwork, haway, hothers⟩ := enterAbsent_work (putReply_work k p q s) k p
  have hput := putReply_link k p q s
  have hpos : ({ s.links[k] with wire := .quiet, positions := s.links[k].positions.set p q } : Link).positions[p] = q :=
    setPosition_self s.links[k] p q
  have hby : ({ s.links[k] with wire := .quiet, positions := s.links[k].positions.set p q } : Link).targetedBy p =
      s.links[k].targetedBy p := targetedBy_setPosition hq p
  rw [hput, hpos] at hwork haway
  rw [hby] at hwork
  have habsent : Link.setPosition
      { s.links[k] with wire := .quiet, positions := s.links[k].positions.set p q } p
      { q with state := .absent, missed := 0 } = absent := by
    simp only [Link.setPosition, Vector.set_set, absent]
  rw [habsent] at hwork haway
  have hothers' : ∀ j : Fin 8, j ≠ k → u.links[j] = s.links[j] :=
    fun j hj => (hothers j hj).trans (putReply_other hj p q)
  have haway' : RemapsAway p absent u.links[k] := haway
  have hwork' : BoardWork s ((.moduleAbsent, .physicalPosition (physical k p),
    [q.state.code, moduleDetail k (s.links[k].targetedBy p), q.trips]) :: spareFaults k p absent) u := hwork
  clear_value u
  have hev := hwork'.event k
  refine ⟨_, rfl, ?_⟩
  generalize grant (boardSettle s k u) = t at hev
  have hfirst := hev.ledger
  refine ⟨⟨hev.floor, hev.drive, hev.handed, fun j hj => hev.other (hothers' j hj)⟩, haway'.same (hev.boards k),
    fun hroom => hfirst.first hroom, fun m hm hspare hroom hroom' => ?_⟩
  · have hcode : absent.positions[p].state = .absent := by
      rw [← habsent, setPosition_self]
    rw [spareFaults_some hm hspare, hcode] at hfirst
    exact hfirst.second hroom hroom'

/-- Settles O39: the position that a reply or its absence changes, and the automatic remap of the third miss. -/
theorem repliesCounted : Obligations.RepliesCounted := by
  refine ⟨fun k b0 b1 b2 s => ⟨exec_reply_unawaited b0 b1 b2, fun f t hw => ⟨fun hgood hok => ?_, ?_⟩⟩, fun l =>
    ⟨idleSpare_eq_some l, idleSpare_eq_none l, targeted_iff l, served_iff, fun k m => ⟨rfl, rfl⟩⟩⟩
  · have hb : (b1 == 1) = false := by rw [hok]; rfl
    rw [exec_reply_awaited hw, hgood, hb, if_pos rfl, goodReply_ok]
    obtain ⟨u, hu, hev, hothers, hlink⟩ := putReply_event k f.pos
      (({ (quietLink k s).links[k].positions[f.pos] with missed := 0 }.acknowledge f).heardOk
        ((quietLink k s).links[k].targeted f.pos)) s
    refine ⟨u, by rw [hu], ⟨hev.floor, hev.drive, hev.handed, hothers⟩, ?_⟩
    rw [quietLink_link] at hlink
    have hstate : (Position.acknowledge { s.links[k].positions[f.pos] with missed := 0 } f).state =
        s.links[k].positions[f.pos].state := by rw [acknowledge_eq]
    dsimp only [Position.heardOk] at hlink
    rw [hstate] at hlink
    cases hq : s.links[k].positions[f.pos].state with
    | _ =>
      rw [hq] at hlink
      exact hlink
  · intro c hc
    rw [exec_missed hw hc]
    intro q'
    have hmiss : q' = s.links[k].positions[f.pos].afterMiss f := by cases f <;> rfl
    clear_value q'
    subst hmiss
    refine ⟨fun hfew => ?_, fun hserved hthree => ?_⟩
    · rw [missedReply_counted (by rw [quietLink_link]; exact hfew)]
      obtain ⟨u, hu, hev, hothers, hlink⟩ := putReply_event k f.pos
        { (quietLink k s).links[k].positions[f.pos].afterMiss f with
          missed :=
            if (quietLink k s).links[k].positions[f.pos].served then
              (quietLink k s).links[k].positions[f.pos].missed + 1
            else 0 } s
      refine ⟨u, by rw [hu], ⟨hev.floor, hev.drive, hev.handed, hothers⟩, ?_⟩
      rw [quietLink_link] at hlink
      exact hlink
    · rw [missedReply_absent (by rw [quietLink_link]; exact hserved) (by rw [quietLink_link]; exact hthree)]
      obtain ⟨u, hu, hfloor, haway, hfirst, hsecond⟩ := absent_event k f.pos
        { (quietLink k s).links[k].positions[f.pos].afterMiss f with
          missed := (quietLink k s).links[k].positions[f.pos].missed + 1 } s
        (by rw [quietLink_link]; simp [-Fin.getElem_fin])
      rw [quietLink_link] at haway hfirst hsecond
      refine ⟨u, by rw [hu], hfloor, haway, fun hroom => ?_, hsecond⟩
      have hq := hfirst hroom
      simp only [afterMiss_state, afterMiss_trips] at hq
      exact hq

end Sys2Proof.Machine
end


section
/-! Trips: the count, the trip-disable flags by the link's policy, and what follows the third (R113, R127, R128). -/

namespace Sys2Proof.Machine

open Sys2Proof

/-! ### Trip-disable flags (R128) -/

theorem disableAll_position (l : Link) (p : Fin 16) :
    l.disableAll.positions[p] =
      { l.positions[p] with tripDisabled := l.positions[p].tripDisabled || l.positions[p].kind != .notFitted } := by
  unfold Link.disableAll
  simp only [Fin.getElem_fin, Vector.getElem_ofFn]
  generalize l.positions[p.val] = q
  obtain ⟨kind, state, trips, missed, image, setting, last, disabled⟩ := q
  cases kind with
  | notFitted => exact congrArg (Position.mk _ _ _ _ _ _ _) (Bool.or_false disabled).symm
  | _ => exact congrArg (Position.mk _ _ _ _ _ _ _) (Bool.or_true disabled).symm

/-- The trip-disable flags of the link on which a position has tripped. -/
def Link.tripDisable (l : Link) (p : Fin 16) : Link :=
  if l.policy = .moduleOnly then l.setPosition p { l.positions[p] with tripDisabled := true } else l.disableAll

section
variable {s u : State} {fs : List Posting} {k : Fin 8} {p : Fin 16}

theorem disableByPolicy_work (h : BoardWork s fs u) : BoardWork s fs (disableByPolicy k p u) := by
  unfold disableByPolicy
  cases u.links[k].policy with
  | moduleOnly => exact h.setLink k _
  | link => exact h.setLink k _
  | board => exact h.links _

theorem disableByPolicy_link : (disableByPolicy k p u).links[k] = u.links[k].tripDisable p := by
  unfold Link.tripDisable
  fun_cases disableByPolicy k p u with
  | case1 h => rw [h, if_pos rfl, setLink_self]
  | case2 h => rw [h, if_neg (by decide), setLink_self]
  | case3 h => rw [h]; simp

theorem disableByPolicy_other {j : Fin 8} (hj : j ≠ k) :
    (disableByPolicy k p u).links[j] =
      if u.links[k].policy = .board then u.links[j].disableAll else u.links[j] := by
  fun_cases disableByPolicy k p u with
  | case1 h => rw [h, if_neg (by decide), setLink_other hj]
  | case2 h => rw [h, if_neg (by decide), setLink_other hj]
  | case3 h => rw [h]; simp

end

/-! ### A new trip (R113, R127) -/

/-- The number of trips of a position after a new one. -/
def Position.newCount (q : Position) : Nat := min 3 (q.trips + 1)

/-- The fault that a new trip posts. -/
def tripFault (k : Fin 8) (p : Fin 16) (left : ModuleState) (l : Link) : Posting :=
  (if l.positions[p].newCount = 3 then .moduleFailed else .moduleTrip, .physicalPosition (physical k p),
    [l.positions[p].newCount, l.policy.code, left.code, moduleDetail k (l.targetedBy p)])

/-- A link on which a position has tripped, before its flags are set: the position with its count and its state. -/
def Link.tripped (l : Link) (p : Fin 16) : Link :=
  l.setPosition p
    { l.positions[p] with
      trips := l.positions[p].newCount
      state := if l.positions[p].newCount = 3 then .failed else .tripped
      tripDisabled := true }

theorem disableAll_rest (l : Link) : l.disableAll = { l with positions := l.disableAll.positions } := rfl

theorem setPosition_rest (l : Link) (p : Fin 16) (q : Position) :
    l.setPosition p q = { l with positions := (l.setPosition p q).positions } := rfl

/-- Two links that differ from a third in their positions alone are the same where those are. -/
theorem Link.ext_positions {l a b : Link} (ha : a = { l with positions := a.positions })
    (hb : b = { l with positions := b.positions }) (h : ∀ p : Fin 16, a.positions[p] = b.positions[p]) : a = b := by
  have hpos : a.positions = b.positions := Vector.ext fun i hi => h ⟨i, hi⟩
  rw [ha, hb, hpos]

/-- The flags of the tripped link, whether they are set before the state of the position or after it. -/
theorem tripDisable_counted {l : Link} {p : Fin 16} (hfit : l.positions[p].kind ≠ .notFitted) (state : ModuleState)
    (trips : Nat) :
    ((l.setPosition p { l.positions[p] with trips := trips }).tripDisable p).setPosition p
        { ((l.setPosition p { l.positions[p] with trips := trips }).tripDisable p).positions[p] with state := state } =
      let one := l.setPosition p { l.positions[p] with trips := trips, state := state, tripDisabled := true }
      if l.policy = .moduleOnly then one else one.disableAll := by
  unfold Link.tripDisable
  have hpolicy : (l.setPosition p { l.positions[p] with trips := trips }).policy = l.policy := rfl
  rw [hpolicy]
  by_cases hmod : l.policy = .moduleOnly
  · simp only [if_pos hmod, setPosition_self, setPosition_twice]
  · simp only [if_neg hmod]
    refine Link.ext_positions (l := l) ?_ ?_ fun r => ?_
    · rw [setPosition_rest, disableAll_rest, setPosition_rest]
    · rw [disableAll_rest, setPosition_rest]
    rw [setPosition_getElem, disableAll_position, disableAll_position, disableAll_position, setPosition_getElem, setPosition_getElem,
      setPosition_getElem]
    by_cases hr : p = r
    · subst hr
      have hne : (l.positions[p].kind != .notFitted) = true := by simpa [-Fin.getElem_fin] using hfit
      simp only [if_true, hne, Bool.or_true]
    · simp only [if_neg hr]

section
variable {s u : State} {fs : List Posting} {k : Fin 8} {p : Fin 16}

/-- A new trip but for the remap that follows the third. -/
theorem tripTaken_spec (h : BoardWork s fs u) (left : ModuleState)
    (hfit : u.links[k].positions[p].kind ≠ .notFitted) :
    BoardWork s (fs ++ [tripFault k p left u.links[k]]) (tripTaken k p left u) ∧
    (tripTaken k p left u).links[k] =
      (if u.links[k].policy = .moduleOnly then u.links[k].tripped p else (u.links[k].tripped p).disableAll) ∧
    ∀ j : Fin 8, j ≠ k → (tripTaken k p left u).links[j] =
      if u.links[k].policy = .board then u.links[j].disableAll else u.links[j] := by
  have hcounted := (h.setLink k (u.links[k].setPosition p
    { u.links[k].positions[p] with trips := u.links[k].positions[p].newCount })).posts
    (postChanged_onlyPosts u [.moduleWord k p] _)
  have hlinks : (postChanged u [.moduleWord k p] (setLink k (u.links[k].setPosition p
    { u.links[k].positions[p] with trips := u.links[k].positions[p].newCount }) u)).links =
      (setLink k (u.links[k].setPosition p
        { u.links[k].positions[p] with trips := u.links[k].positions[p].newCount }) u).links := by
    rw [(postChanged_onlyPosts u [.moduleWord k p] _).eq]
  have heq : tripTaken k p left u =
      (fun d : State => setLink k (d.links[k].setPosition p
          { d.links[k].positions[p] with
            state := if u.links[k].positions[p].newCount = 3 then .failed else .tripped }) d)
        (disableByPolicy k p
          (postFault (tripFault k p left u.links[k]).1 (tripFault k p left u.links[k]).2.1
            (tripFault k p left u.links[k]).2.2
            (postChanged u [.moduleWord k p] (setLink k (u.links[k].setPosition p
              { u.links[k].positions[p] with trips := u.links[k].positions[p].newCount }) u)))) := rfl
  rw [heq]
  generalize postChanged u [.moduleWord k p] (setLink k (u.links[k].setPosition p
    { u.links[k].positions[p] with trips := u.links[k].positions[p].newCount }) u) = c at hcounted hlinks
  have hfault := hcounted.fault (tripFault k p left u.links[k]).1 (tripFault k p left u.links[k]).2.1
    (tripFault k p left u.links[k]).2.2
  have hflinks := postFault_links (tripFault k p left u.links[k]).1 (tripFault k p left u.links[k]).2.1
    (tripFault k p left u.links[k]).2.2 c
  generalize postFault (tripFault k p left u.links[k]).1 (tripFault k p left u.links[k]).2.1
    (tripFault k p left u.links[k]).2.2 c = v at hfault hflinks
  rw [hlinks] at hflinks
  have hk : v.links[k] = u.links[k].setPosition p
      { u.links[k].positions[p] with trips := u.links[k].positions[p].newCount } := by
    rw [hflinks]
    exact setLink_self k _ u
  have hj (j : Fin 8) (hj : j ≠ k) : v.links[j] = u.links[j] := by
    rw [hflinks]
    exact setLink_other hj _ u
  refine ⟨(disableByPolicy_work hfault).setLink k _, ?_, fun j hne => ?_⟩
  · rw [setLink_self, disableByPolicy_link, hk]
    exact tripDisable_counted hfit _ _
  · rw [setLink_other hne, disableByPolicy_other hne, hk, hj j hne]
    rfl

theorem takeTrip_count (left : ModuleState) : takeTrip k p left u =
    if u.links[k].positions[p].newCount = 3 then autoRemap k p (tripTaken k p left u) else tripTaken k p left u :=
  takeTrip_eq k p left u

/-- A new trip: its fault, and at the third the automatic remap. -/
theorem takeTrip_spec (h : BoardWork s fs u) (left : ModuleState)
    (hfit : u.links[k].positions[p].kind ≠ .notFitted) :
    let base := if u.links[k].policy = .moduleOnly then u.links[k].tripped p else (u.links[k].tripped p).disableAll
    (u.links[k].positions[p].newCount ≠ 3 →
      BoardWork s (fs ++ [tripFault k p left u.links[k]]) (takeTrip k p left u) ∧
        (takeTrip k p left u).links[k] = base) ∧
    (u.links[k].positions[p].newCount = 3 →
      BoardWork s (fs ++ [tripFault k p left u.links[k]] ++ spareFaults k p base) (takeTrip k p left u) ∧
        RemapsAway p base (takeTrip k p left u).links[k]) ∧
    ∀ j : Fin 8, j ≠ k → (takeTrip k p left u).links[j] =
      if u.links[k].policy = .board then u.links[j].disableAll else u.links[j] := by
  intro base
  obtain ⟨hwork, hlink, hothers⟩ := tripTaken_spec h left hfit
  refine ⟨fun hfew => ?_, fun hthree => ?_, fun j hj => ?_⟩
  · rw [takeTrip_count, if_neg hfew]
    exact ⟨hwork, hlink⟩
  · rw [takeTrip_count, if_pos hthree]
    have haway := autoRemap_work (k := k) (x := p) hwork
    rw [hlink] at haway
    refine ⟨haway, ?_⟩
    rw [autoRemap_links, if_pos rfl, hlink]
    exact remapped_away base p
  · rw [takeTrip_eq, ← hothers j hj]
    split
    · rw [autoRemap_links, if_neg (Ne.symm hj)]
    · rfl

end

/-! ### A reply with status TRIP -/

section
variable {k : Fin 8} {f : LinkFrame} {s : State}

/-- A position as its trip finds it: an ABSENT one has come back with its shown values unknown (R115). -/
def Position.back (q : Position) : Position :=
  if q.state = .absent then { q.forget with state := .idle } else q

theorem goodReply_old {q : Position} (hq : q = { s.links[k].positions[f.pos] with missed := 0 }.acknowledge f)
    (h : q.state = .tripped ∨ q.state = .failed) :
    goodReply k f true s = setLink k (s.links[k].setPosition f.pos q) s := by
  unfold goodReply
  dsimp only
  rw [← hq]
  obtain ⟨kind, state, trips, missed, image, setting, last, disabled⟩ := q
  rcases h with h | h
  · obtain rfl : state = .tripped := h
    rfl
  · obtain rfl : state = .failed := h
    rfl

theorem goodReply_trip {q : Position} (hq : q = { s.links[k].positions[f.pos] with missed := 0 }.acknowledge f)
    (ht : q.state ≠ .tripped) (hf : q.state ≠ .failed) :
    goodReply k f true s = takeTrip k f.pos q.state (setLink k (s.links[k].setPosition f.pos q.back) s) := by
  unfold goodReply
  dsimp only
  rw [← hq]
  obtain ⟨kind, state, trips, missed, image, setting, last, disabled⟩ := q
  cases state with
  | tripped => exact absurd rfl ht
  | failed => exact absurd rfl hf
  | _ => rfl

end

theorem acknowledge_kind (q : Position) (f : LinkFrame) : (q.acknowledge f).kind = q.kind := by rw [acknowledge_eq]

theorem acknowledge_state (q : Position) (f : LinkFrame) : (q.acknowledge f).state = q.state := by rw [acknowledge_eq]

theorem acknowledge_trips (q : Position) (f : LinkFrame) : (q.acknowledge f).trips = q.trips := by rw [acknowledge_eq]

theorem disableAll_kind (l : Link) (p : Fin 16) : l.disableAll.positions[p].kind = l.positions[p].kind := by
  rw [disableAll_position]

theorem disableAll_state (l : Link) (p : Fin 16) : l.disableAll.positions[p].state = l.positions[p].state := by
  rw [disableAll_position]

/-- A new trip, settled: the count, the flags, the faults in order, and at the third the remap. -/
theorem trip_event (k : Fin 8) (p : Fin 16) (q : Position) (left : ModuleState) (s : State)
    (hkind : q.kind = s.links[k].positions[p].kind) (hfit : q.kind ≠ .notFitted) :
    let one : Link :=
      { s.links[k] with
        wire := .quiet
        positions := s.links[k].positions.set p
          { q with
            trips := q.newCount
            state := if q.newCount = 3 then .failed else .tripped
            tripDisabled := true } }
    let base : Link := if s.links[k].policy = .moduleOnly then one else one.disableAll
    ∃ t, grant (boardSettle s k
        (takeTrip k p left (setLink k ((quietLink k s).links[k].setPosition p q) (quietLink k s)))) = t ∧
      (FloorOnly s t ∧ t.drive = { s.drive with log := t.drive.log } ∧ t.handed = s.handed) ∧
      (∀ j : Fin 8, j ≠ k →
        SameLink (if s.links[k].policy = .board then s.links[j].disableAll else s.links[j]) t.links[j]) ∧
      (q.newCount ≠ 3 → SameLink base t.links[k]) ∧ (q.newCount = 3 → RemapsAway p base t.links[k]) ∧
      (s.LogRoom → t.Queued (s.faultEntry (if q.newCount = 3 then .moduleFailed else .moduleTrip)
        (.physicalPosition (physical k p))
        [q.newCount, s.links[k].policy.code, left.code, moduleDetail k (s.links[k].targetedBy p)])) ∧
      ∀ m, q.newCount = 3 → base.targetedBy p = some m → base.idleSpare = none → s.LogRoom →
        s.slotTaken.LogRoom →
        t.Queued (s.slotTaken.faultEntry .noSpare (.logicalModule (physical k m)) [physical k p, 5]) := by
  intro one base
  have hput := putReply_link k p q s
  have hothers (j : Fin 8) (hj : j ≠ k) := putReply_other (s := s) hj p q
  have hwork := putReply_work k p q s
  generalize setLink k ((quietLink k s).links[k].setPosition p q) (quietLink k s) = u at hput hothers hwork
  have hpos : u.links[k].positions[p] = q := by
    rw [hput]
    exact setPosition_self s.links[k] p q
  have hpolicy : u.links[k].policy = s.links[k].policy := by rw [hput]
  have htripped : u.links[k].tripped p = one := by
    unfold Link.tripped
    rw [hpos, hput]
    simp only [Link.setPosition, Vector.set_set, one]
  have hby : u.links[k].targetedBy p = s.links[k].targetedBy p := by
    rw [hput]
    exact targetedBy_setPosition hkind p
  have hfault : tripFault k p left u.links[k] =
      (if q.newCount = 3 then .moduleFailed else .moduleTrip, .physicalPosition (physical k p),
        [q.newCount, s.links[k].policy.code, left.code, moduleDetail k (s.links[k].targetedBy p)]) := by
    unfold tripFault
    rw [hpos, hpolicy, hby]
  obtain ⟨hfew, hthree, hlinks⟩ := takeTrip_spec (p := p) hwork left (by rw [hpos]; exact hfit)
  rw [hpos, hfault, hpolicy, htripped] at hfew hthree
  rw [hpolicy] at hlinks
  generalize takeTrip k p left u = v at hfew hthree hlinks
  have hboards {fs : List Posting} {t : State} (hev : BoardEvent s fs v t) (j : Fin 8) (hj : j ≠ k) :
      SameLink (if s.links[k].policy = .board then s.links[j].disableAll else s.links[j]) t.links[j] := by
    have hsame := hev.boards j
    rwa [hlinks j hj, hothers j hj] at hsame
  have hcode : base.positions[p].state = if q.newCount = 3 then .failed else .tripped := by
    have hone : one.positions[p].state = if q.newCount = 3 then .failed else .tripped :=
      congrArg Position.state (setPosition_self s.links[k] p _)
    simp only [base]
    split
    · exact hone
    · rw [disableAll_state]
      exact hone
  by_cases hcount : q.newCount = 3
  · obtain ⟨hwork, haway⟩ := hthree hcount
    have hev := hwork.event k
    refine ⟨_, rfl, ?_⟩
    generalize grant (boardSettle s k v) = t at hev
    refine ⟨⟨hev.floor, hev.drive, hev.handed⟩, hboards hev, fun h => absurd hcount h, fun _ => haway.same (hev.boards k),
      fun hroom => hev.ledger.first hroom, fun m _ hm hspare hroom hroom' => ?_⟩
    have hsecond := hev.ledger
    rw [if_pos hcount] at hcode
    rw [spareFaults_some hm hspare, hcode] at hsecond
    exact hsecond.second hroom hroom'
  · obtain ⟨hwork, hlink⟩ := hfew hcount
    have hev := hwork.event k
    refine ⟨_, rfl, ?_⟩
    generalize grant (boardSettle s k v) = t at hev
    have hk := hev.boards k
    rw [hlink] at hk
    exact ⟨⟨hev.floor, hev.drive, hev.handed⟩, hboards hev, fun _ => hk, fun h => absurd h hcount,
      fun hroom => hev.ledger.first hroom, fun m h => absurd h hcount⟩

/-- Settles O40: the trip that a reply reports, by the state in which it finds the position. -/
theorem tripsCounted : Obligations.TripsCounted := by
  refine ⟨?_, fun l => ⟨disableAll_rest l, disableAll_position l⟩⟩
  intro k b0 b1 b2 f t s l p q hw hgood htrip hfit heard count after one base floor
  have hb : (b1 == 1) = true := by rw [htrip]; rfl
  rw [exec_reply_awaited hw, hgood, hb, if_pos rfl]
  have hheard : heard = { (quietLink k s).links[k].positions[f.pos] with missed := 0 }.acknowledge f := by
    rw [quietLink_link]
  have hstate : heard.state = q.state := acknowledge_state _ f
  have hkind : heard.kind = q.kind := acknowledge_kind _ f
  have htrips : heard.trips = q.trips := acknowledge_trips _ f
  refine ⟨fun hold => ?_, fun hnt hnf => ?_⟩
  · rw [goodReply_old hheard (by rw [hstate]; exact hold)]
    obtain ⟨u, hu, hev, hothers, hlink⟩ := putReply_event k p heard s
    exact ⟨u, by rw [hu], ⟨hev.floor, hev.drive, hev.handed⟩, hothers, hlink⟩
  · rw [goodReply_trip hheard (by rw [hstate]; exact hnt) (by rw [hstate]; exact hnf), hstate]
    have hbkind : heard.back.kind = q.kind := by
      unfold Position.back
      split <;> exact hkind
    have hcount : heard.back.newCount = count := by
      unfold Position.back Position.newCount
      split <;> exact congrArg (fun n => min 3 (n + 1)) htrips
    have hafter : ({ heard.back with
        trips := count
        state := if count = 3 then .failed else .tripped
        tripDisabled := true } : Position) = { after with tripDisabled := true } := by
      simp only [after, Position.back, hstate]
      split <;> rfl
    obtain ⟨u, hu, hfloor, hothers, hfew, hthree, hfirst, hsecond⟩ := trip_event k p heard.back q.state s hbkind
      (by rw [hbkind]; exact hfit)
    rw [hcount, hafter] at hfew hthree hsecond
    rw [hcount] at hfirst
    refine ⟨u, by rw [hu], hfloor, hothers, fun hlt => hfew (by omega), hthree, hfirst, hsecond⟩

end Sys2Proof.Machine
end


section
/-! Commands of the floor that end in one event, REARM and the HOT check (R118, R119, R129 to R131). -/

namespace Sys2Proof.Machine

open Sys2Proof

section
variable {s t u v y : State}

/-! ### Steps of the floor -/

theorem FloorStep.begun (w : Word) (s : State) : FloorStep s (s.begun w) := ⟨rfl, .refl _, rfl⟩

theorem Taken.floorStep {w : Word} (h : Taken w s u) : FloorStep s u := (FloorStep.begun w s).posts h.posts

theorem FloorStep.setLink (h : FloorStep s u) (k : Fin 8) (l : Link) : FloorStep s (setLink k l u) :=
  h.trans ⟨rfl, .refl _, rfl⟩

/-- A change of the Drive Protection Unit that leaves its log. -/
theorem FloorStep.setDrive (h : FloorStep s u) (d : DriveUnit) (hd : d.log = u.drive.log) :
    FloorStep s (setDrive d u) :=
  h.trans ⟨rfl, .refl _, hd⟩

theorem FloorStep.logged (h : FloorStep s u) (hp : OnlyPosts (setLog v.ctl.log u) v) : FloorStep s v :=
  (h.trans (u := setLog v.ctl.log u) ⟨rfl, .refl _, rfl⟩).posts hp

theorem FloorStep.fault (h : FloorStep s u) (kind : FaultKind) (subj : Subject) (d : List Nat) :
    FloorStep s (postFault kind subj d u) :=
  h.logged (postFault_onlyPosts kind subj d u)

theorem FloorStep.endCommand (h : FloorStep s u) (code : Option ResultCode) (d : Nat) :
    FloorStep s (Machine.endCommand code d u) :=
  (h.trans (u := u.runEnded code d) ⟨rfl, .refl _, rfl⟩).posts (endCommand_onlyPosts code d u).1

/-! ### A command ends with the floor settled -/

/-- `t` is `s` after an event of the floor that has led to `y` and has ended the running command DONE. -/
structure DoneEvent (s y t : State) : Prop where
  floor : FloorOnly s t
  handed : t.handed = y.handed
  command : t.ctl.command = { y.ctl.command with state := .done, result := none, detail := 0 }
  cause : t.ctl.alert.commandCause = true
  drive : t.drive = { y.drive with log := t.drive.log }
  boards : SameBoards y t
  posted : t.Posted .commandStatus

theorem FloorStep.done (h : FloorStep s y) (hv : OnlyPosts (endDone y) v) (hposted : v.Posted .commandStatus)
    (old : State) : DoneEvent s y (grant (chooseAll (driveSettle old v))) := by
  obtain ⟨hend, -⟩ := endCommand_onlyPosts none 0 y
  have hstep : FloorStep s (endDone y) := h.endCommand none 0
  have hset := settled hv old
  have hfloor := hstep.settle hv old
  have hpost := posted_settled (old := old) hposted (by decide)
  have heq : endDone y = withPosts (y.runEnded none 0) (endDone y).mem.parts (endDone y).ctl.writeBack :=
    hend.eq_withPosts
  have hcommand : (endDone y).ctl.command = { y.ctl.command with state := .done, result := none, detail := 0 } := by
    rw [heq]
    rfl
  have hcause : (endDone y).ctl.alert.commandCause = true := by rw [heq]; rfl
  have hdrive : (endDone y).drive = y.drive := by rw [heq]; rfl
  have hlinks : (endDone y).links = y.links := by rw [heq]; rfl
  have hhanded : (endDone y).handed = y.handed := by rw [heq]; rfl
  generalize grant (chooseAll (driveSettle old v)) = t at hset hfloor hpost
  refine ⟨hfloor, hset.handed.trans hhanded, hset.command.trans hcommand, ?_, ?_, fun k => ?_, hpost⟩
  · rw [hset.alert]
    exact hcause
  · have hd := hset.drive
    rw [hdrive] at hd
    exact hd
  · have hk := hset.boards k
    rw [hlinks] at hk
    exact hk

theorem endDone_posted (y : State) : (endDone y).Posted .commandStatus := (endCommand_onlyPosts none 0 y).2

/-! ### REMAP and RESTORE (R118, R119) -/

theorem DoneEvent.taken {w : Word} (h : DoneEvent s y t) (hu : Taken w s u) (hy : y.ctl.command = u.ctl.command)
    (hh : y.handed = u.handed) :
    t.handed = s.handed.drop 1 ∧ t.ctl.command = ⟨.done, commandCode w, commandSeq w, none, 0, s.ctl.latches⟩ := by
  have hcommand : u.ctl.command = (s.begun w).ctl.command := by rw [hu.posts.eq]
  have hhanded : u.handed = (s.begun w).handed := by rw [hu.posts.eq]
  rw [h.handed, hh, hhanded, h.command, hy, hcommand]
  exact ⟨rfl, rfl⟩

theorem moveByCommand_event {w : Word} (hu : Taken w s u) (k : Fin 8) (m p : Fin 16) :
    ∃ t, grant (moveByCommand k m p u) = t ∧ FloorOnly s t ∧ t.drive = { s.drive with log := t.drive.log } ∧
      t.handed = s.handed.drop 1 ∧
      t.ctl.command = ⟨.done, commandCode w, commandSeq w, none, 0, s.ctl.latches⟩ ∧
      t.ctl.alert.commandCause = true ∧ t.Posted .commandStatus ∧ Moved m (some p) s.links[k] t.links[k] ∧
      ∀ j : Fin 8, j ≠ k → SameLink s.links[j] t.links[j] := by
  have hlinks : u.links = s.links := by rw [hu.posts.eq]; rfl
  have hudrive : u.drive = s.drive := by rw [hu.posts.eq]; rfl
  have hdone := (hu.floorStep.setLink k (u.links[k].move m (some p))).done
    (postChanged_onlyPosts u (linkTable k) _) (posted_postChanged (endDone_posted _) _) u
  have hev := hdone.taken hu rfl rfl
  have heq : moveByCommand k m p u = chooseAll (driveSettle u (postChanged u (linkTable k)
      (endDone (setLink k (u.links[k].move m (some p)) u)))) := rfl
  rw [heq]
  refine ⟨_, rfl, ?_⟩
  generalize grant (chooseAll (driveSettle u (postChanged u (linkTable k)
      (endDone (setLink k (u.links[k].move m (some p)) u))))) = t at hdone hev
  obtain ⟨hhanded, hcommand⟩ := hev
  refine ⟨hdone.floor, ?_, hhanded, hcommand, hdone.cause, hdone.posted, ?_, fun j hj => ?_⟩
  · have hd := hdone.drive
    change t.drive = { u.drive with log := t.drive.log } at hd
    rw [hudrive] at hd
    exact hd
  · have hk := hdone.boards k
    rw [setLink_self, hlinks] at hk
    exact (move_moved s.links[k] m (some p)).same hk
  · have hk := hdone.boards j
    rw [setLink_other hj, hlinks] at hk
    exact hk

theorem logicalModule_some {k : Fin 8} {m : Fin 16} {a : Nat} (ha : a = 16 * k.val + m.val)
    (hk : s.links[k].positions[m].kind = .home) : s.logicalModule a = some (k, m) := by
  have hlt : a < 128 := by omega
  have hdiv : (⟨a / 16, by omega⟩ : Fin 8) = k := Fin.ext (by simp only; omega)
  have hmod : (⟨a % 16, by omega⟩ : Fin 16) = m := Fin.ext (by simp only; omega)
  unfold State.logicalModule
  rw [dif_pos hlt]
  dsimp only
  simp only [hdiv, hmod, if_pos hk]

theorem logicalModule_none {a : Nat}
    (h : ¬ ∃ (k : Fin 8) (m : Fin 16), a = 16 * k.val + m.val ∧ s.links[k].positions[m].kind = .home) :
    s.logicalModule a = none := by
  unfold State.logicalModule
  split
  · rename_i hlt
    exact if_neg fun hk => h ⟨⟨a / 16, by omega⟩, ⟨a % 16, by omega⟩, by simp only; omega, hk⟩
  · rfl

theorem positionOf_some {j : Fin 8} {p : Fin 16} {b : Nat} (hb : b = 16 * j.val + p.val) :
    positionOf b = some (j, p) := by
  have hlt : b < 128 := by omega
  have hdiv : (⟨b / 16, by omega⟩ : Fin 8) = j := Fin.ext (by simp only; omega)
  have hmod : (⟨b % 16, by omega⟩ : Fin 16) = p := Fin.ext (by simp only; omega)
  unfold positionOf
  rw [dif_pos hlt, hdiv, hmod]

theorem positionOf_none {b : Nat} (hb : 128 ≤ b) : positionOf b = none := dif_neg (by omega)

theorem idleFitted_iff (q : Position) : q.idleFitted = true ↔ q.kind ≠ .notFitted ∧ q.state = .idle := by
  simp [Position.idleFitted]

theorem remapTaken_bad
    (h : 128 ≤ (u.param 1).toNat ∨ ¬ ∃ (k : Fin 8) (m : Fin 16), (u.param 0).toNat = 16 * k.val + m.val ∧
      u.links[k].positions[m].kind = .home) : remapTaken u = endRefused .badParameter 0 u := by
  unfold remapTaken
  rcases h with h | h
  · rw [positionOf_none h]
    cases u.logicalModule (u.param 0).toNat <;> rfl
  · rw [logicalModule_none h]

section
variable {k j : Fin 8} {m p : Fin 16}

theorem remapTaken_notIdle (h0 : (u.param 0).toNat = 16 * k.val + m.val) (hk : u.links[k].positions[m].kind = .home)
    (h1 : (u.param 1).toNat = 16 * j.val + p.val)
    (h : j ≠ k ∨ u.links[k].positions[p].kind = .notFitted ∨ u.links[k].positions[p].state ≠ .idle) :
    remapTaken u = endRefused .notIdle (u.param 1).toNat u := by
  have hnot : ¬ (j = k ∧ u.links[k].positions[p].idleFitted = true) := by
    rw [idleFitted_iff]
    tauto
  unfold remapTaken
  rw [logicalModule_some h0 hk, positionOf_some h1]
  exact if_neg hnot

theorem remapTaken_moves (h0 : (u.param 0).toNat = 16 * k.val + m.val) (hk : u.links[k].positions[m].kind = .home)
    (h1 : (u.param 1).toNat = 16 * k.val + p.val) (hfit : u.links[k].positions[p].kind ≠ .notFitted)
    (hidle : u.links[k].positions[p].state = .idle) : remapTaken u = moveByCommand k m p u := by
  unfold remapTaken
  rw [logicalModule_some h0 hk, positionOf_some h1]
  exact if_pos ⟨rfl, (idleFitted_iff _).mpr ⟨hfit, hidle⟩⟩

theorem restoreTaken_bad
    (h : ¬ ∃ (k : Fin 8) (m : Fin 16), (u.param 0).toNat = 16 * k.val + m.val ∧
      u.links[k].positions[m].kind = .home) : restoreTaken u = endRefused .badParameter 0 u := by
  unfold restoreTaken
  rw [logicalModule_none h]

theorem restoreTaken_known (h0 : (u.param 0).toNat = 16 * k.val + m.val) (hk : u.links[k].positions[m].kind = .home) :
    restoreTaken u =
      if u.links[k].modules[m].target = some m then endDone u
      else if u.links[k].positions[m].idleFitted then moveByCommand k m m u
      else endRefused .homeNotReady (u.param 0).toNat u := by
  unfold restoreTaken
  rw [logicalModule_some h0 hk]

end

/-- REMAP and RESTORE, each by its checks in order. -/
theorem modules_commanded {w : Word} (ho : s.Offered w) (hstate : s.ctl.partState ≠ .unloaded) :
    let a := s.ctl.latches[0].toNat
    let b := s.ctl.latches[1].toNat
    let moved (c : Instr) (code : Nat) (k : Fin 8) (m p : Fin 16) : Prop :=
      ∃ u, exec c s = .next u ∧ FloorOnly s u ∧ u.drive = { s.drive with log := u.drive.log } ∧
        u.handed = s.handed.drop 1 ∧
        u.ctl.command = ⟨.done, code, commandSeq w, none, 0, s.ctl.latches⟩ ∧ u.ctl.alert.commandCause = true ∧
        u.Posted .commandStatus ∧ Moved m (some p) s.links[k] u.links[k] ∧
        ∀ j : Fin 8, j ≠ k → SameLink s.links[j] u.links[j]
    (commandCode w = 5 →
      ((128 ≤ b ∨ ¬ ∃ (k : Fin 8) (m : Fin 16), a = 16 * k.val + m.val ∧ s.links[k].positions[m].kind = .home) →
        AnswersEnded .remap s s w (some .badParameter) 0) ∧
      ∀ (k j : Fin 8) (m p : Fin 16), a = 16 * k.val + m.val → s.links[k].positions[m].kind = .home →
        b = 16 * j.val + p.val →
        (j ≠ k ∨ s.links[k].positions[p].kind = .notFitted ∨ s.links[k].positions[p].state ≠ .idle →
          AnswersEnded .remap s s w (some .notIdle) b) ∧
        (j = k → s.links[k].positions[p].kind ≠ .notFitted → s.links[k].positions[p].state = .idle →
          moved .remap 5 k m p)) ∧
    (commandCode w = 6 →
      ((¬ ∃ (k : Fin 8) (m : Fin 16), a = 16 * k.val + m.val ∧ s.links[k].positions[m].kind = .home) →
        AnswersEnded .restore s s w (some .badParameter) 0) ∧
      ∀ (k : Fin 8) (m : Fin 16), a = 16 * k.val + m.val → s.links[k].positions[m].kind = .home →
        (s.links[k].modules[m].target = some m → AnswersEnded .restore s s w none 0) ∧
        (s.links[k].modules[m].target ≠ some m → s.links[k].positions[m].state ≠ .idle →
          AnswersEnded .restore s s w (some .homeNotReady) a) ∧
        (s.links[k].modules[m].target ≠ some m → s.links[k].positions[m].state = .idle →
          moved .restore 6 k m m)) := by
  intro a b moved
  have hmoved (c : Instr) (u : State) (hu : Taken w s u) (k : Fin 8) (m p : Fin 16)
      (hexec : exec c s = .next (grant (moveByCommand k m p u))) : moved c (commandCode w) k m p := by
    obtain ⟨t, ht, hmove⟩ := moveByCommand_event hu k m p
    exact ⟨t, by rw [hexec, ht], hmove⟩
  refine ⟨fun hc => ?_, fun hc => ?_⟩
  · obtain ⟨u, hu, ht⟩ := onCommand_takes (codes := (· == 5)) (owning := remapTaken) ho (by simp [hc])
      (by simp [hc, unknownCode]) (fun h => absurd h hstate)
    have hexec : exec .remap s = .next (grant (remapTaken u)) := congrArg answer hu
    have hlinks : u.links = s.links := by rw [ht.posts.eq]; rfl
    have h0 : (u.param 0).toNat = a := congrArg BitVec.toNat (ht.params 0)
    have h1 : (u.param 1).toNat = b := congrArg BitVec.toNat (ht.params 1)
    rw [← hlinks, ← h0, ← h1]
    refine ⟨fun hbad => ?_, fun k j m p hk hkind hj => ⟨fun hbad => ?_, fun hjk hfit hidle => ?_⟩⟩
    · exact answersEnded_of (by rw [hexec, remapTaken_bad hbad]; rfl) ht.posts
    · exact answersEnded_of (by rw [hexec, remapTaken_notIdle hk hkind hj hbad]; rfl) ht.posts
    · subst hjk
      rw [← hc]
      exact hmoved _ u ht j m p (by rw [hexec, remapTaken_moves hk hkind hj hfit hidle])
  · obtain ⟨u, hu, ht⟩ := onCommand_takes (codes := (· == 6)) (owning := restoreTaken) ho (by simp [hc])
      (by simp [hc, unknownCode]) (fun h => absurd h hstate)
    have hexec : exec .restore s = .next (grant (restoreTaken u)) := congrArg answer hu
    have hlinks : u.links = s.links := by rw [ht.posts.eq]; rfl
    have h0 : (u.param 0).toNat = a := congrArg BitVec.toNat (ht.params 0)
    rw [← hlinks, ← h0]
    refine ⟨fun hbad => ?_, fun k m hk hkind => ⟨fun hhome => ?_, fun hhome hidle => ?_, fun hhome hidle => ?_⟩⟩
    · exact answersEnded_of (by rw [hexec, restoreTaken_bad hbad]; rfl) ht.posts
    · exact answersEnded_of (by rw [hexec, restoreTaken_known hk hkind, if_pos hhome]; rfl) ht.posts
    · have hnot : u.links[k].positions[m].idleFitted ≠ true := fun h => hidle ((idleFitted_iff _).mp h).2
      exact answersEnded_of (by rw [hexec, restoreTaken_known hk hkind, if_neg hhome, if_neg hnot]; rfl) ht.posts
    · have hfit : u.links[k].positions[m].idleFitted = true :=
        (idleFitted_iff _).mpr ⟨by rw [hkind]; decide, hidle⟩
      rw [← hc]
      exact hmoved _ u ht k m m (by rw [hexec, restoreTaken_known hk hkind, if_neg hhome, if_pos hfit])

end

end Sys2Proof.Machine
end


section
/-! REARM and the end of a HOT check, the comparator inputs, the governor's sample (R124, R129 to R140). -/

namespace Sys2Proof.Machine

open Sys2Proof

/-! ### Links re-enabled (R130) -/

section
variable {s u v y : State}

theorem rearm_position (l : Link) (p : Fin 16) :
    l.rearm.positions[p] =
      { l.positions[p] with
        tripDisabled := l.positions[p].tripDisabled && l.positions[p].kind == .notFitted
        state :=
          if l.positions[p].state = .tripped then (if l.targeted p then .active else .idle)
          else l.positions[p].state } := by
  unfold Link.rearm
  simp only [Fin.getElem_fin, Vector.getElem_ofFn]
  generalize l.positions[p.val] = q
  obtain ⟨kind, state, trips, missed, image, setting, last, disabled⟩ := q
  cases kind with
  | notFitted => exact congrArg (Position.mk _ _ _ _ _ _ _) (Bool.and_true disabled).symm
  | _ => exact congrArg (Position.mk _ _ _ _ _ _ _) (Bool.and_false disabled).symm

theorem rearm_rest (l : Link) : l.rearm = { l with positions := l.rearm.positions } := rfl

theorem rearm_targeted (l : Link) (p : Fin 16) : l.rearm.targeted p = l.targeted p :=
  congrArg Option.isSome (targetedBy_congr (a := l) (b := l.rearm) (fun r => by rw [rearm_position]) rfl p)

/-- A link that has been re-enabled stays as it is when it is re-enabled again. -/
theorem rearm_twice (l : Link) : l.rearm.rearm = l.rearm := by
  refine Link.ext_positions (l := l) ?_ ?_ fun p => ?_
  · rw [rearm_rest, rearm_rest l]
  · exact rearm_rest l
  · rw [rearm_position, rearm_targeted, rearm_position]
    have hstate : (if l.positions[p].state = .tripped then (if l.targeted p then .active else .idle)
        else l.positions[p].state) ≠ ModuleState.tripped := by
      split
      · split <;> decide
      · assumption
    simp only [if_neg hstate, Bool.and_assoc, Bool.and_self]

theorem rearmLinks_links (ks : List (Fin 8)) (u : State) (j : Fin 8) :
    (rearmLinks ks u).links[j] = if j ∈ ks then u.links[j].rearm else u.links[j] := by
  unfold rearmLinks
  induction ks generalizing u with
  | nil => rfl
  | cons k ks ih =>
    rw [List.foldl_cons, ih]
    have hlinks : (postChanged u (linkTable k) (setLink k u.links[k].rearm u)).links[j] =
        if k = j then u.links[k].rearm else u.links[j] := by
      have hp := (postChanged_onlyPosts u (linkTable k) (setLink k u.links[k].rearm u)).eq
      generalize postChanged u (linkTable k) (setLink k u.links[k].rearm u) = v at hp
      rw [hp]
      exact setLink_getElem k _ u j
    rw [hlinks]
    by_cases hk : k = j
    · subst hk
      simp only [if_true, rearm_twice, ite_self, List.mem_cons, true_or]
    · simp only [if_neg hk, List.mem_cons, Ne.symm hk, false_or]

theorem FloorStep.rearmLinks (h : FloorStep s u) (ks : List (Fin 8)) : FloorStep s (Machine.rearmLinks ks u) := by
  unfold Machine.rearmLinks
  induction ks generalizing u with
  | nil => exact h
  | cons k ks ih =>
    rw [List.foldl_cons]
    exact ih ((h.setLink k u.links[k].rearm).posts
      (postChanged_onlyPosts u (linkTable k) (Machine.setLink k u.links[k].rearm u)))

/-- Re-enabling links changes the links, and posts. -/
theorem rearmLinks_rest (ks : List (Fin 8)) (u : State) :
    (rearmLinks ks u).drive = u.drive ∧ (rearmLinks ks u).handed = u.handed ∧
      (rearmLinks ks u).ctl.command = u.ctl.command := by
  unfold rearmLinks
  induction ks generalizing u with
  | nil => exact ⟨rfl, rfl, rfl⟩
  | cons k ks ih =>
    have hp := (postChanged_onlyPosts u (linkTable k) (setLink k u.links[k].rearm u)).eq
    obtain ⟨hdrive, hhanded, hcommand⟩ := ih (postChanged u (linkTable k) (setLink k u.links[k].rearm u))
    rw [List.foldl_cons]
    refine ⟨hdrive.trans ?_, hhanded.trans ?_, hcommand.trans ?_⟩ <;> rw [hp] <;> rfl

/-- A link re-enabled by REARM, as the rule of R130 gives it. -/
theorem rearm_eq (l : Link) :
    ({ l with
        positions := Vector.ofFn (fun p =>
          { l.positions[p] with
            tripDisabled := l.positions[p].tripDisabled && l.positions[p].kind == .notFitted
            state :=
              if l.positions[p].state = .tripped then (if l.targeted p then .active else .idle)
              else l.positions[p].state }) } : Link) = l.rearm := by
  refine Link.ext_positions (l := l) rfl (rearm_rest l) fun p => ?_
  rw [rearm_position]
  simp

/-! ### The links that a command names -/

theorem linksNamed_bad {x : Word} (h8 : 8 ≤ x.toNat) (hx : x ≠ 0x00FF) : linksNamed x = none := by
  rw [linksNamed, if_neg hx, dif_neg (by omega)]

theorem linksNamed_some {x : Word} {ks : List (Fin 8)}
    (h : (∃ k : Fin 8, x.toNat = k.val ∧ ks = [k]) ∨ (x = 0x00FF ∧ ks = [0, 1, 2, 3, 4, 5, 6, 7])) :
    linksNamed x = some ks := by
  rcases h with ⟨k, hk, rfl⟩ | ⟨rfl, rfl⟩
  · have hne : x ≠ 0xFF := by
      intro he
      rw [he] at hk
      have := k.isLt
      simp at hk
      omega
    have hlt : x.toNat < 8 := by omega
    have hfin : (⟨x.toNat, hlt⟩ : Fin 8) = k := Fin.ext hk
    rw [linksNamed, if_neg hne, dif_pos hlt, hfin]
  · rfl

/-! ### REARM and the end of a HOT check -/

/-- The links re-enabled and the command ended DONE. -/
theorem rearmDone_event (h : FloorStep s y) (ks : List (Fin 8)) (old : State) :
    let t := grant (floorSettle old (endDone (rearmLinks ks y)))
    DoneEvent s (rearmLinks ks y) t ∧
      ∀ k : Fin 8, SameLink (if k ∈ ks then y.links[k].rearm else y.links[k]) t.links[k] := by
  intro t
  have hdone : DoneEvent s (rearmLinks ks y) t :=
    (h.rearmLinks ks).done (.refl _) (endDone_posted _) old
  refine ⟨hdone, fun k => ?_⟩
  have hk := hdone.boards k
  rwa [rearmLinks_links] at hk

theorem rearmTaken_eq {ks : List (Fin 8)} (h : linksNamed (u.param 0) = some ks) :
    rearmTaken u =
      if u.drive.hotLatch = false then rearmDone ks u
      else if u.drive.hot.taken = true ∨ u.drive.hot.raw = true then endRefused .stillHot 0 u
      else setDrive { u.drive with hotCheck := some ⟨u.ctl.timeBase, ks⟩ } u := by
  unfold rearmTaken
  rw [h]
  cases u.drive.hotLatch <;> simp

/-- Settles O47. -/
theorem rearmAndHotCheck : Obligations.RearmAndHotCheck := by
  intro w s x named enabled floor
  have henabled : enabled = Link.rearm := funext rearm_eq
  clear_value enabled
  subst henabled
  refine ⟨fun ho hc hstate => ?_, fun h hh hreset h20 => ?_⟩
  · obtain ⟨u, hu, ht⟩ := onCommand_takes (codes := (· == 7)) (owning := rearmTaken) ho (by simp [hc])
      (by simp [hc, unknownCode]) (fun h => absurd h hstate)
    have hexec : exec .rearm s = .next (grant (rearmTaken u)) := congrArg answer hu
    have hx : u.param 0 = x := ht.params 0
    have hdrive : u.drive = s.drive := by rw [ht.posts.eq]; rfl
    have htime : u.ctl.timeBase = s.ctl.timeBase := by rw [ht.posts.eq]; rfl
    have hlinks : u.links = s.links := by rw [ht.posts.eq]; rfl
    refine ⟨fun h8 hff => ?_, fun ks hks hlatch => ⟨fun hhot => ?_, fun htaken hraw => ?_⟩, fun ks hks hlatch => ?_⟩
    · refine answersEnded_of ?_ ht.posts
      rw [hexec, rearmTaken, hx, linksNamed_bad h8 hff]
      rfl
    · refine answersEnded_of ?_ ht.posts
      rw [hexec, rearmTaken_eq (by rw [hx]; exact linksNamed_some hks), hdrive, hlatch, if_neg (by decide), if_pos hhot]
      rfl
    · have hcool : ¬ (s.drive.hot.taken = true ∨ s.drive.hot.raw = true) := by simp [htaken, hraw]
      refine ⟨setDrive { s.drive with hotCheck := some ⟨s.ctl.timeBase, ks⟩ } u, ?_, ?_, ?_⟩
      · rw [hexec, rearmTaken_eq (by rw [hx]; exact linksNamed_some hks), hdrive, hlatch, if_neg (by decide),
          if_neg hcool, htime]
      · exact ht.posted
      · exact ht.change (setDrive _) (fun _ _ _ => rfl)
    · obtain ⟨hdone, hboards⟩ := rearmDone_event ht.floorStep ks u
      have heq : rearmTaken u = floorSettle u (endDone (rearmLinks ks u)) := by
        rw [rearmTaken_eq (by rw [hx]; exact linksNamed_some hks), hdrive, hlatch, if_pos rfl]
        rfl
      obtain ⟨hrdrive, hrhanded, hrcommand⟩ := rearmLinks_rest ks u
      obtain ⟨hhanded, hcommand⟩ := hdone.taken ht hrcommand hrhanded
      have hd := hdone.drive
      rw [hrdrive, hdrive] at hd
      rw [hlinks] at hboards
      refine ⟨_, by rw [hexec, heq], ⟨hboards, hdone.floor, hdone.cause, hdone.posted⟩, hd, hhanded, ?_⟩
      rw [hcommand, hc]
  · have hstep : FloorStep s (setDrive { s.drive with hotCheck := none, hotLatch := false } s) :=
      (FloorStep.refl s).setDrive _ rfl
    obtain ⟨hdone, hboards⟩ := rearmDone_event hstep h.links s
    have hexec : exec .hotCheckEnd s = .next (grant (floorSettle s
        (endDone (rearmLinks h.links (setDrive { s.drive with hotCheck := none, hotLatch := false } s))))) := by
      change execHotCheckEnd s = _
      have hdue : (!s.rst.inReset && decide (20 ≤ since s h.since)) = true := by simp [hreset, h20]
      simp only [execHotCheckEnd, hh, hdue, if_true, answer_eq, hotCheckPassed]
    obtain ⟨hrdrive, hrhanded, hrcommand⟩ :=
      rearmLinks_rest h.links (setDrive { s.drive with hotCheck := none, hotLatch := false } s)
    have hd := hdone.drive
    rw [hrdrive] at hd
    refine ⟨_, hexec, ⟨hboards, hdone.floor, hdone.cause, hdone.posted⟩, ?_, hd, ?_⟩
    · exact hdone.handed.trans hrhanded
    · rw [hdone.command, hrcommand]
      rfl

end

end Sys2Proof.Machine
end


section
/-! The comparator inputs and the governor's sample (R124, R131 to R143). -/

namespace Sys2Proof.Machine

open Sys2Proof

/-! ### The drive state word -/

section
variable {s t u v y : State}

theorem SameBoards.driveStateWord (h : SameBoards s t) (hlatch : t.drive.hotLatch = s.drive.hotLatch)
    (hwarm : t.drive.warm.taken = s.drive.warm.taken) (hlwarn : t.drive.lwarn.taken = s.drive.lwarn.taken)
    (hllow : t.drive.llow.taken = s.drive.llow.taken) : t.driveStateWord = s.driveStateWord := by
  have hlinks : (fun k : Fin 8 => bitOf t.links[k].driveEnable (8 + k.val)) =
      fun k => bitOf s.links[k].driveEnable (8 + k.val) := funext fun k => by rw [(h k).driveEnable]
  unfold State.driveStateWord
  rw [hlinks, hlatch, hwarm, hlwarn, hllow]

theorem Settled.driveStateWord (h : Settled u t) : t.driveStateWord = u.driveStateWord := by
  have hd := h.drive
  refine h.boards.driveStateWord ?_ ?_ ?_ ?_ <;> rw [hd]

/-- A word of the drive that differs from what it was waits as the floor is settled. -/
theorem floorSettle_posted {w : TableWord} {old : State}
    (hw : w ∈ [TableWord.driveState, .limitReasons, .governorStage])
    (hne : (grant (floorSettle old s)).tableWords w ≠ old.tableWords w) :
    (grant (floorSettle old s)).Posted w := by
  refine posted_changed hw fun he => hne ?_
  rw [grant_tableWords, floorSettle, ← he]
  exact (chooseAll_same _).tableWords (chooseAll_eq _) w

end

/-! ### The filters (R132) -/

section
variable {d : DriveUnit} {f : Filter}

theorem filter_setFilter (c : Comparator) : (d.setFilter c f).filter c = f := by cases c <;> rfl

theorem filter_setFilter_other {c e : Comparator} (h : e ≠ c) : (d.setFilter c f).filter e = d.filter e := by
  cases c with
  | warm => cases e with
    | warm => exact absurd rfl h
    | _ => rfl
  | hot => cases e with
    | hot => exact absurd rfl h
    | _ => rfl
  | lwarn => cases e with
    | lwarn => exact absurd rfl h
    | _ => rfl
  | llow => cases e with
    | llow => exact absurd rfl h
    | _ => rfl

theorem setFilter_rest (c : Comparator) :
    d.setFilter c f =
      { d with
        warm := (d.setFilter c f).warm
        hot := (d.setFilter c f).hot
        lwarn := (d.setFilter c f).lwarn
        llow := (d.setFilter c f).llow } := by
  cases c <;> rfl

end

section
variable {s u : State} {c : Comparator}

theorem exec_inputChange {level : Bool} (h : (s.drive.filter c).raw ≠ level) :
    exec (.comparatorInputChange c level) s =
      .next (grant (failHotCheck c level
        (setDrive (s.drive.setFilter c
          ⟨level, (s.drive.filter c).taken,
            if level = (s.drive.filter c).taken then none else some s.ctl.timeBase⟩) s))) := by
  change answer (if (s.drive.filter c).raw = level then s else changeInput c level s) = _
  rw [if_neg h]
  rfl

theorem failHotCheck_none {level : Bool} (h : s.drive.hotCheck = none ∨ c ≠ .hot ∨ level = false) :
    failHotCheck c level s = s := by
  unfold failHotCheck
  cases hc : s.drive.hotCheck with
  | none => rfl
  | some x =>
    refine if_neg fun hboth => ?_
    rcases h with h | h | h
    · rw [hc] at h
      cases h
    · exact h hboth.1
    · rw [hboth.2] at h
      cases h

theorem failHotCheck_fails (h : s.drive.hotCheck ≠ none) :
    failHotCheck .hot true s = endRefused .stillHot 0 (setDrive { s.drive with hotCheck := none } s) := by
  unfold failHotCheck
  cases hc : s.drive.hotCheck with
  | none => exact absurd hc h
  | some x => exact if_pos ⟨rfl, rfl⟩

theorem exec_filterTaken {t : Time} (hw : (s.drive.filter c).watch = some t) (hr : s.rst.inReset = false)
    (h20 : 20 ≤ since s t) : exec (.filterTaken c) s = .next (grant (floorSettle s (takeFilter c s))) := by
  change execFilterTaken c s = _
  have hdue : (!s.rst.inReset && decide (20 ≤ since s t)) = true := by simp [hr, h20]
  simp only [execFilterTaken, hw, hdue, if_true, answer_eq]

/-! ### A taken rise (R134, R135, R143) -/

/-- The Drive Protection Unit as a filter has taken its raw level: a rise of HOT sets the latch. -/
def DriveUnit.taken (d : DriveUnit) (c : Comparator) : DriveUnit :=
  { d.setFilter c ⟨(d.filter c).raw, (d.filter c).raw, none⟩ with
    hotLatch := d.hotLatch || ((d.filter c).raw && c == .hot) }

/-- The fault of a taken rise. -/
def riseFault (c : Comparator) : FaultKind := if c = .hot then .hot else .lampLow

/-- Whether a filter that takes its raw level ends a lamp test, and posts a fault. -/
def State.rises (s : State) (c : Comparator) : Prop := (s.drive.filter c).raw = true ∧ (c = .hot ∨ c = .llow)

/-- But for a rise of HOT, the latch stands as the filter takes its level. -/
theorem taken_eq_setFilter {d : DriveUnit} (h : (d.filter c).raw = true → c ≠ .hot) :
    d.taken c = d.setFilter c ⟨(d.filter c).raw, (d.filter c).raw, none⟩ := by
  have hno : ((d.filter c).raw && c == .hot) = false := by
    cases hraw : (d.filter c).raw with
    | false => rfl
    | true => simpa using h hraw
  unfold DriveUnit.taken
  rw [hno, Bool.or_false]
  cases c <;> rfl

theorem takeFilter_plain (h : ¬ s.rises c) : takeFilter c s = setDrive (s.drive.taken c) s := by
  rw [taken_eq_setFilter fun hraw hc => h ⟨hraw, .inl hc⟩]
  unfold takeFilter
  dsimp only
  cases hraw : (s.drive.filter c).raw with
  | false => rfl
  | true =>
    cases c with
    | warm => rfl
    | lwarn => rfl
    | hot => exact absurd ⟨hraw, .inl rfl⟩ h
    | llow => exact absurd ⟨hraw, .inr rfl⟩ h

theorem takeFilter_rise (h : s.rises c) :
    takeFilter c s =
      cutLampTest (postFault (riseFault c) .none [(setDrive (s.drive.taken c) s).driveStateWord.toNat]
        (setDrive (s.drive.taken c) s)) := by
  obtain ⟨hraw, hc⟩ := h
  unfold takeFilter
  dsimp only
  rcases hc with rfl | rfl
  · have hlatch : (setDrive (s.drive.taken .hot) s) =
        setDrive { s.drive.setFilter .hot ⟨(s.drive.filter .hot).raw, (s.drive.filter .hot).raw, none⟩ with
          hotLatch := true } s := by
      unfold DriveUnit.taken
      rw [hraw]
      simp
    rw [hlatch, if_pos hraw]
    rfl
  · rw [taken_eq_setFilter fun _ => by decide, if_pos hraw]
    rfl

/-- A lamp test that is cut, or none. -/
theorem cutLampTest_none (h : s.drive.lampTest = none) : cutLampTest s = s := by
  unfold cutLampTest
  rw [h]

theorem cutLampTest_cut (h : s.drive.lampTest ≠ none) :
    cutLampTest s = endRefused .driveOff 0 (setDrive { s.drive with lampTest := none } s) := by
  unfold cutLampTest
  cases hc : s.drive.lampTest with
  | none => exact absurd hc h
  | some x => rfl

/-- What the taking of a filter comes to before the floor is settled. -/
structure FilterTaken (c : Comparator) (s y : State) : Prop where
  step : FloorStep s y
  handed : y.handed = s.handed
  links : y.links = s.links
  drive : y.drive = { s.drive.taken c with lampTest := y.drive.lampTest }
  fault : s.rises c → s.LogRoom →
    y.Queued (s.faultEntry (riseFault c) .none [(setDrive (s.drive.taken c) s).driveStateWord.toNat])
  cut : s.rises c → s.drive.lampTest ≠ none →
    y.drive.lampTest = none ∧ y.Posted .commandStatus ∧
      y.ctl.command = { s.ctl.command with state := .refused, result := some .driveOff, detail := 0 }
  uncut : ¬ s.rises c ∨ s.drive.lampTest = none →
    y.drive.lampTest = s.drive.lampTest ∧ y.ctl.command = s.ctl.command

theorem taken_log (c : Comparator) : (s.drive.taken c).log = s.drive.log := by
  unfold DriveUnit.taken
  rw [setFilter_rest]

theorem taken_lampTest (c : Comparator) : (s.drive.taken c).lampTest = s.drive.lampTest := by
  unfold DriveUnit.taken
  rw [setFilter_rest]

theorem takeFilter_taken (c : Comparator) (s : State) : FilterTaken c s (takeFilter c s) := by
  have hstep : FloorStep s (setDrive (s.drive.taken c) s) := (FloorStep.refl s).setDrive _ (taken_log c)
  by_cases hrise : s.rises c
  · rw [takeFilter_rise hrise]
    have hfault := hstep.fault (riseFault c) .none [(setDrive (s.drive.taken c) s).driveStateWord.toNat]
    have hroom (hr : s.LogRoom) :
        (postFault (riseFault c) .none [(setDrive (s.drive.taken c) s).driveStateWord.toNat]
          (setDrive (s.drive.taken c) s)).Queued
          (s.faultEntry (riseFault c) .none [(setDrive (s.drive.taken c) s).driveStateWord.toNat]) :=
      (postFault_room (s := setDrive (s.drive.taken c) s) hr).2
    have hp := (postFault_onlyPosts (riseFault c) .none [(setDrive (s.drive.taken c) s).driveStateWord.toNat]
      (setDrive (s.drive.taken c) s)).eq
    generalize hdetails : [(setDrive (s.drive.taken c) s).driveStateWord.toNat] = details at hfault hroom hp ⊢
    generalize postFault (riseFault c) .none details (setDrive (s.drive.taken c) s) = v at hfault hroom hp ⊢
    have hdrive : v.drive = s.drive.taken c := by rw [hp]; rfl
    have hhanded : v.handed = s.handed := by rw [hp]; rfl
    have hlinks : v.links = s.links := by rw [hp]; rfl
    have hcommand : v.ctl.command = s.ctl.command := by rw [hp]; rfl
    have hlamp : v.drive.lampTest = s.drive.lampTest := by rw [hdrive, taken_lampTest]
    by_cases htest : s.drive.lampTest = none
    · rw [cutLampTest_none (by rw [hlamp, htest])]
      refine ⟨hfault, hhanded, hlinks, ?_, fun _ => hdetails ▸ hroom, fun _ h => absurd htest h, fun _ => ⟨hlamp, hcommand⟩⟩
      rw [hdrive]
    · rw [cutLampTest_cut (by rw [hlamp]; exact htest)]
      have hcut := hfault.setDrive { v.drive with lampTest := none } rfl
      have hend := hcut.endCommand (some .driveOff) 0
      obtain ⟨hposts, hposted⟩ :=
        endCommand_onlyPosts (some .driveOff) 0 (setDrive { v.drive with lampTest := none } v)
      have hkept := hposts.kept
      have heq := hposts.eq
      rw [endRefused]
      generalize endCommand (some .driveOff) 0
        (setDrive { v.drive with lampTest := none } v) = y at hend hposted hkept heq ⊢
      have hydrive : y.drive = { v.drive with lampTest := none } := by rw [heq]; rfl
      have hycommand : y.ctl.command = { v.ctl.command with state := .refused, result := some .driveOff, detail := 0 } := by
        rw [heq]
        rfl
      refine ⟨hend, ?_, ?_, ?_, fun _ hr => hdetails ▸ (hroom hr).kept hkept (by simp [State.faultEntry]),
        fun _ _ => ⟨by rw [hydrive], hposted, by rw [hycommand, hcommand]⟩, fun h => ?_⟩
      · rw [heq]
        exact hhanded
      · rw [heq]
        exact hlinks
      · rw [hydrive, hdrive]
      · rcases h with h | h
        · exact absurd hrise h
        · exact absurd h htest
  · rw [takeFilter_plain hrise]
    exact ⟨hstep, rfl, rfl, rfl, fun h => absurd h hrise, fun h => absurd h hrise,
      fun _ => ⟨taken_lampTest c, rfl⟩⟩

/-- Settles O46: a raw input that changes, and a level that is taken. -/
theorem comparatorsFiltered : Obligations.ComparatorsFiltered := by
  intro c s f
  refine ⟨?_, fun t hw hr h20 => ?_⟩
  · intro level hlevel drive
    refine ⟨fun hsafe => ?_, fun hcheck hc hup => ?_⟩
    · rw [exec_inputChange hlevel, failHotCheck_none]
      · rfl
      · have hkept : (setDrive drive s).drive.hotCheck = s.drive.hotCheck := by cases c <;> rfl
        rw [← hkept] at hsafe
        exact hsafe
    · subst hc hup
      have hkept : (setDrive drive s).drive.hotCheck ≠ none := hcheck
      have hexec := exec_inputChange hlevel
      rw [failHotCheck_fails hkept] at hexec
      obtain ⟨hposts, hposted⟩ :=
        endCommand_onlyPosts (some .stillHot) 0 (setDrive { drive with hotCheck := none } s)
      exact ⟨_, hexec, hposted, hposts⟩
  · have htaken := takeFilter_taken c s
    have hset := settled (OnlyPosts.refl (takeFilter c s)) s
    have hfloor := htaken.step.settle (.refl _) s
    have hposted := fun h => posted_settled (w := .commandStatus) (old := s) (s := takeFilter c s) h (by decide)
    have hchanged := floorSettle_posted (w := .driveState) (old := s) (s := takeFilter c s) List.mem_cons_self
    have hexec := exec_filterTaken hw hr h20
    rw [floorSettle] at hexec hchanged
    generalize takeFilter c s = y at htaken hset hfloor hposted hchanged hexec
    generalize grant (chooseAll (driveSettle s y)) = u at hset hfloor hposted hchanged hexec
    have hd : u.drive = { s.drive.taken c with lampTest := y.drive.lampTest, log := u.drive.log } := by
      rw [hset.drive, htaken.drive]
    have hboards : SameBoards s u := fun k => by
      have hk := hset.boards k
      rwa [htaken.links] at hk
    have hword : u.driveStateWord = (setDrive (s.drive.taken c) s).driveStateWord := by
      refine SameBoards.driveStateWord (s := setDrive (s.drive.taken c) s) hboards ?_ ?_ ?_ ?_ <;> rw [hd] <;> rfl
    have hfilter (e : Comparator) : u.drive.filter e = (s.drive.taken c).filter e := by rw [hd]; cases e <;> rfl
    have htake (e : Comparator) : (s.drive.taken c).filter e = (s.drive.setFilter c ⟨f.raw, f.raw, none⟩).filter e := by
      cases e <;> rfl
    refine ⟨u, hexec, hfloor, hset.handed.trans htaken.handed, hboards, ?_, fun e he => ?_, rfl, fun hne => ?_, ?_, ?_, ?_,
      fun hraw hc hroom => ?_, fun hraw hc hroom => ?_, fun hraw hc htest => ?_, fun hcalm => ?_⟩
    · rw [hfilter, htake, filter_setFilter]
    · rw [hfilter, htake, filter_setFilter_other he]
    · refine hchanged fun he => hne ?_
      exact (List.cons.inj he).1
    · rw [hd]
      cases c <;> rfl
    · rw [hd]
      cases c <;> rfl
    · rw [hd]
      rfl
    · subst hc
      rw [hword]
      exact (htaken.fault ⟨hraw, .inl rfl⟩ hroom).kept hset.kept (by simp [State.faultEntry])
    · subst hc
      rw [hword]
      exact (htaken.fault ⟨hraw, .inr rfl⟩ hroom).kept hset.kept (by simp [State.faultEntry])
    · obtain ⟨hnone, hpost, hcommand⟩ := htaken.cut ⟨hraw, hc⟩ htest
      refine ⟨by rw [hd, hnone], hposted hpost, by rw [hset.command, hcommand]⟩
    · have hnot : ¬ s.rises c ∨ s.drive.lampTest = none := by
        rcases hcalm with h | h | h | h
        · exact .inl fun hr => by rw [hr.1] at h; cases h
        · exact .inl fun hr => by rw [h] at hr; rcases hr.2 with h | h <;> cases h
        · exact .inl fun hr => by rw [h] at hr; rcases hr.2 with h | h <;> cases h
        · exact .inr h
      obtain ⟨hlamp, hcommand⟩ := htaken.uncut hnot
      exact ⟨by rw [hd, hlamp], by rw [hset.command, hcommand]⟩

/-! ### The governor's sample (R124, R137 to R140) -/

theorem sample_eq (g : Governor) (warm lwarn : Bool) (load : Nat) :
    let w := (g.window ++ [load]).drop (g.window.length + 1 - g.n)
    let count := min g.n (g.count + 1)
    let limit := effectiveLimit g.limitWord warm lwarn
    let stage :=
      if w.length = g.n ∧ count = g.n then
        if limit < w.sum / g.n ∧ g.stage < 4 then g.stage + 1
        else if w.sum / g.n < limit * 7 / 8 ∧ 0 < g.stage then g.stage - 1
        else g.stage
      else g.stage
    g.sample warm lwarn load =
      { g with
        window := w
        lastSample := g.lastSample + 10
        stage := stage
        count := if stage = g.stage then count else 0 } := by
  intro w count limit stage
  have hsample : g.sample warm lwarn load =
      if w.length = g.n ∧ count = g.n then
        if limit < w.sum / g.n ∧ g.stage < 4 then
          { g with window := w, count := 0, lastSample := g.lastSample + 10, stage := g.stage + 1 }
        else if w.sum / g.n < limit * 7 / 8 ∧ 0 < g.stage then
          { g with window := w, count := 0, lastSample := g.lastSample + 10, stage := g.stage - 1 }
        else { g with window := w, count := count, lastSample := g.lastSample + 10 }
      else { g with window := w, count := count, lastSample := g.lastSample + 10 } := rfl
  rw [hsample]
  by_cases hfull : w.length = g.n ∧ count = g.n
  · rw [if_pos hfull]
    by_cases hup : limit < w.sum / g.n ∧ g.stage < 4
    · have hstage : stage = g.stage + 1 := by simp only [stage, if_pos hfull, if_pos hup]
      rw [if_pos hup, hstage, if_neg (by omega)]
    · rw [if_neg hup]
      by_cases hdown : w.sum / g.n < limit * 7 / 8 ∧ 0 < g.stage
      · have hstage : stage = g.stage - 1 := by simp only [stage, if_pos hfull, if_neg hup, if_pos hdown]
        have hne : g.stage - 1 ≠ g.stage := by omega
        rw [if_pos hdown, hstage, if_neg hne]
      · have hstage : stage = g.stage := by simp only [stage, if_pos hfull, if_neg hup, if_neg hdown]
        rw [if_neg hdown, hstage, if_pos rfl]
  · have hstage : stage = g.stage := by simp only [stage, if_neg hfull]
    rw [if_neg hfull, hstage, if_pos rfl]

theorem exec_governorSample (hr : s.rst.inReset = false) (h10 : 10 ≤ since s s.drive.governor.lastSample) :
    exec .governorSample s =
      .next (grant (floorSettle s
        (setDrive
          { s.drive with
            governor := s.drive.governor.sample s.drive.warm.taken s.drive.lwarn.taken s.sampleLoad } s))) := by
  change answer _ = _
  rw [if_pos (by simp [hr, h10]), answer_eq, takeSample]

theorem all8_eq : all8 = List.finRange 8 := by decide

theorem ribbonLoad_eq (s : State) :
    s.ribbonLoad = 20 * s.tape.window.countP (· != 0x20) * s.ribbonBrightness := by
  rw [State.ribbonLoad, List.countP_eq_length_filter]

theorem linkLoad_running {k : Fin 8} (h : s.links[k].running = true) :
    s.linkLoad k = ((List.finRange 16).map (s.positionLoad k)).sum := by
  rw [State.linkLoad, if_pos h, all16_eq]

theorem positionLoad_eq (s : State) (k : Fin 8) (p : Fin 16) :
    s.positionLoad k p =
      let q := s.links[k].positions[p]
      if q.kind ≠ .notFitted ∧ q.state ∈ [.unknown, .active, .idle, .tripped] then
        ((q.shownImage.getD (s.dueImage k p)).toList.map Glyph.segments).sum * (s.dueSetting k p).brightness
      else 0 := by
  unfold State.positionLoad
  simp only [served_iff]
  rfl

/-- Settles O45. -/
theorem governorSampled : Obligations.GovernorSampled := by
  refine ⟨?_, fun s => ⟨by rw [State.sampleLoad, all8_eq], ribbonLoad_eq s, fun k => ⟨fun h => ?_, fun h => ?_⟩⟩, ?_⟩
  · intro s hr h10 g n w count limit
    have hsample := sample_eq g s.drive.warm.taken s.drive.lwarn.taken s.sampleLoad
    have hexec := exec_governorSample hr h10
    have hstep := (FloorStep.refl s).setDrive
      { s.drive with governor := g.sample s.drive.warm.taken s.drive.lwarn.taken s.sampleLoad } rfl
    change exec .governorSample s = .next (grant (floorSettle s (setDrive
      { s.drive with governor := g.sample s.drive.warm.taken s.drive.lwarn.taken s.sampleLoad } s))) at hexec
    generalize hg : g.sample s.drive.warm.taken s.drive.lwarn.taken s.sampleLoad = g' at hsample hexec hstep
    have hset := settled (OnlyPosts.refl (setDrive { s.drive with governor := g' } s)) s
    have hfloor := hstep.settle (.refl _) s
    have hchanged := floorSettle_posted (w := .governorStage) (old := s)
      (s := setDrive { s.drive with governor := g' } s) (by simp)
    rw [floorSettle] at hexec hchanged
    generalize grant (chooseAll
      (driveSettle s (setDrive { s.drive with governor := g' } s))) = u at hset hfloor hchanged hexec
    have hd : u.drive = { s.drive with governor := g', log := u.drive.log } := hset.drive
    have hgov : u.drive.governor = g' := by rw [hd]
    refine ⟨u, hexec, hfloor, hset.handed, hset.boards, by rw [hgov]; exact hd, ?_, fun hshort => ?_, fun hw hc => ?_,
      fun hne hle => hchanged fun he => ?_⟩
    · rw [hgov]
      conv_lhs => rw [hsample]
      rw [hsample]
      rfl
    · rw [hgov, hsample]
      exact if_neg fun hfull => hshort.elim (fun h => h hfull.1) fun h => h hfull.2
    · rw [hgov, hsample]
      exact if_pos ⟨hw, hc⟩
    · have hword : BitVec.ofNat 16 u.drive.governor.stage = BitVec.ofNat 16 g.stage := (List.cons.inj he).1
      have hsmall : u.drive.governor.stage ≤ 5 := by
        rw [hgov, hsample]
        dsimp only
        split_ifs <;> omega
      have hnat := congrArg BitVec.toNat hword
      simp only [BitVec.toNat_ofNat] at hnat
      omega
  · rw [State.linkLoad, if_neg (ne_true_of_eq_false h)]
  · rw [linkLoad_running h]
    refine congrArg (fun f => ((List.finRange 16).map f).sum) (funext fun p => ?_)
    refine (positionLoad_eq s k p).trans ?_
    dsimp only
    generalize s.links[k].positions[p].shownImage = shown
    cases shown <;> rfl
  · decide

end

end Sys2Proof.Machine
end


section
/-! What the events that only show the market leave on the boards: kinds, states, trips, flags and targets (chapter 6). -/

namespace Sys2Proof.Machine

open Sys2Proof

/-! ### Steady boards -/

/-- A link whose positions keep their kinds, states, trips and flags, and whose modules keep their targets: what it shows
may differ. -/
structure Link.Steady (a b : Link) : Prop where
  positions : ∀ p : Fin 16, b.positions[p].kind = a.positions[p].kind ∧ b.positions[p].state = a.positions[p].state ∧
    b.positions[p].trips = a.positions[p].trips ∧ b.positions[p].tripDisabled = a.positions[p].tripDisabled
  targets : ∀ m : Fin 16, b.modules[m].target = a.modules[m].target

/-- The Drive Protection Unit is as it was, and every link is steady. -/
structure Steady (s t : State) : Prop where
  drive : t.drive = s.drive
  links : ∀ k : Fin 8, s.links[k].Steady t.links[k]

theorem Link.Steady.refl (a : Link) : a.Steady a := ⟨fun _ => ⟨rfl, rfl, rfl, rfl⟩, fun _ => rfl⟩

theorem Link.Steady.trans {a b c : Link} (h1 : a.Steady b) (h2 : b.Steady c) : a.Steady c := by
  refine ⟨fun p => ?_, fun m => (h2.targets m).trans (h1.targets m)⟩
  obtain ⟨hk1, hs1, ht1, hd1⟩ := h1.positions p
  obtain ⟨hk2, hs2, ht2, hd2⟩ := h2.positions p
  exact ⟨hk2.trans hk1, hs2.trans hs1, ht2.trans ht1, hd2.trans hd1⟩

theorem SameLink.steady {a b : Link} (h : SameLink a b) : a.Steady b := by
  refine ⟨fun p => ?_, fun m => ?_⟩
  · rw [h.positions p]
    exact ⟨rfl, rfl, rfl, rfl⟩
  · have hm : b.modules = a.modules := by rw [h.link]
    rw [hm]

theorem Link.Steady.driveEnable {a b : Link} (h : a.Steady b) : b.driveEnable = a.driveEnable := by
  unfold Link.driveEnable
  refine congrArg all16.all (funext fun p => ?_)
  obtain ⟨hk, -, -, hd⟩ := h.positions p
  rw [hk, hd]

theorem Link.Steady.moduleWord {a b : Link} (h : a.Steady b) (k : Fin 8) (p : Fin 16) :
    b.moduleWord k p = a.moduleWord k p := by
  obtain ⟨hk, hs, ht, -⟩ := h.positions p
  unfold Link.moduleWord
  dsimp only
  rw [hk, hs, ht, h.targets]

section
variable {x : Scope} {s t u v : State}

theorem Steady.refl (s : State) : Steady s s := ⟨rfl, fun _ => .refl _⟩

theorem Steady.trans (h1 : Steady s t) (h2 : Steady t u) : Steady s u :=
  ⟨h2.drive.trans h1.drive, fun k => (h1.links k).trans (h2.links k)⟩

/-- What reaches no floor leaves it steady. -/
theorem Steady.blocks (hx : x.floor = false) (h : t.blocks x = s.blocks x) : Steady s t := by
  refine ⟨drive_of_blocks h hx, fun k => ?_⟩
  rw [links_of_blocks h hx]
  exact .refl _

theorem Steady.outside (hx : x.floor = false) (h : t.outside x = s.outside x) : Steady s t :=
  .blocks hx (blocks_of_outside h)

theorem Steady.anyTripDisabled (h : Steady s t) : t.anyTripDisabled = s.anyTripDisabled := by
  unfold State.anyTripDisabled
  refine congrArg all8.any (funext fun k => ?_)
  rw [(h.links k).driveEnable]

theorem Steady.limitStatus (h : Steady s t) : t.limitStatus = s.limitStatus := by
  unfold State.limitStatus
  rw [h.drive, h.anyTripDisabled]

theorem steady_of_boards (hd : t.drive = s.drive) (h : SameBoards s t) : Steady s t := ⟨hd, fun k => (h k).steady⟩

theorem chooseAll_steady (s : State) : Steady s (chooseAll s) :=
  steady_of_boards (by rw [chooseAll_eq]) (chooseAll_same s)

theorem chooseFrame_steady (k : Fin 8) (s : State) : Steady s (chooseFrame k s) :=
  steady_of_boards (by rw [chooseFrame_eq]) (chooseFrame_same k s)

theorem setLink_steady {k : Fin 8} {l : Link} (h : s.links[k].Steady l) : Steady s (setLink k l s) := by
  refine ⟨rfl, fun j => ?_⟩
  rw [setLink_getElem]
  split
  · rename_i hk
    exact hk ▸ h
  · exact .refl _

theorem recomputeLink_steady (which : Nat → Bool) (s : State) (k : Fin 8) : Steady s (recomputeLink which s k) := by
  unfold recomputeLink
  split
  · refine setLink_steady ⟨fun p => ⟨rfl, rfl, rfl, rfl⟩, fun m => ?_⟩
    simp only [State.recomputed, Fin.getElem_fin, Vector.getElem_ofFn]
    split
    · rfl
    · split
      · rfl
      · split <;> rfl
  · exact .refl s

theorem recomputeBoards_steady (which : Nat → Bool) (s : State) : Steady s (recomputeBoards which s) := by
  unfold recomputeBoards
  generalize all8 = ks
  induction ks generalizing s with
  | nil => exact .refl s
  | cons k ks ih => exact (recomputeLink_steady which s k).trans (ih _)

/-! ### Notices and commits -/

/-- The Capture Unit, the records, the lines and the tape: all that an application of a commit reaches but the floor. -/
def awayFromFloor : Scope := ⟨false, true, true, true⟩

theorem notify_steady (i : Nat) (trade : Option TradePart) (s : State) : Steady s (notify i trade s) := by
  have hsettle (v : State) : Steady v (chooseAll (recomputeBoards (· == i) (noticeLines i v))) :=
    (Steady.outside (x := awayFromFloor) rfl (noticeLines_outside rfl i v)).trans
      ((recomputeBoards_steady _ _).trans (chooseAll_steady _))
  unfold notify
  dsimp only
  cases trade with
  | none => exact hsettle s
  | some p => exact (Steady.outside (x := awayFromFloor) rfl (printTrade_outside rfl _ _ _)).trans (hsettle _)

theorem noticeAll_steady (s : State) : Steady s (noticeAll s) := by
  have hfold : ∀ (is : List Nat) (v : State), Steady v (is.foldl (fun s i => noticeLines i s) v) := by
    intro is
    induction is with
    | nil => exact fun v => .refl v
    | cons i is ih =>
      exact fun v => (Steady.outside (x := awayFromFloor) rfl (noticeLines_outside rfl i v)).trans (ih _)
  unfold noticeAll
  exact (hfold _ s).trans ((recomputeBoards_steady _ _).trans (chooseAll_steady _))

theorem applyCommit_steady (i : Nat) (c : CommitFlags) (seq : BitVec 12) (time : Time) (v : FieldValues) (s : State) :
    Steady s (applyCommit i c seq time v s) := by
  have h4 : Steady s (applyFast i c (applyTrade i c seq time v (applyQuote i c v (applyHalt i c s))).1) := by
    refine Steady.outside (x := awayFromFloor) rfl ?_
    rw [applyFast_outside rfl, applyTrade_outside rfl, applyQuote_outside rfl, applyHalt_outside rfl]
  unfold applyCommit
  dsimp only
  split
  · split
    · exact h4.trans (notify_steady i _ _)
    · exact h4
  · exact h4

theorem setCap_steady (c : CaptureUnit) (s : State) : Steady s (setCap c s) :=
  .outside (x := awayFromFloor) rfl (setCap_outside rfl c s)

theorem postFault_steady (k : FaultKind) (subj : Subject) (d : List Nat) (s : State) : Steady s (postFault k subj d s) :=
  .outside (x := awayFromFloor) rfl (postFault_outside k subj d s)

theorem drainGroupless_steady (fuel : Nat) (s : State) : Steady s (drainGroupless fuel s) := by
  fun_induction drainGroupless fuel s with
  | case2 fuel u e rest ha hq hp ih => exact (setCap_steady _ _).trans ((applyCommit_steady _ _ _ _ _ _).trans ih)
  | _ => exact .refl _

theorem pumpCapture_steady (s : State) : Steady s (pumpCapture s) := by
  have hd := drainGroupless_steady s.cap.fetchQueue.length s
  have hfetch (v : State) : Steady v (placeFetch v) := .outside (x := awayFromFloor) rfl (placeFetch_outside rfl v)
  have hphase (v : State) : Steady v (placePhase2 v) := .outside (x := awayFromFloor) rfl (placePhase2_outside rfl v)
  unfold pumpCapture
  dsimp only
  split
  · exact hd
  · split
    · split
      exacts [hd.trans (hfetch _), hd.trans (hphase _)]
    · exact hd.trans (hfetch _)
    · exact hd.trans (hphase _)
    · exact hd

theorem setInstrument_steady (i : Nat) (r : Instrument) (s : State) : Steady s (setInstrument i r s) :=
  ⟨rfl, fun _ => .refl _⟩

theorem settleCommit_steady (i : Nat) (c : CommitFlags) (seq : BitVec 12) (s : State) :
    Steady s (settleCommit i c seq s) := by
  have hset (c1 : CaptureUnit) (r : Instrument) : Steady s (setInstrument i r (setCap c1 s)) :=
    (setCap_steady c1 s).trans (setInstrument_steady _ _ _)
  fun_cases settleCommit i c seq s with
  | case1 => exact .refl s
  | case2 r h0 => exact (hset _ _).trans (setCap_steady _ _)
  | case3 r h0 => exact (hset _ _).trans (applyCommit_steady _ _ _ _ _ _)
  | case4 r h0 => exact (hset _ _).trans (setCap_steady _ _)

theorem takeCommit_steady (i : Nat) (w : Word) (s : State) : Steady s (takeCommit i w s) := by
  have accept (r : Instrument) (v : State) : Steady v (acceptCommit i w r v) := by
    have hset : Steady v (setInstrument i { r with lastSeq := commitSeq w } v) := setInstrument_steady _ _ _
    unfold acceptCommit
    refine Steady.trans ?_ (settleCommit_steady _ _ _ _)
    split
    · exact hset.trans (postFault_steady _ _ _ _)
    · exact hset
  fun_cases takeCommit i w s with
  | case1 | case2 => exact .refl s
  | case3 r h0 => exact accept r s
  | case4 r h0 => exact (postFault_steady _ _ _ s).trans (accept r _)

theorem byStanding_steady {take : State → State} (ht : ∀ v : State, Steady v (take v)) (i : Nat) (s : State) :
    Steady s (byStanding i take s) := by
  fun_cases byStanding i take s with
  | case1 => exact ht s
  | case2 => exact .refl s
  | case3 => exact .outside (x := awayFromFloor) rfl (tearPhase2_outside rfl s)

theorem takeFetched_steady (w : Word) (good : Bool) (s : State) : Steady s (takeFetched w good s) := by
  fun_cases takeFetched w good s with
  | case1 => exact setCap_steady _ s
  | case3 => exact .refl s
  | case2 a e rest hq =>
    fun_cases endAttempt e rest a.plan _ s with
    | case1 => exact (setCap_steady _ s).trans ((setCap_steady _ _).trans (applyCommit_steady _ _ _ _ _ _))
    | case2 =>
      exact (setCap_steady _ s).trans ((setCap_steady _ _).trans
        ((postFault_steady _ _ _ _).trans (applyCommit_steady _ _ _ _ _ _)))
    | case3 => exact setCap_steady _ s

theorem closeDay_steady (s : State) : Steady s (closeDay s) := by
  fun_cases closeDay s with
  | case1 => exact .outside (x := awayFromFloor) rfl (endRefused_outside _ _ s)
  | case2 =>
    have hclosed : Steady s (dayClosed s) := ⟨rfl, fun _ => .refl _⟩
    have hposted : Steady s (post .partState (dayClosed s)) :=
      hclosed.trans (.outside (x := awayFromFloor) rfl (post_outside _ _))
    exact (hposted.trans (noticeAll_steady _)).trans (.outside (x := awayFromFloor) rfl (endDone_outside _))

end

end Sys2Proof.Machine
end


section
/-! The law of the physical targets (R103, R112, R116 to R119): at most one module on a position, and none on one in
ABSENT, FAILED or IDLE. -/

namespace Sys2Proof.Machine

open Sys2Proof

/-! ### The law on one link -/

/-- A link whose positions keep their kinds and states, and whose modules keep their targets. -/
structure Link.Placed (a b : Link) : Prop where
  positions : ∀ p : Fin 16, b.positions[p].kind = a.positions[p].kind ∧ b.positions[p].state = a.positions[p].state
  targets : ∀ m : Fin 16, b.modules[m].target = a.modules[m].target

/-- The law of the targets but at one position, which may be targeted in any state. -/
structure Link.LawfulBut (x : Fin 16) (l : Link) : Prop where
  one : ∀ m m' p : Fin 16, l.positions[m].kind = .home → l.positions[m'].kind = .home →
    l.modules[m].target = some p → l.modules[m'].target = some p → m = m'
  live : ∀ m p : Fin 16, p ≠ x → l.positions[m].kind = .home → l.modules[m].target = some p →
    l.positions[p].state ≠ .absent ∧ l.positions[p].state ≠ .failed ∧ l.positions[p].state ≠ .idle

section
variable {a b c l : Link} {p x : Fin 16}

theorem Link.Placed.refl (a : Link) : a.Placed a := ⟨fun _ => ⟨rfl, rfl⟩, fun _ => rfl⟩

theorem Link.Placed.trans (h1 : a.Placed b) (h2 : b.Placed c) : a.Placed c := by
  refine ⟨fun p => ?_, fun m => (h2.targets m).trans (h1.targets m)⟩
  obtain ⟨hk1, hs1⟩ := h1.positions p
  obtain ⟨hk2, hs2⟩ := h2.positions p
  exact ⟨hk2.trans hk1, hs2.trans hs1⟩

theorem Link.Steady.placed (h : a.Steady b) : a.Placed b := by
  refine ⟨fun p => ?_, h.targets⟩
  obtain ⟨hk, hs, -, -⟩ := h.positions p
  exact ⟨hk, hs⟩

theorem Link.LawfulBut.placed (ha : a.LawfulBut x) (h : a.Placed b) : b.LawfulBut x := by
  have hkind (p : Fin 16) : b.positions[p].kind = a.positions[p].kind := (h.positions p).1
  have hstate (p : Fin 16) : b.positions[p].state = a.positions[p].state := (h.positions p).2
  refine ⟨fun m m' p hm hm' ht ht' => ?_, fun m p hp hm ht => ?_⟩
  · rw [hkind] at hm hm'
    rw [h.targets] at ht ht'
    exact ha.one m m' p hm hm' ht ht'
  · rw [hkind] at hm
    rw [h.targets] at ht
    rw [hstate]
    exact ha.live m p hp hm ht

theorem Link.TargetsLawful.lawfulBut (h : l.TargetsLawful) (x : Fin 16) : l.LawfulBut x :=
  ⟨h.one, fun m p _ hm ht => h.live m p hm ht⟩

/-- The law but at a position is the law, when no module targets the position or it is in a state that allows it. -/
theorem Link.LawfulBut.lawful (h : l.LawfulBut x)
    (hx : l.targetedBy x = none ∨
      (l.positions[x].state ≠ .absent ∧ l.positions[x].state ≠ .failed ∧ l.positions[x].state ≠ .idle)) :
    l.TargetsLawful := by
  refine ⟨h.one, fun m p hm ht => ?_⟩
  by_cases hp : p = x
  · subst hp
    exact hx.elim (fun hnone => absurd ht (targetedBy_eq_none hnone m hm)) id
  · exact h.live m p hp hm ht

theorem Link.TargetsLawful.placed (ha : a.TargetsLawful) (h : a.Placed b) : b.TargetsLawful := by
  have hbut (x : Fin 16) : b.LawfulBut x := (ha.lawfulBut x).placed h
  refine ⟨(hbut 0).one, fun m p hm ht => ?_⟩
  have hne : p ≠ p + 1 := by
    intro he
    have := congrArg Fin.val he
    have := p.isLt
    simp only [Fin.val_add, Fin.val_one] at *
    omega
  exact (hbut (p + 1)).live m p hne hm ht

/-- The state of one position is changed. -/
theorem Link.LawfulBut.setState (h : l.LawfulBut p) {q : Position} (hq : q.kind = l.positions[p].kind) :
    (l.setPosition p q).LawfulBut p := by
  have hkind (r : Fin 16) : (l.setPosition p q).positions[r].kind = l.positions[r].kind := by
    rw [setPosition_getElem]
    split
    · rename_i hr
      rw [← hr, hq]
    · rfl
  refine ⟨fun m m' r hm hm' ht ht' => ?_, fun m r hr hm ht => ?_⟩
  · rw [hkind] at hm hm'
    exact h.one m m' r hm hm' ht ht'
  · rw [hkind] at hm
    rw [setPosition_getElem, if_neg (Ne.symm hr)]
    exact h.live m r hr hm ht

theorem setPosition_placed {q : Position} (hk : q.kind = l.positions[p].kind) (hs : q.state = l.positions[p].state) :
    l.Placed (l.setPosition p q) := by
  refine ⟨fun r => ?_, fun _ => rfl⟩
  rw [setPosition_getElem]
  split
  · rename_i hr
    rw [← hr]
    exact ⟨hk, hs⟩
  · exact ⟨rfl, rfl⟩

/-- A module that moves from a position to NONE, or to an IDLE position, leaves the law behind it. -/
theorem Moved.lawful {m : Fin 16} {dest : Option (Fin 16)} (h : Moved m dest a b)
    (hone : ∀ m m' p : Fin 16, a.positions[m].kind = .home → a.positions[m'].kind = .home →
      a.modules[m].target = some p → a.modules[m'].target = some p → m = m')
    (hlive : ∀ m' p : Fin 16, a.modules[m].target ≠ some p → a.positions[m'].kind = .home →
      a.modules[m'].target = some p →
      a.positions[p].state ≠ .absent ∧ a.positions[p].state ≠ .failed ∧ a.positions[p].state ≠ .idle)
    (hm : a.positions[m].kind = .home)
    (hdest : ∀ y, dest = some y → a.positions[y].state = .idle ∧ a.modules[m].target ≠ some y) :
    b.TargetsLawful := by
  have hkind (p : Fin 16) : b.positions[p].kind = a.positions[p].kind := by
    by_cases hd : dest = some p
    · rw [h.entered p hd]
    · by_cases ht : a.modules[m].target = some p
      · rw [h.left p ht hd]
      · rw [h.rest p ht hd]
  have hfree (m' p : Fin 16) (hne : m' ≠ m) (hm' : a.positions[m'].kind = .home)
      (ht : a.modules[m'].target = some p) : dest ≠ some p := by
    intro hd
    obtain ⟨hidle, hnot⟩ := hdest p hd
    obtain ⟨-, -, h3⟩ := hlive m' p hnot hm' ht
    exact h3 hidle
  refine ⟨fun m1 m2 p h1 h2 ht1 ht2 => ?_, fun m1 p h1 ht1 => ?_⟩
  · rw [hkind] at h1 h2
    by_cases hm1 : m1 = m
    · by_cases hm2 : m2 = m
      · rw [hm1, hm2]
      · rw [hm1, h.target] at ht1
        rw [h.others m2 hm2] at ht2
        exact absurd ht1 (hfree m2 p hm2 h2 ht2)
    · rw [h.others m1 hm1] at ht1
      by_cases hm2 : m2 = m
      · rw [hm2, h.target] at ht2
        exact absurd ht2 (hfree m1 p hm1 h1 ht1)
      · rw [h.others m2 hm2] at ht2
        exact hone m1 m2 p h1 h2 ht1 ht2
  · rw [hkind] at h1
    by_cases hm1 : m1 = m
    · rw [hm1, h.target] at ht1
      rw [h.entered p ht1]
      simp [-Fin.getElem_fin, (hdest p ht1).1]
    · rw [h.others m1 hm1] at ht1
      have hnot : a.modules[m].target ≠ some p := fun ht => hm1 (hone m1 m p h1 hm ht1 ht)
      rw [h.rest p hnot (hfree m1 p hm1 h1 ht1)]
      exact hlive m1 p hnot h1 ht1

/-- After the automatic remap of the module of a position, the law holds. -/
theorem Link.LawfulBut.remapped (h : l.LawfulBut x) (hx : l.positions[x].state ≠ .idle) :
    (l.remapped x).TargetsLawful := by
  cases hm : l.targetedBy x with
  | none =>
    rw [Link.remapped, hm]
    exact h.lawful (.inl hm)
  | some m =>
    obtain ⟨hhome, htarget⟩ := targetedBy_eq_some hm
    rw [Link.remapped, hm]
    refine (move_moved l m l.idleSpare).lawful h.one (fun m' p hp hm' ht => ?_) hhome fun y hy => ?_
    · exact h.live m' p (fun he => hp (he ▸ htarget)) hm' ht
    · obtain ⟨-, hidle, -⟩ := (idleSpare_eq_some l y).mp hy
      refine ⟨hidle, fun ht => hx ?_⟩
      rw [htarget] at ht
      rw [Option.some.inj ht]
      exact hidle

theorem Link.TargetsLawful.move {m : Fin 16} (h : l.TargetsLawful) (hm : l.positions[m].kind = .home)
    (hp : l.positions[p].state = .idle) : (l.move m (some p)).TargetsLawful := by
  refine (move_moved l m (some p)).lawful h.one (fun m' r _ hm' ht => h.live m' r hm' ht) hm fun y hy => ?_
  obtain rfl : p = y := Option.some.inj hy
  exact ⟨hp, fun ht => (h.live m p hm ht).2.2 hp⟩

theorem Link.TargetsLawful.rearm (h : l.TargetsLawful) : l.rearm.TargetsLawful := by
  have hmodules : l.rearm.modules = l.modules := by rw [rearm_rest]
  refine ⟨fun m m' p hm hm' ht ht' => ?_, fun m p hm ht => ?_⟩
  · rw [rearm_position] at hm hm'
    rw [hmodules] at ht ht'
    exact h.one m m' p hm hm' ht ht'
  · rw [rearm_position] at hm
    rw [hmodules] at ht
    have hby : l.targeted p = true := by
      cases hnone : l.targetedBy p with
      | none => exact absurd ht (targetedBy_eq_none hnone m hm)
      | some m' => exact (targeted_iff l p).mpr ⟨m', hnone⟩
    rw [rearm_position]
    by_cases htrip : l.positions[p].state = .tripped
    · simp only [if_pos htrip, hby, if_true]
      decide
    · simp only [if_neg htrip]
      exact h.live m p hm ht

/-- A link of which no position is a home targets nothing. -/
theorem targetsLawful_of_homeless (h : ∀ p : Fin 16, l.positions[p].kind ≠ .home) : l.TargetsLawful :=
  ⟨fun m _ _ hm _ _ _ => absurd hm (h m), fun m _ hm _ => absurd hm (h m)⟩

end

/-! ### The law on every link -/

section
variable {s t u v : State} {k : Fin 8} {p x : Fin 16}

theorem State.TargetsLawful.links (hs : s.TargetsLawful) (h : t.links = s.links) : t.TargetsLawful := fun k => by
  rw [h]
  exact hs k

theorem State.TargetsLawful.placed (hs : s.TargetsLawful) (h : ∀ k : Fin 8, s.links[k].Placed t.links[k]) :
    t.TargetsLawful := fun k => (hs k).placed (h k)

theorem State.TargetsLawful.steady (hs : s.TargetsLawful) (h : Steady s t) : t.TargetsLawful :=
  hs.placed fun k => (h.links k).placed

theorem State.TargetsLawful.posts (hs : s.TargetsLawful) (h : OnlyPosts s t) : t.TargetsLawful :=
  hs.links (by rw [h.eq])

theorem State.TargetsLawful.setLink (hs : s.TargetsLawful) {l : Link} (hl : l.TargetsLawful) :
    (Machine.setLink k l s).TargetsLawful := fun j => by
  rw [setLink_getElem]
  split
  · exact hl
  · exact hs j

/-- The law but at one position of one link. -/
def State.LawfulBut (k : Fin 8) (x : Fin 16) (s : State) : Prop :=
  s.links[k].LawfulBut x ∧ ∀ j : Fin 8, j ≠ k → s.links[j].TargetsLawful

theorem State.TargetsLawful.setBut (hs : s.TargetsLawful) {l : Link} (hl : l.LawfulBut x) :
    (Machine.setLink k l s).LawfulBut k x :=
  ⟨by rw [setLink_self]; exact hl, fun j hj => by rw [setLink_other hj]; exact hs j⟩

theorem State.LawfulBut.links (hs : s.LawfulBut k x) (h : t.links = s.links) : t.LawfulBut k x := by
  unfold State.LawfulBut
  rw [h]
  exact hs

theorem autoRemap_lawful (hs : s.LawfulBut k x) (hx : s.links[k].positions[x].state ≠ .idle) :
    (autoRemap k x s).TargetsLawful := fun j => by
  rw [autoRemap_links]
  split
  · exact hs.1.remapped hx
  · rename_i hj
    exact hs.2 j (Ne.symm hj)

theorem enterAbsent_lawful (hs : s.TargetsLawful) : (enterAbsent k p s).TargetsLawful := by
  have hset := hs.setBut (k := k) (((hs k).lawfulBut p).setState
    (q := { s.links[k].positions[p] with state := .absent, missed := 0 }) rfl)
  have hstate : (Machine.setLink k (s.links[k].setPosition p
      { s.links[k].positions[p] with state := .absent, missed := 0 }) s).links[k].positions[p].state = .absent := by
    rw [setLink_self, setPosition_self]
  unfold enterAbsent
  dsimp only
  have hfault := postFault_links .moduleAbsent (.physicalPosition (physical k p))
    [s.links[k].positions[p].state.code, moduleDetail k (s.links[k].targetedBy p), s.links[k].positions[p].trips]
    (Machine.setLink k (s.links[k].setPosition p { s.links[k].positions[p] with state := .absent, missed := 0 }) s)
  refine autoRemap_lawful (hset.links hfault) ?_
  rw [hfault, hstate]
  decide

theorem missedReply_lawful (f : LinkFrame) (hs : s.TargetsLawful) : (missedReply k f s).TargetsLawful := by
  have hput (q : Position) (hk : q.kind = s.links[k].positions[f.pos].kind)
      (hst : q.state = s.links[k].positions[f.pos].state) :
      (Machine.setLink k (s.links[k].setPosition f.pos q) s).TargetsLawful :=
    hs.setLink ((hs k).placed (setPosition_placed hk hst))
  rw [missedReply_eq]
  dsimp only
  split
  · split
    · exact enterAbsent_lawful (hput _ (afterMiss_kind _ f) (afterMiss_state _ f))
    · exact hput _ (afterMiss_kind _ f) (afterMiss_state _ f)
  · exact hput _ (afterMiss_kind _ f) (afterMiss_state _ f)

theorem disableAll_placed (l : Link) : l.Placed l.disableAll :=
  ⟨fun p => ⟨disableAll_kind l p, disableAll_state l p⟩, fun _ => rfl⟩

theorem disableByPolicy_placed (k : Fin 8) (p : Fin 16) (s : State) (j : Fin 8) :
    s.links[j].Placed (disableByPolicy k p s).links[j] := by
  by_cases hj : j = k
  · subst hj
    rw [disableByPolicy_link, Link.tripDisable]
    split
    · exact setPosition_placed rfl rfl
    · exact disableAll_placed _
  · rw [disableByPolicy_other hj]
    split
    · exact disableAll_placed _
    · exact .refl _

theorem takeTrip_lawful (left : ModuleState) (hs : s.TargetsLawful) : (takeTrip k p left s).TargetsLawful := by
  have hcounted : ∃ d : State, d.TargetsLawful ∧ tripTaken k p left s =
      Machine.setLink k (d.links[k].setPosition p
        { d.links[k].positions[p] with
          state := if s.links[k].positions[p].newCount = 3 then .failed else .tripped }) d := by
    refine ⟨_, ?_, rfl⟩
    refine State.TargetsLawful.placed ?_ (disableByPolicy_placed k p _)
    refine State.TargetsLawful.links ?_ (postFault_links _ _ _ _)
    refine State.TargetsLawful.posts ?_ (postChanged_onlyPosts _ _ _)
    exact hs.setLink ((hs k).placed (setPosition_placed rfl rfl))
  obtain ⟨d, hd, heq⟩ := hcounted
  have hbut := ((hd k).lawfulBut p).setState (q := { d.links[k].positions[p] with
    state := if s.links[k].positions[p].newCount = 3 then .failed else .tripped }) rfl
  rw [takeTrip_count, heq]
  split
  · rename_i hthree
    rw [if_pos hthree] at hbut
    refine autoRemap_lawful (hd.setBut hbut) ?_
    rw [setLink_self, setPosition_self]
    simp
  · rename_i hfew
    rw [if_neg hfew] at hbut
    refine hd.setLink (hbut.lawful (.inr ?_))
    rw [setPosition_self]
    simp

theorem goodReply_lawful (f : LinkFrame) (trip : Bool) (hs : s.TargetsLawful) :
    (goodReply k f trip s).TargetsLawful := by
  have hkind := acknowledge_kind { s.links[k].positions[f.pos] with missed := 0 } f
  have hstate := acknowledge_state { s.links[k].positions[f.pos] with missed := 0 } f
  have hput (q : Position) (hk : q.kind = s.links[k].positions[f.pos].kind)
      (hst : q.state = s.links[k].positions[f.pos].state) :
      (Machine.setLink k (s.links[k].setPosition f.pos q) s).TargetsLawful :=
    hs.setLink ((hs k).placed (setPosition_placed hk hst))
  have hnew (q : Position) (hk : q.kind = s.links[k].positions[f.pos].kind)
      (hst : s.links[k].targetedBy f.pos = none ∨
        (q.state ≠ .absent ∧ q.state ≠ .failed ∧ q.state ≠ .idle)) :
      (Machine.setLink k (s.links[k].setPosition f.pos q) s).TargetsLawful := by
    refine hs.setLink ((((hs k).lawfulBut f.pos).setState hk).lawful ?_)
    rw [targetedBy_setPosition hk, setPosition_self]
    exact hst
  have hback (h : s.links[k].positions[f.pos].state = .absent) : s.links[k].targetedBy f.pos = none := by
    cases hby : s.links[k].targetedBy f.pos with
    | none => rfl
    | some m =>
      obtain ⟨hm, ht⟩ := targetedBy_eq_some hby
      exact absurd h ((hs k).live m f.pos hm ht).1
  cases trip with
  | false =>
    rw [goodReply_ok]
    generalize Position.acknowledge { s.links[k].positions[f.pos] with missed := 0 } f = q at hkind hstate ⊢
    unfold Position.heardOk
    split
    · cases hby : s.links[k].targetedBy f.pos with
      | none => exact hnew _ hkind (.inl hby)
      | some m =>
        have htargeted : s.links[k].targeted f.pos = true := (targeted_iff _ _).mpr ⟨m, hby⟩
        exact hnew _ hkind (.inr (by simp [-Fin.getElem_fin, htargeted]))
    · rename_i habsent
      exact hnew _ hkind (.inl (hback (hstate.symm.trans habsent)))
    · exact hput q hkind hstate
  | true =>
    generalize hq : Position.acknowledge { s.links[k].positions[f.pos] with missed := 0 } f = q at hkind hstate
    by_cases hold : q.state = .tripped ∨ q.state = .failed
    · rw [goodReply_old hq.symm hold]
      exact hput q hkind hstate
    · rw [not_or] at hold
      rw [goodReply_trip hq.symm hold.1 hold.2]
      refine takeTrip_lawful _ ?_
      unfold Position.back
      split
      · rename_i habsent
        exact hnew _ hkind (.inl (hback (hstate.symm.trans habsent)))
      · exact hput q hkind hstate

/-! ### Commands of the floor -/

theorem State.TargetsLawful.rearmLinks (hs : s.TargetsLawful) (ks : List (Fin 8)) :
    (Machine.rearmLinks ks s).TargetsLawful := fun j => by
  rw [rearmLinks_links]
  split
  · exact (hs j).rearm
  · exact hs j

theorem State.TargetsLawful.endCommand (hs : s.TargetsLawful) (code : Option ResultCode) (d : Nat) :
    (Machine.endCommand code d s).TargetsLawful :=
  State.TargetsLawful.posts (s := s.runEnded code d) hs (endCommand_onlyPosts code d s).1

theorem logicalModule_home {a : Nat} {m : Fin 16} (h : s.logicalModule a = some (k, m)) :
    s.links[k].positions[m].kind = .home := by
  unfold State.logicalModule at h
  split at h
  · dsimp only at h
    split at h
    · rename_i hhome
      obtain ⟨rfl, rfl⟩ := Prod.mk.inj (Option.some.inj h)
      exact hhome
    · cases h
  · cases h

theorem clearLogTaken_lawful (hs : s.TargetsLawful) : (clearLogTaken s).TargetsLawful := by
  have hset : (setDrive { s.drive with log := s.drive.log.inter s.limitStatus } s).TargetsLawful := hs
  exact (hset.posts (post_onlyPosts .limitReasons _)).endCommand none 0

theorem frameGone_steady (k : Fin 8) (s : State) : Steady s (frameGone k s) := by
  have hwire (w : Wire) : Steady s (setWire k w s) := setLink_steady ⟨fun _ => ⟨rfl, rfl, rfl, rfl⟩, fun _ => rfl⟩
  fun_cases frameGone k s with
  | case1 => exact hwire _
  | case2 => exact hwire _
  | case3 => exact (hwire _).trans (chooseFrame_steady k _)
  | case4 => exact .refl s

theorem stopFlash_steady (k : Fin 8) (m : Fin 16) (s : State) : Steady s (stopFlash k m s) := by
  refine setLink_steady ⟨fun _ => ⟨rfl, rfl, rfl, rfl⟩, fun j => ?_⟩
  by_cases hj : m = j
  · subst hj
    simp
  · have hne : m.val ≠ j.val := fun h => hj (Fin.ext h)
    simp [Vector.getElem_set_ne _ _ hne]

end

end Sys2Proof.Machine
end


section
/-! What every command does to the law of the targets and to the limit reason log (R103, R141); REMAP, RESTORE, LAMP TEST
and CLEAR LIMIT LOG (R118, R119, R141, R142). -/

namespace Sys2Proof.Machine

open Sys2Proof

/-! ### The limit reason log (R141) -/

/-- The six flags of the limit reasons. -/
def reasonFlags : List (Reasons → Bool) :=
  [Reasons.stage, Reasons.warm, Reasons.lwarn, Reasons.llow, Reasons.hot, Reasons.tripDisabled]

/-- The log keeps its flags, and takes up each reason that has come to hold. -/
def LogKeeps (s t : State) : Prop :=
  ∀ flag ∈ reasonFlags, (flag s.drive.log = true → flag t.drive.log = true) ∧
    (flag s.limitStatus = false → flag t.limitStatus = true → flag t.drive.log = true)

theorem union_flag {flag : Reasons → Bool} (h : flag ∈ reasonFlags) (a b : Reasons) :
    flag (a.union b) = (flag a || flag b) := by
  simp only [reasonFlags, List.mem_cons, List.not_mem_nil, or_false] at h
  rcases h with rfl | rfl | rfl | rfl | rfl | rfl <;> rfl

section
variable {x : Scope} {s t u v : State} {k : Fin 8}

theorem LogKeeps.of_eq (hlog : t.drive.log = s.drive.log) (hstatus : t.limitStatus = s.limitStatus) :
    LogKeeps s t := by
  intro flag _
  rw [hlog, hstatus]
  exact ⟨id, fun h h' => by rw [h] at h'; cases h'⟩

theorem LogKeeps.trans (h1 : LogKeeps s t) (h2 : LogKeeps t u) : LogKeeps s u := by
  intro flag hf
  obtain ⟨hkeep1, hset1⟩ := h1 flag hf
  obtain ⟨hkeep2, hset2⟩ := h2 flag hf
  refine ⟨fun h => hkeep2 (hkeep1 h), fun hs hu => ?_⟩
  cases ht : flag t.limitStatus with
  | false => exact hset2 ht hu
  | true => exact hkeep2 (hset1 hs ht)

/-- A log that has been joined with the reasons as they stand keeps its flags and has taken up every reason. -/
theorem LogKeeps.joined (h : t.drive.log = s.drive.log.union t.limitStatus) : LogKeeps s t := by
  intro flag hf
  rw [h, union_flag hf]
  exact ⟨fun h => by rw [h, Bool.true_or], fun _ h => by rw [h, Bool.or_true]⟩

/-- What every event of the floor keeps: the law of the targets, and the limit reason log. -/
structure FloorKept (s t : State) : Prop where
  targets : s.TargetsLawful → t.TargetsLawful
  log : LogKeeps s t

theorem FloorKept.trans (h1 : FloorKept s t) (h2 : FloorKept t u) : FloorKept s u :=
  ⟨fun h => h2.targets (h1.targets h), h1.log.trans h2.log⟩

theorem Steady.kept (h : Steady s t) : FloorKept s t :=
  ⟨fun hs => hs.steady h, .of_eq (by rw [h.drive]) h.limitStatus⟩

theorem FloorKept.refl (s : State) : FloorKept s s := (Steady.refl s).kept

/-- A step of the floor that has left the log is settled: the log takes up the reasons that hold. -/
theorem FloorKept.settle (ht : s.TargetsLawful → v.TargetsLawful) (hlog : v.drive.log = s.drive.log) (old : State) :
    FloorKept s (driveSettle old v) := by
  have heq := (driveSettle_onlyPosts old v).eq
  rw [presentStill_tape] at heq
  generalize driveSettle old v = w at heq ⊢
  have hlinks : w.links = v.links := by rw [heq]; rfl
  have hdrive : w.drive = { v.drive with log := v.drive.log.union v.limitStatus } := by rw [heq]; rfl
  refine ⟨fun hs => (ht hs).links hlinks, .joined ?_⟩
  have hany : w.anyTripDisabled = v.anyTripDisabled := by
    unfold State.anyTripDisabled
    rw [hlinks]
  have hstatus : w.limitStatus = v.limitStatus := by
    unfold State.limitStatus
    rw [hdrive, hany]
  rw [hstatus, hdrive, hlog]

theorem FloorKept.floorSettle (ht : s.TargetsLawful → v.TargetsLawful) (hlog : v.drive.log = s.drive.log)
    (old : State) : FloorKept s (Machine.floorSettle old v) :=
  (FloorKept.settle ht hlog old).trans (chooseAll_steady _).kept

theorem FloorKept.boardSettle (ht : s.TargetsLawful → v.TargetsLawful) (hlog : v.drive.log = s.drive.log)
    (old : State) (k : Fin 8) : FloorKept s (Machine.boardSettle old k v) := by
  have hp := postChanged_onlyPosts old (linkTable k) v
  exact FloorKept.floorSettle (fun hs => (ht hs).posts hp) (by rw [hp.eq]; exact hlog) old

/-- A change of the Drive Protection Unit that neither the log nor a reason shows. -/
theorem setDrive_kept {d : DriveUnit} (hlog : d.log = s.drive.log) (hgov : d.governor = s.drive.governor)
    (hwarm : d.warm.taken = s.drive.warm.taken) (hlwarn : d.lwarn.taken = s.drive.lwarn.taken)
    (hllow : d.llow.taken = s.drive.llow.taken) (hhot : d.hotLatch = s.drive.hotLatch) : FloorKept s (setDrive d s) := by
  refine ⟨id, .of_eq hlog ?_⟩
  have hany : (setDrive d s).anyTripDisabled = s.anyTripDisabled := rfl
  unfold State.limitStatus
  rw [hany]
  simp only [setDrive, hgov, hwarm, hlwarn, hllow, hhot]

theorem endCommand_steady (code : Option ResultCode) (d : Nat) (s : State) : Steady s (endCommand code d s) := by
  have hp := (endCommand_onlyPosts code d s).1.outside (x := awayFromFloor)
  exact .outside (x := awayFromFloor) rfl (hp.trans rfl)

theorem endCommand_kept (code : Option ResultCode) (d : Nat) (s : State) : FloorKept s (endCommand code d s) :=
  (endCommand_steady code d s).kept

/-! ### The Drive Protection Unit through replies -/

@[simp] theorem postFault_drive (kind : FaultKind) (subj : Subject) (d : List Nat) (s : State) :
    (postFault kind subj d s).drive = s.drive := (postFault_steady kind subj d s).drive

theorem autoRemap_drive (x : Fin 16) (s : State) : (autoRemap k x s).drive = s.drive := by
  fun_cases autoRemap k x s with
  | case1 => rfl
  | case2 => rfl
  | case3 => exact postFault_drive _ _ _ _

theorem enterAbsent_drive (p : Fin 16) (s : State) : (enterAbsent k p s).drive = s.drive :=
  (autoRemap_drive p _).trans (postFault_drive _ _ _ _)

theorem missedReply_drive (f : LinkFrame) (s : State) : (missedReply k f s).drive = s.drive := by
  rw [missedReply_eq]
  dsimp only
  split
  · split
    · exact enterAbsent_drive _ _
    · rfl
  · rfl

theorem disableByPolicy_drive (p : Fin 16) (s : State) : (disableByPolicy k p s).drive = s.drive := by
  fun_cases disableByPolicy k p s <;> rfl

theorem takeTrip_drive (p : Fin 16) (left : ModuleState) (s : State) : (takeTrip k p left s).drive = s.drive := by
  have htaken : (tripTaken k p left s).drive = s.drive := by
    refine (disableByPolicy_drive p _).trans ((postFault_drive _ _ _ _).trans ?_)
    rw [(postChanged_onlyPosts s [.moduleWord k p] _).eq]
    rfl
  rw [takeTrip_count]
  split
  · rw [autoRemap_drive, htaken]
  · exact htaken

theorem goodReply_drive (f : LinkFrame) (trip : Bool) (s : State) : (goodReply k f trip s).drive = s.drive := by
  cases trip with
  | false => rw [goodReply_ok]; rfl
  | true =>
    by_cases hold : ({ s.links[k].positions[f.pos] with missed := 0 }.acknowledge f).state = .tripped ∨
        ({ s.links[k].positions[f.pos] with missed := 0 }.acknowledge f).state = .failed
    · rw [goodReply_old rfl hold]
      rfl
    · rw [not_or] at hold
      rw [goodReply_trip rfl hold.1 hold.2]
      exact takeTrip_drive _ _ _

/-! ### The events of the floor -/

theorem moveByCommand_kept {m p : Fin 16} (hm : s.links[k].positions[m].kind = .home)
    (hp : s.links[k].positions[p].idleFitted = true) : FloorKept s (moveByCommand k m p s) := by
  have hend := endCommand_steady none 0 (setLink k (s.links[k].move m (some p)) s)
  refine FloorKept.boardSettle (s := s) (v := endDone (setLink k (s.links[k].move m (some p)) s)) (fun hs => ?_)
    (congrArg DriveUnit.log hend.drive) s k
  exact (hs.setLink ((hs k).move hm ((idleFitted_iff _).mp hp).2)).steady hend

theorem remapTaken_kept (s : State) : FloorKept s (remapTaken s) := by
  fun_cases remapTaken s with
  | case1 k m j p h1 h2 h3 => exact moveByCommand_kept (logicalModule_home h2) h3.2
  | _ => exact endCommand_kept _ _ _

theorem restoreTaken_kept (s : State) : FloorKept s (restoreTaken s) := by
  fun_cases restoreTaken s with
  | case3 k m h1 h2 h3 => exact moveByCommand_kept (logicalModule_home h1) h3
  | _ => exact endCommand_kept _ _ _

theorem rearmDone_kept (ks : List (Fin 8)) {y : State} (old : State) (ht : s.TargetsLawful → y.TargetsLawful)
    (hlog : y.drive.log = s.drive.log) : FloorKept s (floorSettle old (endDone (rearmLinks ks y))) := by
  have hend := endCommand_steady none 0 (rearmLinks ks y)
  refine FloorKept.floorSettle (fun hs => ((ht hs).rearmLinks ks).steady hend) ?_ old
  obtain ⟨hdrive, -, -⟩ := rearmLinks_rest ks y
  exact (congrArg DriveUnit.log (hend.drive.trans hdrive)).trans hlog

theorem rearmTaken_kept (s : State) : FloorKept s (rearmTaken s) := by
  fun_cases rearmTaken s with
  | case2 ks => exact rearmDone_kept ks s id rfl
  | case4 => exact setDrive_kept rfl rfl rfl rfl rfl rfl
  | _ => exact endCommand_kept _ _ _

theorem testNext_kept (ks : List (Fin 8)) (s : State) : FloorKept s (testNext ks s) := by
  have hset (t : Option LampTest) : FloorKept s (setDrive { s.drive with lampTest := t } s) :=
    setDrive_kept rfl rfl rfl rfl rfl rfl
  fun_cases testNext ks s with
  | case1 => exact (hset _).trans (chooseAll_steady _).kept
  | case2 => exact ((hset _).trans (endCommand_kept _ _ _)).trans (chooseAll_steady _).kept

theorem lampTestTaken_kept (s : State) : FloorKept s (lampTestTaken s) := by
  fun_cases lampTestTaken s with
  | case3 ks => exact testNext_kept ks s
  | _ => exact endCommand_kept _ _ _

theorem quietLink_lawful (k : Fin 8) (hs : s.TargetsLawful) : (quietLink k s).TargetsLawful :=
  hs.setLink ((hs k).placed ⟨fun _ => ⟨rfl, rfl⟩, fun _ => rfl⟩)

theorem goodReply_kept (k : Fin 8) (f : LinkFrame) (trip : Bool) (s : State) :
    FloorKept s (boardSettle s k (goodReply k f trip (quietLink k s))) :=
  FloorKept.boardSettle (fun hs => goodReply_lawful f trip (quietLink_lawful k hs))
    (congrArg DriveUnit.log (goodReply_drive f trip _)) s k

theorem missedReply_kept (k : Fin 8) (f : LinkFrame) (s : State) :
    FloorKept s (boardSettle s k (missedReply k f (quietLink k s))) :=
  FloorKept.boardSettle (fun hs => missedReply_lawful f (quietLink_lawful k hs))
    (congrArg DriveUnit.log (missedReply_drive f _)) s k

theorem failHotCheck_kept (c : Comparator) (level : Bool) (s : State) : FloorKept s (failHotCheck c level s) := by
  fun_cases failHotCheck c level s with
  | case2 =>
    have hset : FloorKept s (setDrive { s.drive with hotCheck := none } s) := setDrive_kept rfl rfl rfl rfl rfl rfl
    exact hset.trans (endCommand_kept _ _ _)
  | _ => exact .refl s

theorem changeInput_kept (c : Comparator) (level : Bool) (s : State) : FloorKept s (changeInput c level s) := by
  have hset : FloorKept s
      (setDrive (s.drive.setFilter c ((s.drive.filter c).change s.ctl.timeBase level)) s) := by
    cases c <;> exact setDrive_kept rfl rfl rfl rfl rfl rfl
  exact hset.trans (failHotCheck_kept c level _)

theorem takeFilter_kept (c : Comparator) (s : State) : FloorKept s (floorSettle s (takeFilter c s)) := by
  have htaken := takeFilter_taken c s
  exact FloorKept.floorSettle (fun hs => hs.links htaken.links) htaken.step.limitLog s

theorem takeSample_kept (s : State) : FloorKept s (takeSample s) := by
  unfold takeSample
  generalize s.drive.governor.sample s.drive.warm.taken s.drive.lwarn.taken s.sampleLoad = g
  have hlinks : (setDrive { s.drive with governor := g } s).links = s.links := rfl
  have hlog : (setDrive { s.drive with governor := g } s).drive.log = s.drive.log := rfl
  exact FloorKept.floorSettle (fun hs => hs.links hlinks) hlog s

/-! ### LOAD -/

theorem cleared_homeless (p : Fin 16) : Link.cleared.positions[p].kind ≠ .home := by
  simp [Link.cleared, Position.cleared]

theorem loadRefused_steady (code : ResultCode) (d : Nat) (s : State) : Steady s (loadRefused code d s) :=
  Steady.trans (t := { s with tbl := InstrumentTable.empty, load := .idle }) ⟨rfl, fun _ => .refl _⟩
    (.outside (x := awayFromFloor) rfl (loadRefused_outside code d s))

theorem readOn_steady (d : DirectoryRead) (s : State) : Steady s (readOn d s) :=
  Steady.trans (t := { s with load := .phase1 d }) ⟨rfl, fun _ => .refl _⟩
    (.outside (x := awayFromFloor) rfl (readOn_outside d s))

theorem clearForLoad_kept (s : State) : FloorKept s (clearForLoad s) := by
  have hposted (u : State) : Steady u
      (post .driveState (postAll (moduleTable ++ lineTable ++ [.tickerState]) (setPartState .loading u))) := by
    refine .outside (x := awayFromFloor) rfl ?_
    rw [post_outside, postAll_outside, setPartState_outside]
  unfold clearForLoad
  dsimp only
  refine FloorKept.settle (fun _ => State.TargetsLawful.steady ?_ (hposted _)) ?_ s
  · intro k
    simp only [Fin.getElem_fin, Vector.getElem_ofFn]
    exact targetsLawful_of_homeless cleared_homeless
  · rw [(hposted _).drive]

theorem loadTaken_kept (s : State) : FloorKept s (loadTaken s) := by
  fun_cases loadTaken s with
  | case1 => exact (clearForLoad_kept s).trans (loadRefused_steady _ _ _).kept
  | case2 => exact (clearForLoad_kept s).trans (readOn_steady _ _).kept

theorem endPhase1_steady (header : List Word) (rs : List Instrument) (s : State) :
    Steady s (endPhase1 header rs s) := by
  have hbegun : Steady s (phase1Ended header rs s) := ⟨rfl, fun _ => .refl _⟩
  rw [endPhase1_eq]
  exact hbegun.trans ((Steady.outside (x := awayFromFloor) rfl (fillWatchLists_outside rfl header _)).trans
    (pumpCapture_steady _))

theorem takeDirectoryWord_steady (w : Word) (good : Bool) (s : State) : Steady s (takeDirectoryWord w good s) := by
  fun_cases takeDirectoryWord w good s with
  | case1 => exact loadRefused_steady _ _ _
  | case2 d =>
    fun_cases takeHeaderWord d w s with
    | case1 => exact loadRefused_steady _ _ _
    | case2 => exact readOn_steady _ _
  | case3 d =>
    fun_cases takeEntryWord d w s with
    | case1 => exact readOn_steady _ _
    | case2 => exact loadRefused_steady _ _ _
    | case3 => exact readOn_steady _ _
    | case4 => exact endPhase1_steady _ _ _
  | case4 => exact .refl s

theorem linkUp_lawful (header : List Word) (k : Fin 8) (s : State) : (s.linkUp header k).TargetsLawful := by
  have htarget (m : Fin 16) : (s.linkUp header k).modules[m].target = some m := by simp [State.linkUp]
  have hstate (p : Fin 16) : (s.linkUp header k).positions[p].state = .unknown := by simp [State.linkUp]
  refine ⟨fun m m' p _ _ ht ht' => ?_, fun m p _ _ => by rw [hstate]; decide⟩
  rw [htarget] at ht ht'
  exact (Option.some.inj ht).trans (Option.some.inj ht').symm

theorem loadEnd_kept (header : List Word) (s : State) : FloorKept s (loadEnd header s) := by
  have hposted (u : State) : Steady u (endDone (setPartState .running (postAll (moduleTable ++ lineTable) u))) := by
    refine .outside (x := awayFromFloor) rfl ?_
    rw [endDone_outside, setPartState_outside, postAll_outside]
  have htape (t : TickerUnit) : Steady (loadUp header s) (updateTape t (loadUp header s)) :=
    .outside (x := awayFromFloor) rfl (updateTape_outside rfl t _)
  unfold loadEnd
  dsimp only
  refine FloorKept.floorSettle (fun _ => ?_) ?_ s
  · refine State.TargetsLawful.steady ?_ (hposted _)
    have hup : (loadUp header s).TargetsLawful := fun k => by
      simp only [loadUp, linesUp, linksUp, Fin.getElem_fin, Vector.getElem_ofFn]
      exact linkUp_lawful header _ _
    exact fun k => (hup.steady (htape _)) k
  · rw [(hposted _).drive]
    change (updateTape _ (loadUp header s)).drive.log = _
    rw [(htape _).drive]
    rfl

theorem fieldsSet_steady (r : RecordRead) (got : List (Word × Bool)) (s : State) : Steady s (fieldsSet r got s) := by
  have hset : Steady s (match s.instrument? r.instr with
      | none => s
      | some i => setInstrument r.instr (setFields got i) s) := by
    split
    · exact .refl s
    · exact setInstrument_steady _ _ _
  unfold fieldsSet
  dsimp only
  split
  · exact hset.trans (postFault_steady _ _ _ _)
  · exact hset

theorem takeRecordWord_kept (w : Word) (good : Bool) (s : State) : FloorKept s (takeRecordWord w good s) := by
  have hload (u : State) (p : RecordRead) : FloorKept u { u with load := .phase2 p } :=
    Steady.kept (t := { u with load := .phase2 p }) ⟨rfl, fun _ => .refl _⟩
  fun_cases takeRecordWord w good s with
  | case1 => exact hload s _
  | case2 r hl got =>
    rw [endRecordRead_eq]
    split
    · exact hload s _
    · refine (fieldsSet_steady r got s).kept.trans ?_
      fun_cases nextInstrument r (fieldsSet r got s) with
      | case1 => exact hload _ _
      | case2 => exact loadEnd_kept _ _
  | case3 => exact .refl s

/-! ### Resets -/

theorem beginReset_kept (port : Option PortCycle) (s : State) : FloorKept s (beginReset port s) := by
  have hlinks (k : Fin 8) : (beginReset port s).links[k] = s.links[k].resetBegun := by
    simp [beginReset]
  have hsteady (k : Fin 8) : s.links[k].Steady (beginReset port s).links[k] := by
    rw [hlinks]
    exact ⟨fun _ => ⟨rfl, rfl, rfl, rfl⟩, fun _ => rfl⟩
  have hany : (beginReset port s).anyTripDisabled = s.anyTripDisabled := by
    unfold State.anyTripDisabled
    refine congrArg all8.any (funext fun k => ?_)
    rw [(hsteady k).driveEnable]
  refine ⟨fun hs => hs.placed fun k => (hsteady k).placed, .of_eq rfl ?_⟩
  unfold State.limitStatus
  rw [hany]
  rfl

theorem abandonHost_steady (s : State) : Steady s (abandonHost s) := by
  obtain ⟨b, hb⟩ := abandonHost_eq s
  rw [hb]
  exact ⟨rfl, fun _ => .refl _⟩

/-- The events whose own rule clears flags of the limit reason log. -/
def clearsLog : Instr → Bool
  | .clearLimitLog | .resetEnd _ => true
  | _ => false

/-- Every command but these two keeps the law of the targets and the limit reason log. -/
theorem exec_floorKept {c : Instr} (hc : clearsLog c = false) (h : exec c s = .next t) : FloorKept s t := by
  have keep {u : State} (h : answer u = .next t) (hu : FloorKept s u) : FloorKept s t := by
    cases h
    exact hu.trans (Steady.outside (x := awayFromFloor) rfl (grant_outside u)).kept
  have hout (u v : State) (ho : v.outside noScope = u.outside noScope) (hu : FloorKept s u) : FloorKept s v :=
    hu.trans (Steady.outside rfl ho).kept
  have hcommand {owning : State → State} {codes : Nat → Bool} (ho : ∀ u, FloorKept u (owning u)) :
      FloorKept s (onCommand codes owning s) :=
    onCommand_blocks hout (fun u hu => hu.trans (ho u)) codes (.refl s)
  by_cases hspared : unscoped c = false ∧ (blockScope c).floor = false
  · exact (Steady.blocks hspared.2 (exec_blocks hspared.1 h)).kept
  cases c with
  | externalReset =>
    refine keep h ?_
    split
    · exact .refl s
    · exact (beginReset_kept (cutPort s.mem.port) s).trans (Steady.kept ⟨rfl, fun _ => .refl _⟩)
  | supplyLowReset =>
    refine keep h ?_
    split
    · exact .refl s
    · exact ((abandonHost_steady s).kept.trans (beginReset_kept none _)).trans (Steady.kept ⟨rfl, fun _ => .refl _⟩)
  | powerOnReset p =>
    refine keep h ?_
    have hbegun := ((abandonHost_steady s).kept.trans (beginReset_kept none _))
    unfold beginPowerOn startClearing
    dsimp only
    refine FloorKept.trans (hbegun.trans (Steady.kept ?_))
      (Steady.outside (x := awayFromFloor) rfl (placeClear_outside _)).kept
    exact ⟨rfl, fun _ => .refl _⟩
  | load => exact keep h (hcommand loadTaken_kept)
  | close => exact keep h (hcommand fun u => (closeDay_steady u).kept)
  | directoryReadReturn =>
    refine keep h ?_
    split
    · split
      · exact .refl s
      · exact (loadRefused_steady _ _ _).kept
    · refine onPartRead_blocks hout (fun u hu => hu.trans (Steady.outside (x := awayFromFloor) rfl ?_).kept)
        (fun w g u hu => hu.trans (takeDirectoryWord_steady w g u).kept) _ _ (.refl s)
      fun_cases pumpDirectory u with
      | case1 d => fun_cases placeDirectory d u <;> rfl
      | case2 => rfl
  | phase2ReadReturn =>
    exact keep h (onPartRead_blocks hout (fun u hu => hu.trans (pumpCapture_steady u).kept)
      (fun w g u hu => (hu.trans (takeRecordWord_kept w g u)).trans (pumpCapture_steady _).kept) _ _ (.refl s))
  | fetchReadReturn =>
    exact keep h (onPartRead_blocks hout (fun u hu => hu.trans (pumpCapture_steady u).kept)
      (fun w g u hu => (hu.trans (takeFetched_steady w g u).kept).trans (pumpCapture_steady _).kept) _ _ (.refl s))
  | commitWrite =>
    refine keep h (onCaptureWord_blocks (fun u hu => hu.trans (Steady.kept ⟨rfl, fun _ => .refl _⟩))
      (fun i n w u hu => hu.trans ?_) _ (.refl s))
    exact ((byStanding_steady (fun v => takeCommit_steady i w v) i u).trans (pumpCapture_steady _)).kept
  | confirm =>
    refine keep h (hcommand fun u => ?_)
    fun_cases settleHold confirmHold u with
    | case1 | case2 => exact endCommand_kept _ _ u
    | case3 i r h0 d hd =>
      have hset : Steady u (setInstrument i { takeTrade d.price d.size d.rounding r with hold := none } u) :=
        setInstrument_steady _ _ _
      refine FloorKept.trans (Steady.kept ?_) (endCommand_kept none 0 _)
      exact hset.trans (notify_steady i _ _)
  | remap => exact keep h (hcommand remapTaken_kept)
  | restore => exact keep h (hcommand restoreTaken_kept)
  | rearm => exact keep h (hcommand rearmTaken_kept)
  | lampTest => exact keep h (hcommand lampTestTaken_kept)
  | frameSent k => exact keep h (frameGone_steady k s).kept
  | pollDue k => exact keep h (chooseFrame_steady k s).kept
  | reply k b0 b1 b2 =>
    refine keep h ?_
    split
    · dsimp only
      split
      · exact goodReply_kept k _ _ s
      · exact missedReply_kept k _ s
    · exact .refl s
  | replyTimeout k =>
    refine keep h ?_
    split
    · rename_i f t _
      split
      · exact missedReply_kept k f s
      · exact .refl s
    · exact .refl s
  | flashTimerExpiry k m =>
    refine keep h ?_
    split
    · exact .refl s
    · split
      · exact ((stopFlash_steady k m s).trans (chooseFrame_steady k _)).kept
      · exact .refl s
  | comparatorInputChange c level => exact keep h (by split; exacts [.refl s, changeInput_kept c level s])
  | filterTaken c =>
    refine keep h ?_
    split
    · exact .refl s
    · split
      exacts [takeFilter_kept c s, .refl s]
  | hotCheckEnd =>
    refine keep h ?_
    split
    · exact .refl s
    · rename_i hot _
      split
      · exact rearmDone_kept hot.links s (fun hs => hs.links rfl) rfl
      · exact .refl s
  | governorSample => exact keep h (by split; exacts [takeSample_kept s, .refl s])
  | lampTestLinkEnd =>
    refine keep h ?_
    split
    · exact .refl s
    · split
      exacts [testNext_kept _ s, .refl s]
  | clearLimitLog | resetEnd _ => cases hc
  | _ => exact absurd ⟨rfl, rfl⟩ hspared

theorem exec_targetsLawful {c : Instr} (hs : s.TargetsLawful) (h : exec c s = .next t) : t.TargetsLawful := by
  by_cases hc : clearsLog c = false
  · exact (exec_floorKept hc h).targets hs
  have keep {u : State} (h : answer u = .next t) (hu : u.TargetsLawful) : t.TargetsLawful := by
    cases h
    exact hu.links (grant_links u)
  cases c with
  | clearLimitLog =>
    exact keep h (onCommand_blocks (fun u v ho hu => hu.steady (Steady.outside rfl ho))
      (fun u hu => clearLogTaken_lawful hu) _ hs)
  | resetEnd p =>
    refine keep h ?_
    split
    · refine State.TargetsLawful.posts (s := resetBlocks p s) (fun k => ?_) (postAll_onlyPosts _ _)
      simp only [resetBlocks, Fin.getElem_fin, Vector.getElem_replicate]
      exact targetsLawful_of_homeless cleared_homeless
    · exact hs
  | _ => exact absurd rfl hc

/-- Settles O41: the two commands, and the law of the targets through every step. -/
theorem modulesMoved : Obligations.ModulesMoved :=
  ⟨fun _ _ ho hstate => modules_commanded ho hstate, fun _ _ hs h =>
    step_keeps (p := State.TargetsLawful) (fun _ _ hs => hs.links rfl) exec_targetsLawful hs h⟩

/-! ### The log through CLEAR LIMIT LOG and the end of a reset -/

theorem outside_limitStatus (h : t.outside noScope = s.outside noScope) : t.limitStatus = s.limitStatus :=
  (Steady.outside (x := noScope) rfl h).limitStatus

theorem clearLogTaken_limitStatus (s : State) : (clearLogTaken s).limitStatus = s.limitStatus := by
  have hend := (endCommand_steady none 0 (post .limitReasons
    (setDrive { s.drive with log := s.drive.log.inter s.limitStatus } s))).limitStatus
  have hpost : (post .limitReasons (setDrive { s.drive with log := s.drive.log.inter s.limitStatus } s)).limitStatus =
      (setDrive { s.drive with log := s.drive.log.inter s.limitStatus } s).limitStatus :=
    outside_limitStatus (post_outside _ _)
  exact hend.trans hpost

theorem cleared_driveEnable : Link.cleared.driveEnable = true :=
  (driveEnable_iff _).mpr fun p hp => by simp [Link.cleared, Position.cleared] at hp

theorem resetBlocks_limitStatus (p : Straps) (s : State) : (resetBlocks p s).limitStatus = Reasons.clear := by
  have hany : (resetBlocks p s).anyTripDisabled = false := by
    unfold State.anyTripDisabled
    rw [List.any_eq_false]
    intro k _
    simp only [resetBlocks, Fin.getElem_fin, Vector.getElem_replicate, cleared_driveEnable]
    decide
  unfold State.limitStatus
  rw [hany]
  rfl

/-- The flags of the log through any command. -/
theorem exec_log {c : Instr} (h : exec c s = .next t) {flag : Reasons → Bool} (hf : flag ∈ reasonFlags) :
    (c ≠ .clearLimitLog → (∀ p, c ≠ .resetEnd p) → flag s.drive.log = true → flag t.drive.log = true) ∧
      (flag s.limitStatus = false → flag t.limitStatus = true → flag t.drive.log = true) := by
  by_cases hc : clearsLog c = false
  · obtain ⟨hkeep, hset⟩ := (exec_floorKept hc h).log flag hf
    exact ⟨fun _ _ => hkeep, hset⟩
  have hgrant (u : State) : (grant u).limitStatus = u.limitStatus := outside_limitStatus (grant_outside u)
  have same (hs : t.limitStatus = s.limitStatus) (h0 : flag s.limitStatus = false)
      (h1 : flag t.limitStatus = true) : flag t.drive.log = true := by
    rw [hs, h0] at h1
    cases h1
  cases c with
  | clearLimitLog =>
    refine ⟨fun hne => absurd rfl hne, same ?_⟩
    obtain rfl : grant (onCommand (· == 9) clearLogTaken s) = t := by cases h; rfl
    rw [hgrant]
    exact onCommand_blocks (p := fun u => u.limitStatus = s.limitStatus)
      (fun u v ho hu => (outside_limitStatus ho).trans hu) (fun u hu => (clearLogTaken_limitStatus u).trans hu) _ rfl
  | resetEnd p =>
    refine ⟨fun _ hne => absurd rfl (hne p), ?_⟩
    obtain rfl : grant (if s.resetOver then postAll resetPosts (resetBlocks p s) else s) = t := by cases h; rfl
    split
    · intro _ hflag
      have hstatus : (grant (postAll resetPosts (resetBlocks p s))).limitStatus = Reasons.clear := by
        rw [hgrant, outside_limitStatus (postAll_outside _ _), resetBlocks_limitStatus]
      rw [hstatus] at hflag
      simp only [reasonFlags, List.mem_cons, List.not_mem_nil, or_false] at hf
      rcases hf with rfl | rfl | rfl | rfl | rfl | rfl <;> cases hflag
    · intro h0 h1
      rw [hgrant, h0] at h1
      cases h1
  | _ => exact absurd rfl hc

/-! ### LAMP TEST and CLEAR LIMIT LOG -/

theorem lampTestTaken_eq {ks : List (Fin 8)} (h : linksNamed (u.param 0) = some ks) :
    lampTestTaken u = if u.floorDark then endRefused .driveOff 0 u else testNext ks u := by
  unfold lampTestTaken
  rw [h]

theorem exec_lampTestLinkEnd {test : LampTest} (ht : s.drive.lampTest = some test) (hreset : s.rst.inReset = false)
    (h5 : 5000 ≤ since s test.since) : exec .lampTestLinkEnd s = .next (grant (testNext test.rest s)) := by
  change execLampTestLinkEnd s = _
  have hdue : (!s.rst.inReset && decide (5000 ≤ since s test.since)) = true := by simp [hreset, h5]
  simp only [execLampTestLinkEnd, ht, hdue, if_true, answer_eq]

/-- Settles O48: what every event does to the log, the commands, and the end of a link under test. -/
theorem lampTestAndLimitLog : Obligations.LampTestAndLimitLog := by
  refine ⟨fun c s t h flag hf => exec_log h hf, fun s => rfl, ?_⟩
  intro w s x named testing
  refine ⟨fun ho hc hstate => ?_, fun t ht hreset h5 => ⟨fun hrest => ?_, fun hrest => ?_⟩, fun ho hc hstate => ?_,
    fun v => ⟨chooseAll_same v, chooseAll_eq v⟩⟩
  · obtain ⟨u, hu, ht⟩ := onCommand_takes (codes := (· == 8)) (owning := lampTestTaken) ho (by simp [hc])
      (by simp [hc, unknownCode]) (fun h => absurd h hstate)
    have hexec : exec .lampTest s = .next (grant (lampTestTaken u)) := congrArg answer hu
    have hx : u.param 0 = x := ht.params 0
    have hdrive : u.drive = s.drive := by rw [ht.posts.eq]; rfl
    have htime : u.ctl.timeBase = s.ctl.timeBase := by rw [ht.posts.eq]; rfl
    have hdark : u.floorDark = (s.drive.hotLatch || s.drive.llow.taken) := by rw [State.floorDark, hdrive]
    refine ⟨fun h8 hff => ?_, fun ks hks => ⟨fun hoff => ?_, fun hhot hllow => ?_⟩⟩
    · refine answersEnded_of ?_ ht.posts
      rw [hexec, lampTestTaken, hx, linksNamed_bad h8 hff]
      rfl
    · refine answersEnded_of ?_ ht.posts
      rw [hexec, lampTestTaken_eq (by rw [hx]; exact linksNamed_some hks), hdark,
        if_pos (by simpa [Bool.or_eq_true] using hoff)]
      rfl
    · refine ⟨setDrive { s.drive with lampTest := testing ks } u, ?_, ht.posted, ht.change (setDrive _) fun _ _ _ => rfl⟩
      rw [hexec, lampTestTaken_eq (by rw [hx]; exact linksNamed_some hks), hdark, hhot, hllow, if_neg (by decide)]
      rcases hks with ⟨k, -, rfl⟩ | ⟨-, rfl⟩
      · rw [testNext, hdrive, htime]
      · rw [testNext, hdrive, htime]
  · rw [exec_lampTestLinkEnd ht hreset h5]
    cases hks : t.rest with
    | nil => exact absurd hks hrest
    | cons k rest => rfl
  · refine ⟨endDone (setDrive { s.drive with lampTest := none } s), ?_, endDone_posted _,
      (endCommand_onlyPosts none 0 _).1⟩
    rw [exec_lampTestLinkEnd ht hreset h5, hrest, testNext]
  · obtain ⟨u, hu, ht⟩ := onCommand_takes (codes := (· == 9)) (owning := clearLogTaken) ho (by simp [hc])
      (by simp [hc, unknownCode]) (fun h => absurd h hstate)
    have hexec : exec .clearLimitLog s = .next (grant (clearLogTaken u)) := congrArg answer hu
    have hdrive : u.drive = s.drive := by rw [ht.posts.eq]; rfl
    have hstatus : u.limitStatus = s.limitStatus := by
      have hlinks : u.links = s.links := by rw [ht.posts.eq]; rfl
      rw [State.limitStatus, State.limitStatus, State.anyTripDisabled, State.anyTripDisabled, hdrive, hlinks]
    rw [clearLogTaken, hdrive, hstatus] at hexec
    have hposts := (ht.change (setDrive { s.drive with log := s.drive.log.inter s.limitStatus })
      fun _ _ _ => rfl).trans (post_onlyPosts .limitReasons _)
    exact ⟨_, hexec, posted_endCommand (by decide) (post_posted _ _) none 0, endDone_posted _, hposts.endCommand none 0⟩

end

end Sys2Proof.Machine
end


section
/-! Change notices, exactly: the print, the QUOTE entries of the watching lines, the target images (R84, R106, R145,
R146, R177). -/

namespace Sys2Proof.Machine

open Sys2Proof

/-! ### What a commit's application reaches -/

/-- `u` is `s` but for what the market's events reach: the record of instrument `i`, the Print Queue, the outbound queues,
the links, the Capture Unit and the port; the faults `fs`, posted in order; and posting. -/
structure MarketWork (i : Nat) (s : State) (fs : List Posting) (u : State) : Prop where
  rest : u =
    { s with
      mem := { s.mem with port := u.mem.port, parts := u.mem.parts }
      ctl := { s.ctl with log := u.ctl.log, writeBack := u.ctl.writeBack }
      tbl := { s.tbl with instruments := u.tbl.instruments }
      cap := u.cap
      links := u.links
      tape := { s.tape with queue := u.tape.queue }
      lines := u.lines }
  count : u.tbl.instruments.length = s.tbl.instruments.length
  others : ∀ j, j ≠ i → u.instrument? j = s.instrument? j
  lines : ∀ n : Fin 16, u.lines[n] = { s.lines[n] with out := u.lines[n].out }
  kept : s.ctl.writeBack.Kept u.ctl.writeBack
  ledger : Ledger s fs u
  parts : ∃ l, u.mem.parts = s.mem.parts ++ l ∧ ∀ p ∈ l, p.source = .writeBack

section
variable {i : Nat} {s t u v : State} {fs : List Posting} {r r' : Instrument}

/-- Write-backs placed behind write-backs. -/
theorem parts_trans {a b c : List PartCycle} (h1 : ∃ l, b = a ++ l ∧ ∀ p ∈ l, p.source = .writeBack)
    (h2 : ∃ l, c = b ++ l ∧ ∀ p ∈ l, p.source = .writeBack) : ∃ l, c = a ++ l ∧ ∀ p ∈ l, p.source = .writeBack := by
  obtain ⟨l, rfl, hl⟩ := h1
  obtain ⟨m, rfl, hm⟩ := h2
  exact ⟨l ++ m, List.append_assoc .., fun p hp => (List.mem_append.mp hp).elim (hl p) (hm p)⟩

theorem MarketWork.refl (i : Nat) (s : State) : MarketWork i s [] s :=
  ⟨rfl, rfl, fun _ _ => rfl, fun _ => rfl, .refl _, .nil rfl, [], by simp, by simp⟩

theorem MarketWork.setInstrument (h : MarketWork i s fs u) (r : Instrument) :
    MarketWork i s fs (setInstrument i r u) := by
  refine ⟨?_, ?_, fun j hj => ?_, h.lines, h.kept, h.ledger.kept rfl (.refl _), h.parts⟩
  · conv_lhs => rw [h.rest]
    rfl
  · rw [setInstrument_tbl, List.length_set]
    exact h.count
  · rw [setInstrument_instrument?, if_neg (Ne.symm hj)]
    exact h.others j hj

theorem MarketWork.posts (h : MarketWork i s fs u) (hp : OnlyPosts u v) : MarketWork i s fs v := by
  have hv := hp.eq
  refine ⟨?_, ?_, fun j hj => ?_, fun n => ?_, h.kept.trans hp.kept, h.ledger.kept (by rw [hv]) hp.kept,
    parts_trans h.parts hp.parts⟩
  · rw [hv]
    conv_lhs => rw [h.rest]
  · rw [hv]
    exact h.count
  · rw [hv]
    exact h.others j hj
  · rw [hv]
    exact h.lines n

theorem MarketWork.fault (h : MarketWork i s fs u) (k : FaultKind) (subj : Subject) (d : List Nat) :
    MarketWork i s (fs ++ [(k, subj, d)]) (postFault k subj d u) := by
  have hp := postFault_onlyPosts k subj d u
  have hl := h.ledger.fault (by rw [h.rest]) (by rw [h.rest]) k subj d
  generalize postFault k subj d u = v at hp hl
  have hv := hp.eq
  refine ⟨?_, ?_, fun j hj => ?_, fun n => ?_, h.kept.trans hp.kept, hl,
    parts_trans h.parts hp.parts⟩
  · rw [hv]
    conv_lhs => rw [h.rest]
    rfl
  · rw [hv]
    exact h.count
  · rw [hv]
    exact h.others j hj
  · rw [hv]
    exact h.lines n

theorem MarketWork.setCap (h : MarketWork i s fs u) (c : CaptureUnit) : MarketWork i s fs (setCap c u) := by
  refine ⟨?_, h.count, h.others, h.lines, h.kept, h.ledger.kept rfl (.refl _), h.parts⟩
  conv_lhs => rw [h.rest]
  rfl

theorem MarketWork.setQueue (h : MarketWork i s fs u) (q : List Print) :
    MarketWork i s fs { u with tape := { u.tape with queue := q } } := by
  refine ⟨?_, h.count, h.others, h.lines, h.kept, h.ledger.kept rfl (.refl _), h.parts⟩
  conv_lhs => rw [h.rest]

theorem MarketWork.links (h : MarketWork i s fs u) (ls : Vector Link 8) : MarketWork i s fs { u with links := ls } := by
  refine ⟨?_, h.count, h.others, h.lines, h.kept, h.ledger.kept rfl (.refl _), h.parts⟩
  conv_lhs => rw [h.rest]

theorem MarketWork.setLines (h : MarketWork i s fs u) {ls : Vector Line 16}
    (hls : ∀ n : Fin 16, ls[n] = { u.lines[n] with out := ls[n].out }) : MarketWork i s fs { u with lines := ls } := by
  refine ⟨?_, h.count, h.others, fun n => ?_, h.kept, h.ledger.kept rfl (.refl _), h.parts⟩
  · conv_lhs => rw [h.rest]
  · refine (hls n).trans ?_
    rw [h.lines n]

theorem MarketWork.boardMap (h : MarketWork i s fs u) : u.tbl.boardMap = s.tbl.boardMap := by rw [h.rest]
theorem MarketWork.timeBase (h : MarketWork i s fs u) : u.ctl.timeBase = s.ctl.timeBase := by rw [h.rest]
theorem MarketWork.flashTime (h : MarketWork i s fs u) : u.flashTime = s.flashTime := by rw [h.rest]

/-! ### The print (R145, R146) -/

/-- The fault of a print that finds the Print Queue full. -/
def printFaults (i : Nat) (r : Instrument) (part : Option TradePart) (full : Bool) : List Posting :=
  match part with
  | none => []
  | some p =>
    if r.eligible = true ∧ full = true then [(.printDropped, .instrument i, [p.price, p.size, p.captured.toNat])] else []

/-- What the print of a change notice does to the tape and to the record. -/
structure Printed (i : Nat) (r r' : Instrument) (part : Option TradePart) (s t : State) : Prop where
  record : t.instrument? i = some r'
  value : r' = { r with full := r'.full }
  links : t.links = s.links
  lines : t.lines = s.lines
  noPrint : part = none ∨ r.eligible = false → t.tape = s.tape ∧ r'.full = r.full
  print : ∀ p, part = some p → r.eligible = true → s.tape.queue.length < 128 →
    t.tape = { s.tape with queue := s.tape.queue ++ [⟨i, p.price, r.base, p.size, p.captured⟩] } ∧ r'.full = r.full
  dropped : ∀ p, part = some p → r.eligible = true → 128 ≤ s.tape.queue.length → t.tape = s.tape ∧ r'.full = true

/-- The print of a change notice that has a trade part. -/
def printPart (i : Nat) (part : Option TradePart) (s : State) : State := part.elim s (fun p => printTrade i p s)

theorem notify_eq (i : Nat) (part : Option TradePart) (s : State) :
    notify i part s = chooseAll (recomputeBoards (· == i) (noticeLines i (printPart i part s))) := by
  cases part <;> rfl

theorem Printed.none (h0 : u.instrument? i = some r) {part : Option TradePart} (hp : part = none ∨ r.eligible = false) :
    Printed i r r part u u := by
  refine ⟨h0, rfl, rfl, rfl, fun _ => ⟨rfl, rfl⟩, fun p hpart he => ?_, fun p hpart he => ?_⟩ <;>
  · rcases hp with rfl | hp
    · cases hpart
    · rw [he] at hp
      cases hp

theorem printPart_eligible {p : TradePart} (h0 : u.instrument? i = some r) (he : r.eligible = true) :
    printPart i (some p) u = joinPrint ⟨i, p.price, r.base, p.size, p.captured⟩ r u := by
  simp [printPart, printTrade, h0, he]

theorem printPart_quiet {part : Option TradePart} (h0 : u.instrument? i = some r) (hp : part = none ∨ r.eligible = false) :
    printPart i part u = u := by
  rcases hp with rfl | he
  · rfl
  · cases part with
    | none => rfl
    | some p => simp [printPart, printTrade, h0, he]

theorem printPart_market (h : MarketWork i s fs u) (h0 : u.instrument? i = some r) (part : Option TradePart) :
    ∃ r', Printed i r r' part u (printPart i part u) ∧
      MarketWork i s (fs ++ printFaults i r part (decide (128 ≤ u.tape.queue.length))) (printPart i part u) := by
  have hquiet (hp : part = none ∨ r.eligible = false) : ∃ r', Printed i r r' part u (printPart i part u) ∧
      MarketWork i s (fs ++ printFaults i r part (decide (128 ≤ u.tape.queue.length))) (printPart i part u) := by
    have hf : printFaults i r part (decide (128 ≤ u.tape.queue.length)) = [] := by
      rcases hp with rfl | he
      · rfl
      · cases part with
        | none => rfl
        | some p => simp [printFaults, he]
    rw [printPart_quiet h0 hp, hf, List.append_nil]
    exact ⟨r, .none h0 hp, h⟩
  cases hpart : part with
  | none => exact hpart ▸ hquiet (.inl hpart)
  | some p =>
    cases he : r.eligible with
    | false => exact hpart ▸ hquiet (.inr he)
    | true =>
      rw [printPart_eligible h0 he]
      by_cases hroom : u.tape.queue.length < 128
      · have hp := updateTape_onlyPosts
          { u.tape with queue := u.tape.queue ++ [⟨i, p.price, r.base, p.size, p.captured⟩] } u
        have hf : printFaults i r (some p) (decide (128 ≤ u.tape.queue.length)) = [] := by
          simp [printFaults, hroom]
        rw [joinPrint, if_pos hroom, hf, List.append_nil]
        dsimp only at hp ⊢
        have hwork := (h.setQueue _).posts hp
        generalize updateTape _ u = v at hp hwork ⊢
        have hv := hp.eq
        refine ⟨r, ⟨?_, rfl, ?_, ?_, ?_, ?_, ?_⟩, hwork⟩
        · rw [hv]; exact h0
        · rw [hv]
        · rw [hv]
        · rintro (hn | hn)
          · cases hn
          · rw [he] at hn; cases hn
        · rintro q hq - -
          cases hq
          exact ⟨by rw [hv], rfl⟩
        · intro q _ _ hfull
          omega
      · have hp := postFault_onlyPosts .printDropped (.instrument i) [p.price, p.size, p.captured.toNat]
          (setInstrument i { r with full := true } u)
        have hf : printFaults i r (some p) (decide (128 ≤ u.tape.queue.length)) =
            [(.printDropped, .instrument i, [p.price, p.size, p.captured.toNat])] := by
          simp [printFaults, he, Nat.le_of_not_lt hroom]
        rw [joinPrint, if_neg hroom, hf]
        dsimp only
        have hwork := (h.setInstrument { r with full := true }).fault .printDropped (.instrument i)
          [p.price, p.size, p.captured.toNat]
        generalize postFault .printDropped _ _ _ = v at hp hwork ⊢
        have hv := hp.eq
        refine ⟨{ r with full := true }, ⟨?_, rfl, ?_, ?_, ?_, ?_, ?_⟩, hwork⟩
        · rw [hv]
          refine (setInstrument_instrument? i _ u i).trans ?_
          rw [if_pos rfl, if_pos (List.getElem?_eq_some_iff.mp h0).1]
        · rw [hv]; rfl
        · rw [hv]; rfl
        · rintro (hn | hn)
          · cases hn
          · rw [he] at hn; cases hn
        · intro q _ _ hlt
          omega
        · rintro q hq - -
          exact ⟨by rw [hv]; rfl, rfl⟩

/-! ### The watching lines (R177) -/

/-- A line that a change notice for instrument `i` reaches. -/
def Line.noticed (l : Line) (i : Nat) : Line := if l.state = .off then l else l.queue (.quote i)

theorem Line.noticed_twice (l : Line) (i : Nat) : (l.noticed i).noticed i = l.noticed i := by
  unfold Line.noticed
  by_cases hs : l.state = .off
  · simp [hs]
  · have hs' : (l.queue (.quote i)).state ≠ .off := hs
    rw [if_neg hs, if_neg hs', Line.queue, Line.queue, queueOut, queueOut]
    by_cases hm : .quote i ∈ l.out <;> simp [hm]

/-- The lines of a list that are noticed, one after the other. -/
def noticeEach (i : Nat) (ns : List (Fin 16)) (s : State) : State :=
  ns.foldl (fun s n => if s.lines[n].state = .off then s else setLine n (s.lines[n].queue (.quote i)) s) s

theorem noticeLines_eq (h0 : u.instrument? i = some r) : noticeLines i u = noticeEach i r.watchers u := by
  simp [noticeLines, h0, noticeEach]

/-- A set of lines has been noticed, and no other line. -/
theorem noticeEach_lines (j : Nat) (ns : List (Fin 16)) (u : State) (n : Fin 16) :
    (noticeEach j ns u).lines[n] = if n ∈ ns then u.lines[n].noticed j else u.lines[n] := by
  induction ns generalizing u with
  | nil => simp [noticeEach]
  | cons m ns ih =>
    by_cases hoff : u.lines[m].state = .off
    · have hstep : noticeEach j (m :: ns) u = noticeEach j ns u := by simp [noticeEach, -Fin.getElem_fin, hoff]
      rw [hstep, ih u]
      by_cases hn : n = m
      · subst hn
        simp [Line.noticed, -Fin.getElem_fin, hoff]
      · simp [hn]
    · have hnoticed : u.lines[m].noticed j = u.lines[m].queue (.quote j) := if_neg hoff
      have hstep : noticeEach j (m :: ns) u = noticeEach j ns (setLine m (u.lines[m].noticed j) u) := by
        simp [noticeEach, -Fin.getElem_fin, hoff, hnoticed]
      rw [hstep, ih, setLine_getElem]
      by_cases hn : n = m
      · subst hn
        simp [-Fin.getElem_fin, Line.noticed_twice]
      · simp [hn, Ne.symm hn]

theorem setLine_rest (n : Fin 16) (l : Line) (u : State) :
    setLine n l u =
      { u with
        mem := { u.mem with parts := (setLine n l u).mem.parts }
        ctl := { u.ctl with writeBack := (setLine n l u).ctl.writeBack }
        lines := u.lines.set n l } :=
  (setLine_onlyPosts n l u).eq

/-- The lines alone are noticed, and their words posted. -/
theorem noticeEach_rest (j : Nat) (ns : List (Fin 16)) (u : State) :
    noticeEach j ns u =
      { u with
        mem := { u.mem with parts := (noticeEach j ns u).mem.parts }
        ctl := { u.ctl with writeBack := (noticeEach j ns u).ctl.writeBack }
        lines := (noticeEach j ns u).lines } := by
  induction ns generalizing u with
  | nil => rfl
  | cons m ns ih =>
    have hstep : noticeEach j (m :: ns) u =
        noticeEach j ns (if u.lines[m].state = .off then u else setLine m (u.lines[m].queue (.quote j)) u) := rfl
    rw [hstep]
    split
    · exact ih u
    · have hset := setLine_rest m (u.lines[m].queue (.quote j)) u
      have hi := ih (setLine m (u.lines[m].queue (.quote j)) u)
      generalize setLine m (u.lines[m].queue (.quote j)) u = v at hset hi
      generalize noticeEach j ns v = w at hi
      rw [hi, hset]

theorem MarketWork.setLine (h : MarketWork i s fs u) {n : Fin 16} {l : Line}
    (hl : l = { u.lines[n] with out := l.out }) : MarketWork i s fs (setLine n l u) := by
  refine (h.setLines (ls := u.lines.set n l) fun m => ?_).posts (setLine_onlyPosts n l u)
  by_cases hm : m = n
  · subst hm
    simpa using hl
  · have hne : n.val ≠ m.val := fun h => hm (Fin.ext h.symm)
    simp [Vector.getElem_set_ne, hne]

theorem MarketWork.noticeEach (h : MarketWork i s fs u) (j : Nat) (ns : List (Fin 16)) :
    MarketWork i s fs (noticeEach j ns u) := by
  unfold Machine.noticeEach
  induction ns generalizing u with
  | nil => exact h
  | cons m ns ih =>
    rw [List.foldl_cons]
    split
    · exact ih h
    · exact ih (h.setLine rfl)

/-! ### The target images (R106, R123) -/

theorem samePriceCells_iff (a b : Image) :
    samePriceCells a b = true ↔ ∀ c : Fin 12, c.val ≤ 4 → b[c] = a[c] := by
  unfold samePriceCells
  rw [beq_iff_eq, List.ext_getElem_iff]
  constructor
  · rintro ⟨-, h⟩ c hc
    have := h c.val (by simp; omega) (by simp; omega)
    simpa using this.symm
  · intro h
    refine ⟨by simp, fun n h1 _ => ?_⟩
    have hn : n < 5 := by
      have := h1
      simp only [List.length_take, Vector.length_toList] at this
      omega
    simpa using (h ⟨n, by omega⟩ (by simp only; omega)).symm

theorem recomputeModule_showing (now : Time) (flashTime : Nat) (r : Instrument) (m : LogicalModule) :
    recomputeModule now flashTime r m = m.showing r now flashTime := by
  have hiff : ((samePriceCells m.image (boardImage r) || flashTime == 0) = true) ↔
      ((∀ c : Fin 12, c.val ≤ 4 → (boardImage r)[c] = m.image[c]) ∨ flashTime = 0) := by
    rw [Bool.or_eq_true, samePriceCells_iff, beq_iff_eq]
  unfold recomputeModule LogicalModule.showing
  dsimp only
  simp only [hiff]

/-- The modules of a link are recomputed from the link and from what every link reads alike. -/
theorem recomputed_congr {k : Fin 8} (hl : v.links[k] = u.links[k]) (h : v = { u with links := v.links })
    (which : Nat → Bool) : v.recomputed k which = u.recomputed k which := by
  unfold State.recomputed
  rw [hl, h]
  rfl

theorem recomputeLink_eq (which : Nat → Bool) (u : State) (k : Fin 8) :
    recomputeLink which u k = { u with links := (recomputeLink which u k).links } := by
  unfold recomputeLink
  split <;> rfl

theorem recomputeLink_links (which : Nat → Bool) (u : State) (k j : Fin 8) :
    (recomputeLink which u k).links[j] =
      if j = k then
        (if u.links[k].running then { u.links[k] with modules := u.recomputed k which } else u.links[k])
      else u.links[j] := by
  unfold recomputeLink
  by_cases hj : j = k
  · subst hj
    rw [if_pos rfl]
    split
    · rw [setLink_self]
    · rfl
  · rw [if_neg hj]
    split
    · rw [setLink_other hj]
    · rfl

/-- A list of links recomputes, each from itself alone. -/
theorem recomputeEach_links (which : Nat → Bool) (u : State) (k : Fin 8) (ks : List (Fin 8)) (hnd : ks.Nodup) :
    ∀ v : State, v = { u with links := v.links } → (∀ j ∈ ks, v.links[j] = u.links[j]) →
      (ks.foldl (recomputeLink which) v).links[k] =
        if k ∈ ks then
          (if u.links[k].running then { u.links[k] with modules := u.recomputed k which } else u.links[k])
        else v.links[k] := by
  induction ks with
  | nil => simp
  | cons j ks ih =>
    intro v hv hsame
    obtain ⟨hj, hnd⟩ := List.nodup_cons.mp hnd
    have hvj := hsame j List.mem_cons_self
    have hother (m : Fin 8) (hm : m ≠ j) : (recomputeLink which v j).links[m] = v.links[m] := by
      rw [recomputeLink_links, if_neg hm]
    have hself : (recomputeLink which v j).links[j] =
        if u.links[j].running then { u.links[j] with modules := u.recomputed j which } else u.links[j] := by
      rw [recomputeLink_links, if_pos rfl, hvj, recomputed_congr hvj hv]
    have hnext : recomputeLink which v j = { u with links := (recomputeLink which v j).links } := by
      have hr := recomputeLink_eq which v j
      generalize recomputeLink which v j = x at hr
      rw [hr]
      conv_lhs => rw [hv]
    rw [List.foldl_cons]
    generalize recomputeLink which v j = x at hother hself hnext
    rw [ih hnd x hnext fun m hm => (hother m fun h => hj (h ▸ hm)).trans (hsame m (List.mem_cons_of_mem j hm))]
    by_cases hkj : k = j
    · subst hkj
      rw [if_neg hj, if_pos List.mem_cons_self, hself]
    · rw [hother k hkj]
      simp [hkj]

theorem recomputeBoards_links (which : Nat → Bool) (u : State) (k : Fin 8) :
    (recomputeBoards which u).links[k] =
      if u.links[k].running then { u.links[k] with modules := u.recomputed k which } else u.links[k] := by
  have h := recomputeEach_links which u k all8 (by decide) u rfl fun _ _ => rfl
  rwa [if_pos (mem_all8 k)] at h

theorem recomputed_getElem (u : State) (k : Fin 8) (which : Nat → Bool) (m : Fin 16) :
    (u.recomputed k which)[m] =
      ((u.shows k m).bind fun i => (u.instrument? i).bind fun r => if which i then some r else none).elim
        u.links[k].modules[m] fun r => u.links[k].modules[m].showing r u.ctl.timeBase u.flashTime := by
  simp only [State.recomputed, Fin.getElem_fin, Vector.getElem_ofFn, recomputeModule_showing]
  cases u.shows k m with
  | none => rfl
  | some i =>
    cases hi : u.instrument? i with
    | none => simp [hi]
    | some r => cases hw : which i <;> simp [hi, hw]

/-- The boards recompute, and the links choose: each module of a running link that shows an admitted instrument shows its
record (R84, R106). -/
theorem recomputeBoards_recomputed {which : Nat → Bool} (hlinks : v.links = u.links)
    (hmap : v.tbl.boardMap = u.tbl.boardMap) (htime : v.ctl.timeBase = u.ctl.timeBase) (hflash : v.flashTime = u.flashTime) :
    u.Recomputed (chooseAll (recomputeBoards which v)) (fun i => which i = true) := by
  have hchoose := chooseAll_same (recomputeBoards which v)
  have htbl : (chooseAll (recomputeBoards which v)).tbl = v.tbl := by rw [chooseAll_eq, recomputeBoards_eq]
  have hl := recomputeBoards_links which v
  generalize recomputeBoards which v = x at hchoose htbl hl
  generalize chooseAll x = t at hchoose htbl
  intro k
  have hshows (m : Fin 16) : u.shows k m = v.shows k m := by simp only [State.shows, hmap]
  have hk := hchoose k
  have hmod : t.links[k].modules = x.links[k].modules := by rw [hk.link]
  have hxk := hl k
  rw [hlinks] at hxk
  refine ⟨fun m => ⟨fun i r hrun hsh hi hr => ?_, fun hstill => ?_⟩, ?_⟩
  · have hr' : v.instrument? i = some r := by rw [← hr]; simp only [State.instrument?, htbl]
    rw [hmod, hxk, if_pos hrun]
    dsimp only
    rw [recomputed_getElem, ← hshows, hsh]
    simp [hr', hi, hlinks, htime, hflash]
  · rw [hmod, hxk]
    cases hrun : u.links[k].running with
    | false => rw [if_neg (by simp)]
    | true =>
      rw [if_pos rfl]
      dsimp only
      rw [recomputed_getElem, ← hshows, hlinks]
      rcases hstill with hstill | hstill
      · rw [hrun] at hstill
        cases hstill
      · cases hsh : u.shows k m with
        | none => rfl
        | some i =>
          have hw : which i ≠ true := hstill i hsh
          cases hi : v.instrument? i <;> simp [hi, hw]
  · rw [hmod]
    have hx : x.links[k] = { u.links[k] with modules := x.links[k].modules } := by
      rw [hxk]
      split <;> rfl
    rw [← hx]
    exact hk

/-! ### The whole notice (R84) -/

theorem State.Recomputed.congr {a b c d : State} {noticed noticed' : Nat → Prop} (h : a.Recomputed c noticed)
    (hn : ∀ i, noticed' i ↔ noticed i) (hl : b.links = a.links) (hmap : b.tbl.boardMap = a.tbl.boardMap)
    (htime : b.ctl.timeBase = a.ctl.timeBase) (hflash : b.flashTime = a.flashTime) (hlinks : d.links = c.links)
    (htbl : d.tbl = c.tbl) : b.Recomputed d noticed' := by
  intro k
  obtain ⟨hm, hk⟩ := h k
  have hshows (m : Fin 16) : b.shows k m = a.shows k m := by simp only [State.shows, hmap]
  have hinst (i : Nat) : d.instrument? i = c.instrument? i := by simp only [State.instrument?, htbl]
  refine ⟨fun m => ⟨fun i r hrun hsh hi hr => ?_, fun hstill => ?_⟩, ?_⟩
  · rw [hl, hlinks, htime, hflash]
    rw [hl] at hrun
    rw [hshows] at hsh
    rw [hinst] at hr
    exact (hm m).1 i r hrun hsh ((hn i).mp hi) hr
  · rw [hl, hlinks]
    rw [hl] at hstill
    refine (hm m).2 (hstill.imp_right fun hs i hsh hi => hs i ?_ ((hn i).mpr hi))
    rw [hshows]
    exact hsh
  · rw [hl, hlinks]
    exact hk

/-- Links that do nothing but choose recompute nothing. -/
theorem SameBoards.recomputed (h : SameBoards s t) {noticed : Nat → Prop} (hn : ∀ i, ¬ noticed i) :
    s.Recomputed t noticed := by
  intro k
  have hmod : t.links[k].modules = s.links[k].modules := by rw [(h k).link]
  refine ⟨fun m => ⟨fun i _ _ _ hi => absurd hi (hn i), fun _ => by rw [hmod]⟩, ?_⟩
  rw [hmod]
  exact h k

/-- What follows a notice and leaves the tape, the lines, the links and the table. -/
theorem NoticeSent.after {part : Option TradePart} {sent : Prop} {c d : State} (h : NoticeSent i r r' part sent s c)
    (htape : d.tape = c.tape) (hlines : d.lines = c.lines) (hlinks : d.links = c.links) (htbl : d.tbl = c.tbl) :
    NoticeSent i r r' part sent s d := by
  obtain ⟨h1, h2, h3, h4, h5, h6⟩ := h
  refine ⟨?_, ?_, ?_, ?_, ?_, h6.congr (fun _ => .rfl) rfl rfl rfl rfl hlinks htbl⟩
  · rw [htape]; exact h1
  · rw [htape]; exact h2
  · rw [htape]; exact h3
  · rw [hlines]; exact h4
  · rw [hlines]; exact h5

/-- What comes before a notice and leaves the tape, the lines, the links and what they are recomputed by. -/
theorem NoticeSent.before {r0 : Instrument} {part : Option TradePart} {sent : Prop} {b : State}
    (h : NoticeSent i r r' part sent u t) (he : r.eligible = r0.eligible) (hb : r.base = r0.base)
    (hw : r.watchers = r0.watchers) (hf : r.full = r0.full) (htape : u.tape = b.tape) (hlines : u.lines = b.lines)
    (hlinks : u.links = b.links) (hmap : u.tbl.boardMap = b.tbl.boardMap) (htime : u.ctl.timeBase = b.ctl.timeBase)
    (hflash : u.flashTime = b.flashTime) : NoticeSent i r0 r' part sent b t := by
  obtain ⟨h1, h2, h3, h4, h5, h6⟩ := h
  rw [he, htape, hf] at h1
  rw [he, htape, hf, hb] at h2
  rw [he, htape] at h3
  rw [hlines, hw] at h4 h5
  exact ⟨h1, h2, h3, h4, h5, h6.congr (fun _ => .rfl) hlinks.symm hmap.symm htime.symm hflash.symm rfl rfl⟩

/-- A state that no notice has reached. -/
theorem noticeSent_none (hf : r'.full = r.full) (htape : t.tape = s.tape) (hlines : t.lines = s.lines)
    (hlinks : SameBoards s t) : NoticeSent i r r' none False s t := by
  constructor
  case noPrint => exact fun _ => ⟨htape, hf⟩
  case print => intro p hp; cases hp
  case dropped => intro p hp; cases hp
  case watching => exact fun h => h.elim
  case others => exact fun n _ => by rw [hlines]
  case boards => exact hlinks.recomputed fun _ h => h.1

theorem notify_market (h : MarketWork i s fs u) (h0 : u.instrument? i = some r) (part : Option TradePart) :
    ∃ r', (notify i part u).instrument? i = some r' ∧ r' = { r with full := r'.full } ∧
      NoticeSent i r r' part True u (notify i part u) ∧
      MarketWork i s (fs ++ printFaults i r part (decide (128 ≤ u.tape.queue.length))) (notify i part u) := by
  obtain ⟨r', hprint, hwork⟩ := printPart_market h h0 part
  have hnl := noticeEach_lines i r'.watchers (printPart i part u)
  have hnr := noticeEach_rest i r'.watchers (printPart i part u)
  have hrest := hwork.noticeEach i r'.watchers
  rw [notify_eq, noticeLines_eq hprint.record]
  generalize printPart i part u = v at hprint hwork hnl hnr hrest ⊢
  generalize noticeEach i r'.watchers v = w at hnl hnr hrest ⊢
  have hboards := recomputeBoards_recomputed (u := u) (v := w) (which := (· == i))
    (by rw [hnr]; exact hprint.links) (hrest.boardMap.trans h.boardMap.symm) (hrest.timeBase.trans h.timeBase.symm)
    (hrest.flashTime.trans h.flashTime.symm)
  have hrec : (recomputeBoards (· == i) w) = { w with links := (recomputeBoards (· == i) w).links } :=
    recomputeBoards_eq _ w
  have ht := chooseAll_eq (recomputeBoards (· == i) w)
  generalize recomputeBoards (· == i) w = x at hboards hrec ht ⊢
  generalize chooseAll x = t at hboards ht ⊢
  have hx : t = { w with links := t.links } := by
    conv_lhs => rw [ht, hrec]
  have htbl : t.tbl = v.tbl := by rw [hx, hnr]
  have htape : t.tape = v.tape := by rw [hx, hnr]
  have hlines : t.lines = w.lines := by rw [hx]
  have hwatch : r'.watchers = r.watchers := by rw [hprint.value]
  refine ⟨r', ?_, hprint.value, ⟨?_, ?_, ?_, ?_, ?_, ?_⟩, ?_⟩
  · have hinst : t.instrument? i = v.instrument? i := by simp only [State.instrument?, htbl]
    rw [hinst]
    exact hprint.record
  · rw [htape]
    exact hprint.noPrint
  · rw [htape]
    exact hprint.print
  · rw [htape]
    exact hprint.dropped
  · intro _ n hn hon
    rw [hlines, hnl n, hwatch, if_pos hn, hprint.lines, Line.noticed, if_neg hon, Line.queue, queueOut]
    simp
  · intro n hn
    rw [hlines, hnl n, hwatch, hprint.lines]
    rcases hn with hn | hn | hn
    · exact absurd trivial hn
    · rw [if_neg hn]
    · rw [Line.noticed, if_pos hn, ite_self]
  · exact hboards.congr (fun j => by simp) rfl rfl rfl rfl rfl rfl
  · rw [hx]
    exact hrest.links _

end

end Sys2Proof.Machine
end


section
/-! CONFIRM, WITHDRAW and CLOSE (R63, R98, R99). -/

namespace Sys2Proof.Machine

open Sys2Proof

section
variable {i : Nat} {s t u v y : State} {fs : List Posting} {r r' : Instrument} {w : Word}

/-! ### CONFIRM and WITHDRAW -/

theorem MarketWork.command (h : MarketWork i s fs u) : u.ctl.command = s.ctl.command := by rw [h.rest]

/-- A command that the market's work has carried out ends DONE, and nothing else is done but posting. -/
structure MarketDone (i : Nat) (w : Word) (s : State) (fs : List Posting) (y t : State) : Prop where
  work : MarketWork i (s.begun w) fs y
  ended : OnlyPosts (y.runEnded none 0) t
  posted : t.Posted .commandStatus

theorem MarketWork.done (h : MarketWork i (s.begun w) fs y) : MarketDone i w s fs y (endDone y) :=
  ⟨h, (endCommand_onlyPosts none 0 y).1, (endCommand_onlyPosts none 0 y).2⟩

theorem MarketDone.ledger (h : MarketDone i w s fs y t) : Ledger (s.begun w) fs t :=
  h.work.ledger.kept (by rw [h.ended.eq]; rfl) h.ended.kept

theorem MarketDone.command (h : MarketDone i w s fs y t) :
    t.ctl.command = ⟨.done, commandCode w, commandSeq w, none, 0, s.ctl.latches⟩ := by
  have hc : t.ctl.command = (y.runEnded none 0).ctl.command := by rw [h.ended.eq]
  rw [hc, State.runEnded]
  dsimp only
  rw [h.work.command]
  rfl

theorem setInstrument_self_instrument? (h0 : u.instrument? i = some r) (r1 : Instrument) :
    (setInstrument i r1 u).instrument? i = some r1 := by
  rw [setInstrument_instrument?, if_pos rfl, if_pos (List.getElem?_eq_some_iff.mp h0).1]

/-- The end of a command leaves what a notice has done. -/
theorem NoticeSent.done {part : Option TradePart} {sent : Prop} (h : NoticeSent i r r' part sent s y)
    (hd : OnlyPosts (y.runEnded none 0) t) : NoticeSent i r r' part sent s t :=
  h.after (by rw [hd.eq]; rfl) (by rw [hd.eq]; rfl) (by rw [hd.eq]; rfl) (by rw [hd.eq]; rfl)

theorem NoticeSent.granted {part : Option TradePart} {sent : Prop} (h : NoticeSent i r r' part sent s t) :
    NoticeSent i r r' part sent s (grant t) :=
  h.after (grant_tape t) (grant_lines t) (grant_links t) (grant_tbl t)

/-- A held trade is confirmed: it is taken, and its notice is sent (R98). -/
theorem confirmHold_done {h : Hold} (hu : MarketWork i (s.begun w) [] u) (htbl : u.tbl = s.tbl) (hcap : u.cap = s.cap)
    (hlinks : u.links = s.links) (htape : u.tape = s.tape)
    (hlines : u.lines = s.lines) (h0 : s.instrument? i = some r) :
    ∃ r' y, MarketDone i w s (printFaults i r (some ⟨h.price, h.size, h.captured⟩) (decide (128 ≤ s.tape.queue.length)))
        y (confirmHold i r h u) ∧
      (confirmHold i r h u).instrument? i = some r' ∧
      r' = { takeTrade h.price h.size h.rounding r with hold := none, full := r'.full } ∧
      NoticeSent i r r' (some ⟨h.price, h.size, h.captured⟩) True s (confirmHold i r h u) ∧ y.cap = s.cap := by
  have h0u : u.instrument? i = some r := by simp only [State.instrument?, htbl]; exact h0
  have hset := hu.setInstrument { takeTrade h.price h.size h.rounding r with hold := none }
  have hrec := setInstrument_self_instrument? h0u { takeTrade h.price h.size h.rounding r with hold := none }
  obtain ⟨r', hr', hval, hnotice, hwork⟩ := notify_market hset hrec (some ⟨h.price, h.size, h.captured⟩)
  have hcap' := notify_cap i (some ⟨h.price, h.size, h.captured⟩)
    (setInstrument i { takeTrade h.price h.size h.rounding r with hold := none } u)
  unfold confirmHold
  generalize notify i _ _ = y at hr' hnotice hwork hcap' ⊢
  have hdone := hwork.done
  have hrec' : (endDone y).instrument? i = some r' := by
    have : (endDone y).tbl = y.tbl := by rw [hdone.ended.eq]; rfl
    simp only [State.instrument?, this]
    exact hr'
  refine ⟨r', y, ?_, hrec', hval, ?_, hcap'.trans hcap⟩
  · have hf : printFaults i { takeTrade h.price h.size h.rounding r with hold := none }
        (some ⟨h.price, h.size, h.captured⟩) (decide (128 ≤ u.tape.queue.length)) =
        printFaults i r (some ⟨h.price, h.size, h.captured⟩) (decide (128 ≤ s.tape.queue.length)) := by
      rw [htape]
      rfl
    rw [← hf]
    exact hdone
  · have hn : NoticeSent i r r' (some ⟨h.price, h.size, h.captured⟩) True s y :=
      hnotice.before (r0 := r) rfl rfl rfl rfl htape hlines hlinks (by rw [setInstrument_tbl, htbl]) hu.timeBase
        hu.flashTime
    exact hn.done hdone.ended

theorem Taken.market (ht : Taken w s u) (i : Nat) : MarketWork i (s.begun w) [] u := (MarketWork.refl i _).posts ht.posts

theorem settleHold_none {settle : Nat → Instrument → Hold → State → State}
    (h0 : u.instrument? (u.param 0).toNat = none) : settleHold settle u = endRefused .badParameter 0 u := by
  simp only [settleHold, h0]

theorem settleHold_unheld {settle : Nat → Instrument → Hold → State → State}
    (h0 : u.instrument? (u.param 0).toNat = some r) (hh : r.hold = none) :
    settleHold settle u = endRefused .noHold (u.param 0).toNat u := by
  simp only [settleHold, h0, hh]

theorem settleHold_held {settle : Nat → Instrument → Hold → State → State} {h : Hold}
    (h0 : u.instrument? (u.param 0).toNat = some r) (hh : r.hold = some h) :
    settleHold settle u = settle (u.param 0).toNat r h u := by
  simp only [settleHold, h0, hh]

/-- CONFIRM or WITHDRAW, once its instrument and hold have been looked up. -/
theorem settleHold_answers {c : Instr} {n : Nat} {settle : Nat → Instrument → Hold → State → State} (ho : s.Offered w)
    (hstate : s.ctl.partState ≠ .unloaded) (hcode : commandCode w = n) (hn : 1 ≤ n ∧ n ≤ 15)
    (hexec : ∀ x, exec c x = answer (onCommand (· == n) (settleHold settle) x)) :
    (s.instrument? s.ctl.latches[0].toNat = none → AnswersEnded c s s w (some .badParameter) 0) ∧
    ∀ r, s.instrument? s.ctl.latches[0].toNat = some r →
      (r.hold = none → AnswersEnded c s s w (some .noHold) s.ctl.latches[0].toNat) ∧
      ∀ h, r.hold = some h →
        ∃ u, Taken w s u ∧ exec c s = .next (grant (settle s.ctl.latches[0].toNat r h u)) := by
  obtain ⟨u, hu, ht⟩ := onCommand_takes (codes := (· == n)) (owning := settleHold settle) ho (by simp [hcode])
    (by simp only [hcode, unknownCode, decide_eq_false_iff_not]; omega) (fun h => absurd h hstate)
  have hnext : exec c s = .next (grant (settleHold settle u)) := by rw [hexec, hu]; rfl
  have hparam : (u.param 0).toNat = s.ctl.latches[0].toNat := congrArg BitVec.toNat (ht.params 0)
  have hinst (j : Nat) : u.instrument? j = s.instrument? j := by rw [ht.posts.eq]; rfl
  rw [← hparam]
  refine ⟨fun h0 => ?_, fun r h0 => ⟨fun hh => ?_, fun h hh => ⟨u, ht, ?_⟩⟩⟩
  · rw [← hinst] at h0
    exact answersEnded_of (by rw [hnext, settleHold_none h0]; rfl) ht.posts
  · rw [← hinst] at h0
    exact answersEnded_of (by rw [hnext, settleHold_unheld h0 hh]; rfl) ht.posts
  · rw [← hinst] at h0
    rw [hnext, settleHold_held h0 hh]

/-- Settles O37. -/
theorem holdsSettled : Obligations.HoldsSettled := by
  intro w s ho hstate i c hc
  rcases hc with ⟨rfl, hcode⟩ | ⟨rfl, hcode⟩
  · obtain ⟨hbad, hgood⟩ := settleHold_answers (c := .confirm) (settle := confirmHold) ho hstate hcode (by decide) fun _ => rfl
    refine ⟨hbad, fun r h0 => ⟨(hgood r h0).1, fun h hh => ⟨fun hc => (by cases hc), fun _ => ?_⟩⟩⟩
    obtain ⟨u, ht, hexec⟩ := (hgood r h0).2 h hh
    have hu := ht.posts.eq
    obtain ⟨r', y, hdone, hrec, hval, hnotice, hcap⟩ := confirmHold_done (h := h) (ht.market i) (by rw [hu]; rfl)
      (by rw [hu]; rfl) (by rw [hu]; rfl) (by rw [hu]; rfl) (by rw [hu]; rfl) h0
    have hledger := hdone.ledger
    have hcommand := hdone.command
    have hend := hdone.ended.eq
    have hposted := posted_grant hdone.posted
    generalize confirmHold i r h u = t at hexec hdone hrec hnotice hledger hcommand hend hposted
    have hy := hdone.work.rest
    refine ⟨grant t, r', hexec, ?_, hval, ?_, hposted, ?_, fun j hj => ?_, ?_, ?_, ?_, ?_, ?_, ?_, hnotice.granted, ?_, ?_⟩
    · simp only [State.instrument?, grant_tbl]
      exact hrec
    · rw [grant_ctl, hcommand, hcode]
    · rw [grant_handed, hend, State.runEnded]
      dsimp only
      rw [hy]
      rfl
    · have htbl : t.tbl = y.tbl := by rw [hend]; rfl
      have hother := hdone.work.others j hj
      simp only [State.instrument?, grant_tbl, htbl] at hother ⊢
      exact hother
    · rw [grant_ram, hend, State.runEnded]
      dsimp only
      rw [hy]
      rfl
    · rw [grant_guards, hend, State.runEnded]
      dsimp only
      rw [hy]
      rfl
    · rw [grant_rst, hend, State.runEnded]
      dsimp only
      rw [hy]
      rfl
    · rw [grant_cap, hend, State.runEnded]
      exact hcap
    · rw [grant_drive, hend, State.runEnded]
      dsimp only
      rw [hy]
      rfl
    · rw [grant_ctl, hend, State.runEnded]
      dsimp only
      rw [hy]
      rfl
    · have hf : printFaults i r (some ⟨h.price, h.size, h.captured⟩) (decide (128 ≤ s.tape.queue.length)) =
          if r.eligible = true ∧ 128 ≤ s.tape.queue.length then
            [(.printDropped, .instrument i, [h.price, h.size, h.captured.toNat])]
          else [] := by
        simp [printFaults]
      rw [← hf]
      exact (hledger.kept (by rw [grant_ctl]) (by rw [grant_ctl]; exact .refl _)).faultsPosted
    · rw [grant_ctl]
      exact hdone.work.kept.trans hdone.ended.kept
  · obtain ⟨hbad, hgood⟩ := settleHold_answers (c := .withdraw) (settle := withdrawHold) ho hstate hcode (by decide) fun _ => rfl
    refine ⟨hbad, fun r h0 => ⟨(hgood r h0).1, fun h hh => ⟨fun _ => ?_, fun hc => (by cases hc)⟩⟩⟩
    obtain ⟨u, ht, hexec⟩ := (hgood r h0).2 h hh
    exact answersEnded_of hexec
      (ht.change (setInstrument i { r with hold := none }) fun _ _ _ => rfl)

end

end Sys2Proof.Machine
end


section
/-! What an event posts (R28): the words it has changed wait with their present values, and what waited goes on
waiting. -/

namespace Sys2Proof.Machine

open Sys2Proof

/-- From `s` to `t` each word that the part writes in place and that has changed, or whose present value waited, waits
with its present value; a word of `x`, whose posting is still to come, has not been posted. -/
structure Covers (x : TableWord → Prop) (s t : State) : Prop where
  pending : ∀ w, x w → ∀ ws, s.Queued (.table w ws) → t.Queued (.table w ws)
  posted : ∀ w, ¬ x w → t.tableWords w ≠ s.tableWords w ∨ s.Posted w → t.Posted w

/-- No word's posting is still to come. -/
def noWord (_ : TableWord) : Prop := False

section
variable {x y : TableWord → Prop} {s t u v : State}

theorem Covers.refl (x : TableWord → Prop) (s : State) : Covers x s s :=
  ⟨fun _ _ _ h => h, fun _ _ h => h.resolve_left fun h => h rfl⟩

theorem Covers.trans (h1 : Covers x s u) (h2 : Covers x u t) : Covers x s t := by
  refine ⟨fun w hw ws h => h2.pending w hw ws (h1.pending w hw ws h), fun w hw h => ?_⟩
  by_cases hut : t.tableWords w = u.tableWords w
  · refine h2.posted w hw (.inr (h1.posted w hw ?_))
    rwa [← hut]
  · exact h2.posted w hw (.inl hut)

/-- A change of words that are still to be posted. -/
theorem covers_of_changed (hwb : t.ctl.writeBack = s.ctl.writeBack)
    (hw : ∀ w, ¬ x w → t.tableWords w = s.tableWords w) : Covers x s t := by
  refine ⟨fun w _ ws h => ?_, fun w hx h => ?_⟩
  · unfold State.Queued
    rw [hwb]
    exact h
  · have hp := h.resolve_left fun h => h (hw w hx)
    unfold State.Posted
    rw [hwb, hw w hx]
    exact hp

/-- What changes neither the words nor what waits. -/
theorem covers_of_same (hwb : t.ctl.writeBack = s.ctl.writeBack) (hw : t.tableWords = s.tableWords) : Covers x s t :=
  covers_of_changed hwb fun w _ => congrFun hw w

theorem postRecord_covers {e : WbEntry} (s : State) : Covers x s (postRecord e s) := by
  have hmem {e' : WbEntry} (h : s.Queued e') : (postRecord e s).Queued e' :=
    queued_pump (h.imp_right fun h => by simp [setWaiting, h])
  have hwords (w : TableWord) : (postRecord e s).tableWords w = s.tableWords w := by
    have hp := pumpWriteBack_onlyPosts (setWaiting (s.ctl.writeBack.queue ++ [e]) s)
    rw [postRecord, hp.tableWords w]
    cases w <;> rfl
  refine ⟨fun w _ ws h => hmem h, fun w _ h => ?_⟩
  rw [hwords w] at h
  have := hmem (h.resolve_left fun h => h rfl)
  unfold State.Posted
  rw [hwords w]
  exact this

/-- The words that were still to come have been posted where they have changed. -/
theorem Covers.postChanged (h : Covers x s u) {ts : List TableWord} (hts : ∀ w, x w → w ∈ ts ∨ y w)
    (hy : ∀ w, y w → x w ∧ w ∉ ts) : Covers y s (postChanged s ts u) := by
  have hp := postChanged_onlyPosts s ts u
  have hkept {w : TableWord} {ws : List Word} (hw : w ∉ ts) (hq : u.Queued (.table w ws)) :
      (Machine.postChanged s ts u).Queued (.table w ws) := by
    clear h hts hy hp
    unfold Machine.postChanged
    induction ts generalizing u with
    | nil => exact hq
    | cons w' ts ih =>
      rw [List.foldl_cons]
      have hne : w' ≠ w := fun h => hw (h ▸ List.mem_cons_self)
      refine ih (fun h => hw (List.mem_cons_of_mem w' h)) ?_
      split
      · exact hq
      · exact queued_post hq fun ws' he => hne (WbEntry.table.inj he).1.symm
  refine ⟨fun w hw ws hq => hkept (hy w hw).2 (h.pending w (hy w hw).1 ws hq), fun w hw hc => ?_⟩
  rw [hp.tableWords w] at hc
  by_cases hx : x w
  · have hmem : w ∈ ts := (hts w hx).resolve_right hw
    by_cases hne : u.tableWords w = s.tableWords w
    · have hq : s.Posted w := hc.resolve_left fun h => h hne
      refine posted_postChanged ?_ ts
      have := h.pending w hx _ hq
      unfold State.Posted
      rw [hne]
      exact this
    · exact postChanged_posted hmem hne
  · exact posted_postChanged (h.posted w hx hc) ts

theorem Covers.stays {w : TableWord} (h : Covers noWord s t) (hw : s.Posted w) : t.Posted w :=
  h.posted w (fun h => h) (.inr hw)

theorem setLine_covers (n : Fin 16) (l : Line) (s : State) : Covers noWord s (setLine n l s) := by
  have hset : Covers (· = .lineWord n) s { s with lines := s.lines.set n l } := by
    refine covers_of_changed rfl fun w hw => ?_
    cases w with
    | lineWord m =>
      have hne : n.val ≠ m.val := fun h => hw (by rw [Fin.ext h])
      simp [State.tableWords, Vector.getElem_set_ne, hne]
    | _ => rfl
  exact hset.postChanged (fun w hw => .inl (by simp [hw])) fun w hw => hw.elim

theorem noticeEach_covers (j : Nat) (ns : List (Fin 16)) (s : State) : Covers noWord s (noticeEach j ns s) := by
  unfold noticeEach
  induction ns generalizing s with
  | nil => exact .refl _ s
  | cons n ns ih =>
    rw [List.foldl_cons]
    split
    · exact ih s
    · exact (setLine_covers n _ s).trans (ih _)

/-- Boards that are steady, and nothing else changed, change no word. -/
theorem Steady.tableWords (h : Steady s t) (ht : t = { s with links := t.links }) : t.tableWords = s.tableWords := by
  have hany := h.anyTripDisabled
  have hdrive : t.driveStateWord = s.driveStateWord := by
    have hlinks : (fun k : Fin 8 => bitOf t.links[k].driveEnable (8 + k.val)) =
        fun k => bitOf s.links[k].driveEnable (8 + k.val) := funext fun k => by rw [(h.links k).driveEnable]
    unfold State.driveStateWord
    rw [hlinks, ht]
  funext w
  cases w with
  | moduleWord k p => exact congrArg (fun x => [x]) ((h.links k).moduleWord k p)
  | driveState => exact congrArg (fun x => [x]) hdrive
  | limitReasons =>
    simp only [State.tableWords, State.limitStatus, hany]
    rw [ht]
  | _ => rw [ht]; rfl

theorem chooseAll_covers (s : State) : Covers x s (chooseAll s) :=
  covers_of_same (by rw [chooseAll_eq]) ((chooseAll_steady s).tableWords (chooseAll_eq s))

theorem recomputeBoards_covers (which : Nat → Bool) (s : State) : Covers x s (recomputeBoards which s) :=
  covers_of_same (by rw [recomputeBoards_eq]) ((recomputeBoards_steady which s).tableWords (recomputeBoards_eq which s))

theorem noticeLines_covers (i : Nat) (s : State) : Covers noWord s (noticeLines i s) := by
  cases h0 : s.instrument? i with
  | none =>
    have hsame : noticeLines i s = s := by simp only [noticeLines, h0]
    rw [hsame]
    exact .refl _ s
  | some r =>
    rw [noticeLines_eq h0]
    exact noticeEach_covers i r.watchers s

/-- Change notices for a list of instruments reach the lines. -/
def quoteEach (is : List Nat) (s : State) : State := is.foldl (fun s i => noticeLines i s) s

theorem quoteEach_covers (is : List Nat) (s : State) : Covers noWord s (quoteEach is s) := by
  unfold quoteEach
  induction is generalizing s with
  | nil => exact .refl _ s
  | cons i is ih => exact (noticeLines_covers i s).trans (ih _)

theorem noticeAll_eq (s : State) :
    noticeAll s =
      chooseAll (recomputeBoards (fun _ => true) (quoteEach (List.range s.tbl.instruments.length) s)) := rfl

theorem noticeAll_covers (s : State) : Covers noWord s (noticeAll s) :=
  (quoteEach_covers _ s).trans ((recomputeBoards_covers _ _).trans (chooseAll_covers _))

/-! ### CLOSE (R63) -/

/-- What change notices for a list of instruments do to the lines and nothing else: each watching line that is not OFF
queues a QUOTE entry for each instrument that it watches. -/
structure Quoted (is : List Nat) (s t : State) : Prop where
  rest : t =
    { s with
      mem := { s.mem with parts := t.mem.parts }
      ctl := { s.ctl with writeBack := t.ctl.writeBack }
      lines := t.lines }
  kept : s.ctl.writeBack.Kept t.ctl.writeBack
  lines : ∀ n : Fin 16, t.lines[n] = { s.lines[n] with out := t.lines[n].out }
  quoted : ∀ (n : Fin 16), ∀ i ∈ is, ∀ r, s.instrument? i = some r → n ∈ r.watchers → s.lines[n].state ≠ .off →
    .quote i ∈ t.lines[n].out
  joined : ∀ n : Fin 16, ∃ l, t.lines[n].out = s.lines[n].out ++ l ∧
    ∀ e ∈ l, s.lines[n].state ≠ .off ∧ ∃ i r, e = .quote i ∧ s.instrument? i = some r ∧ n ∈ r.watchers

theorem Line.noticed_out (l : Line) (i : Nat) :
    (l.noticed i).out = if l.state = .off ∨ .quote i ∈ l.out then l.out else l.out ++ [.quote i] := by
  unfold Line.noticed
  by_cases hs : l.state = .off
  · simp [hs]
  · by_cases hm : .quote i ∈ l.out <;> simp [hs, hm, Line.queue, queueOut]

theorem noticeLines_quoted (i : Nat) (s : State) : Quoted [i] s (noticeLines i s) := by
  cases h0 : s.instrument? i with
  | none =>
    have hsame : noticeLines i s = s := by simp only [noticeLines, h0]
    rw [hsame]
    refine ⟨rfl, .refl _, fun _ => rfl, fun n j hj r hr => ?_, fun n => ⟨[], by simp, fun e he => by cases he⟩⟩
    rw [List.mem_singleton.mp hj, h0] at hr
    cases hr
  | some r =>
    have hl := noticeEach_lines i r.watchers s
    have hr := noticeEach_rest i r.watchers s
    have hw := (MarketWork.refl i s).noticeEach i r.watchers
    rw [noticeLines_eq h0]
    generalize noticeEach i r.watchers s = t at hl hr hw ⊢
    refine ⟨hr, hw.kept, hw.lines, fun n j hj r' hr' hn hon => ?_, fun n => ?_⟩
    · obtain rfl := List.mem_singleton.mp hj
      rw [h0] at hr'
      cases hr'
      rw [hl n, if_pos hn, Line.noticed_out]
      by_cases hm : .quote j ∈ s.lines[n].out <;> simp [hon, hm, -Fin.getElem_fin]
    · by_cases hq : n ∈ r.watchers ∧ ¬ (s.lines[n].state = .off ∨ .quote i ∈ s.lines[n].out)
      · refine ⟨[.quote i], ?_, fun e he => ⟨fun hoff => hq.2 (.inl hoff), i, r, List.mem_singleton.mp he, h0, hq.1⟩⟩
        rw [hl n, if_pos hq.1, Line.noticed_out, if_neg hq.2]
      · refine ⟨[], ?_, fun e he => by cases he⟩
        rw [List.append_nil, hl n]
        split
        · rename_i hn
          rw [Line.noticed_out, if_pos (not_not.mp fun h => hq ⟨hn, h⟩)]
        · rfl

theorem Quoted.trans {is js : List Nat} (h1 : Quoted is s u) (h2 : Quoted js u t) : Quoted (is ++ js) s t := by
  have hinst (i : Nat) : u.instrument? i = s.instrument? i := by rw [h1.rest]; rfl
  have hstate (n : Fin 16) : u.lines[n].state = s.lines[n].state := by rw [h1.lines n]
  refine ⟨?_, h1.kept.trans h2.kept, fun n => ?_, fun n i hi r hr hn hon => ?_, fun n => ?_⟩
  · conv_lhs => rw [h2.rest, h1.rest]
  · conv_lhs => rw [h2.lines n, h1.lines n]
  · obtain ⟨l, hl, -⟩ := h2.joined n
    rcases List.mem_append.mp hi with hi | hi
    · rw [hl]
      exact List.mem_append_left _ (h1.quoted n i hi r hr hn hon)
    · exact h2.quoted n i hi r ((hinst i).trans hr) hn (by rw [hstate]; exact hon)
  · obtain ⟨l, hl, hel⟩ := h1.joined n
    obtain ⟨m, hm, hem⟩ := h2.joined n
    refine ⟨l ++ m, by rw [hm, hl, List.append_assoc], fun e he => ?_⟩
    rcases List.mem_append.mp he with he | he
    · exact hel e he
    · obtain ⟨hon, i, r, rfl, hr, hn⟩ := hem e he
      exact ⟨by rw [← hstate]; exact hon, i, r, rfl, by rw [← hinst]; exact hr, hn⟩

theorem quoteEach_quoted (is : List Nat) (s : State) : Quoted is s (quoteEach is s) := by
  unfold quoteEach
  induction is generalizing s with
  | nil =>
    exact ⟨rfl, .refl _, fun _ => rfl, fun n i hi => (by cases hi),
      fun n => ⟨[], by simp, fun e he => (by cases he)⟩⟩
  | cons i is ih => exact (noticeLines_quoted i s).trans (ih _)

theorem firstHold_some {rs : List Instrument} {i : Nat} {r : Instrument} {h : Hold} (h0 : rs[i]? = some r)
    (hh : r.hold = some h) (hmin : ∀ j r', j < i → rs[j]? = some r' → r'.hold = none) : firstHold rs = some i := by
  have hlt := (List.getElem?_eq_some_iff.mp h0).1
  unfold firstHold
  rw [List.find?_range_eq_some]
  refine ⟨by simp [h0, hh], by simpa using hlt, fun j hj => ?_⟩
  have hj' : j < rs.length := by omega
  have := hmin j rs[j] hj (List.getElem?_eq_getElem hj')
  simp [List.getElem?_eq_getElem hj', this]

theorem firstHold_none {rs : List Instrument} (h : ∀ r ∈ rs, r.hold = none) : firstHold rs = none := by
  unfold firstHold
  rw [List.find?_range_eq_none]
  intro i hi
  have := h rs[i] (List.getElem_mem hi)
  simp [List.getElem?_eq_getElem hi, this]

theorem closeDay_held {i : Nat} (h : firstHold u.tbl.instruments = some i) :
    closeDay u = endRefused .heldPrices i u := by
  simp only [closeDay, h]

theorem closeDay_unheld (h : firstHold u.tbl.instruments = none) :
    closeDay u = endDone (noticeAll (post .partState (dayClosed u))) := by
  simp only [closeDay, h] <;> rfl

theorem Instrument.closeDay_eq (r : Instrument) :
    r.closeDay =
      { r with close := if r.last.isSome then r.last else r.close, high := none, low := none, volume := 0 } := by
  unfold Instrument.closeDay
  cases r.last <;> rfl

/-- The day is turned over and every change notice is sent. -/
theorem noticeAll_quoted (s : State) :
    ∃ q, Quoted (List.range s.tbl.instruments.length) s q ∧ noticeAll s = { q with links := (noticeAll s).links } ∧
      s.Recomputed (noticeAll s) fun _ => True := by
  have hq := quoteEach_quoted (List.range s.tbl.instruments.length) s
  rw [noticeAll_eq]
  generalize quoteEach (List.range s.tbl.instruments.length) s = q at hq ⊢
  have hboards := recomputeBoards_recomputed (u := s) (v := q) (which := fun _ => true)
    (by rw [hq.rest]) (by rw [hq.rest]) (by rw [hq.rest]) (by rw [hq.rest])
  have hr := recomputeBoards_eq (fun _ => true) q
  have hc := chooseAll_eq (recomputeBoards (fun _ => true) q)
  generalize recomputeBoards (fun _ => true) q = x at hboards hr hc ⊢
  generalize chooseAll x = t at hboards hc ⊢
  refine ⟨q, hq, ?_, hboards.congr (fun _ => by simp) rfl rfl rfl rfl rfl rfl⟩
  conv_lhs => rw [hc, hr]

/-- Settles O26. -/
theorem closeEndsDay : Obligations.CloseEndsDay := by
  intro w s ho hcode hstate
  obtain ⟨u, hu, ht⟩ := onCommand_takes (codes := (· == 2)) (owning := closeDay) ho (by simp [hcode])
    (by simp [hcode, unknownCode]) (fun h => absurd h hstate)
  have hexec : exec .close s = .next (grant (closeDay u)) := congrArg answer hu
  have hinstruments : u.tbl.instruments = s.tbl.instruments := by rw [ht.posts.eq]; rfl
  refine ⟨fun i r h h0 hh hmin => ?_, fun hnone => ?_⟩
  · have hfirst : firstHold u.tbl.instruments = some i := by
      rw [hinstruments]
      exact firstHold_some h0 hh hmin
    exact answersEnded_of (by rw [hexec, closeDay_held hfirst]; rfl) ht.posts
  · have hfirst : firstHold u.tbl.instruments = none := by
      rw [hinstruments]
      exact firstHold_none hnone
    rw [hexec, closeDay_unheld hfirst]
    have hclosed := ht.change dayClosed fun _ _ _ => rfl
    have hposted := hclosed.trans (post_onlyPosts .partState (dayClosed u))
    have hpart := post_posted .partState (dayClosed u)
    generalize post .partState (dayClosed u) = v at hposted hpart ⊢
    obtain ⟨q, hq, hall, hboards⟩ := noticeAll_quoted v
    have hpart' := posted_endCommand (code := none) (d := 0) (by decide) ((noticeAll_covers v).stays hpart)
    have hend := endCommand_onlyPosts none 0 (noticeAll v)
    generalize noticeAll v = y at hall hboards hpart' hend ⊢
    obtain ⟨hdone, hcommand⟩ := hend
    have hfold : endDone y = endCommand none 0 y := rfl
    rw [hfold]
    generalize endCommand none 0 y = t at hpart' hdone hcommand ⊢
    have hv := hposted.eq
    have hy : y = { q with links := y.links } := hall
    have hqrest := hq.rest
    have htrest : t =
        { (dayClosed (s.begun w)).runEnded none 0 with
          mem := { s.mem with parts := t.mem.parts }
          ctl := { ((dayClosed (s.begun w)).runEnded none 0).ctl with writeBack := t.ctl.writeBack }
          links := y.links
          lines := q.lines } := by
      rw [hdone.eq]
      conv_lhs => rw [hy, hqrest, hv]
      rfl
    have hvlines : v.lines = s.lines := by rw [hv]; rfl
    have htlines : t.lines = q.lines := by rw [htrest]
    have httbl : t.tbl = (dayClosed s).tbl := by rw [htrest]; rfl
    have hvtbl : v.tbl = (dayClosed s).tbl := by rw [hv]; rfl
    have hinst (i : Nat) : (grant t).instrument? i = v.instrument? i := by
      simp only [State.instrument?, grant_tbl, httbl, hvtbl]
    refine ⟨grant t, rfl, ?_, ?_, ?_, posted_grant hpart', posted_grant hcommand, ?_, ?_, ?_, ?_, ?_, ?_, ?_, ?_, ?_, ?_, ?_,
      ?_, ?_, ?_⟩
    · have hclose : Instrument.closeDay = fun r =>
          { r with close := if r.last.isSome then r.last else r.close, high := none, low := none, volume := 0 } :=
        funext Instrument.closeDay_eq
      rw [grant_tbl, httbl, dayClosed, hclose]
    · rw [grant_ctl, htrest, ← hcode]
      rfl
    · rw [grant_ctl, htrest]
      rfl
    · rw [grant_handed, htrest]
      rfl
    · refine hboards.congr (fun _ => .rfl) (by rw [hv]; rfl) (by rw [hv]; rfl) (by rw [hv]; rfl) (by rw [hv]; rfl) ?_ ?_
      · rw [grant_links, htrest]
      · rw [grant_tbl, hdone.eq]
        rfl
    · intro n i r hr hn hon
      rw [grant_lines, htlines]
      rw [hinst] at hr
      refine hq.quoted n i ?_ r hr hn (by rw [hvlines]; exact hon)
      exact List.mem_range.mpr (List.getElem?_eq_some_iff.mp hr).1
    · intro n
      obtain ⟨l, hl, hel⟩ := hq.joined n
      rw [grant_lines, htlines, ← hvlines]
      refine ⟨l, hl, fun e he => ?_⟩
      obtain ⟨hon, i, r, hei, hr, hn⟩ := hel e he
      exact ⟨hon, i, r, hei, (hinst i).trans hr, hn⟩
    · intro n
      rw [grant_lines, htlines, ← hvlines]
      exact hq.lines n
    · rw [grant_ram, htrest]
    · rw [grant_guards, htrest]
    · rw [grant_cap, htrest]
      rfl
    · rw [grant_drive, htrest]
      rfl
    · rw [grant_tape, htrest]
      rfl
    · rw [grant_rst, htrest]
      rfl
    · rw [grant_ctl, htrest]
      rfl
    · rw [grant_ctl, htrest]
      rfl
    · rw [grant_ctl]
      have hyq : y.ctl.writeBack = q.ctl.writeBack := by rw [hy]
      have hend : y.ctl.writeBack.Kept t.ctl.writeBack := hdone.kept
      rw [hyq] at hend
      exact (hposted.kept.trans hq.kept).trans hend

end

end Sys2Proof.Machine
end


section
/-! A field word of an instrument (R58, R65 to R67, R75). -/

namespace Sys2Proof.Machine

open Sys2Proof

section
variable {i : Nat} {s u : State} {w : Word} {rest : List Handed}

/-- The Fetch Queue after a field word of instrument `i`: an attempt in progress at the head, on that instrument, is torn
(R75). -/
def tornQueue (i : Nat) (attempt : Option FetchAttempt) (q : List FetchEntry) : List FetchEntry :=
  match attempt, q with
  | some _, e :: rest => (if e.instr = i then { e with torn := true } else e) :: rest
  | _, q => q

theorem tearFetch_eq (i : Nat) (u : State) :
    tearFetch i u = setCap { u.cap with fetchQueue := tornQueue i u.cap.attempt u.cap.fetchQueue } u := by
  have hsame : u = setCap { u.cap with fetchQueue := u.cap.fetchQueue } u := rfl
  unfold tearFetch
  cases ha : u.cap.attempt with
  | none => exact hsame
  | some a =>
    cases hq : u.cap.fetchQueue with
    | nil =>
      rw [hq] at hsame
      exact hsame
    | cons e rest =>
      by_cases he : e.instr = i
      · simp only [he, if_true, tornQueue, setCap]
      · rw [hq] at hsame
        simpa [he, tornQueue] using hsame

/-- The queue of the staging slots: what a field word of an instrument with a slot, or without, does to them (R67). -/
theorem stageWord_slot {n : Fin 7} {t : StagingSlot} (h : u.cap.slot i = some t) :
    stageWord i n w u =
      setCap { u.cap with staging := u.cap.staging.map (fun t => if t.instr = i then t.write n w else t) } u := by
  simp only [stageWord, h]

theorem stageWord_noSlot {n : Fin 7} {r : Instrument} (h : u.cap.slot i = none) (h0 : u.instrument? i = some r) :
    stageWord i n w u =
      if r.fetchOnCommit then u
      else if u.cap.staging.length < 16 then
        setCap { u.cap with staging := u.cap.staging ++ [⟨i, u.ctl.timeBase, noValues.set n (some w)⟩] } u
      else setInstrument i { r with fetchOnCommit := true } u := by
  simp only [stageWord, h, h0]

theorem exec_fieldWrite {n : Fin 7} (hr : s.rst.inReset = false) (hh : s.handed = .capture i n.val w :: rest) :
    exec .fieldWrite s = .next (grant (byStanding i (takeField i n w) { s with handed := rest })) := by
  have hpop : popHanded s = { s with handed := rest } := by
    unfold popHanded
    rw [hh]
    rfl
  have htake : exec .fieldWrite s = .next (grant (onCaptureWord (fun n => decide (n < 7))
      (fun i n w s => if h : n < 7 then byStanding i (takeField i ⟨n, h⟩ w) s else s) s)) := rfl
  rw [htake, onCaptureWord, hh]
  simp [hr, hpop, n.isLt]

theorem standing_read (i : Nat) (s : State) : s.standing i = .read ↔ ∀ r, s.load = .phase2 r → i < r.instr := by
  unfold State.standing
  cases hl : s.load with
  | phase2 r =>
    by_cases hi : i < r.instr
    · simp [hi]
    · by_cases hf : i = r.instr ∧ r.inFlight = true <;> simp [hi, hf]
  | _ => simp

theorem standing_inFlight (i : Nat) (s : State) :
    s.standing i = .inFlight ↔ ∃ r, s.load = .phase2 r ∧ i = r.instr ∧ r.inFlight = true := by
  unfold State.standing
  cases hl : s.load with
  | phase2 r =>
    by_cases hi : i < r.instr
    · simp only [hi, if_true, LoadProgress.phase2.injEq, exists_eq_left', reduceCtorEq, false_iff]
      omega
    · by_cases hf : i = r.instr ∧ r.inFlight = true <;> simp [hi, hf]
  | _ => simp

theorem slot_some {c : CaptureUnit} {t : StagingSlot} (h : c.slot i = some t) : t ∈ c.staging ∧ t.instr = i :=
  ⟨List.mem_of_find?_eq_some h, by simpa using List.find?_some h⟩

theorem slot_none_iff {c : CaptureUnit} : c.slot i = none ↔ ∀ t ∈ c.staging, t.instr ≠ i := by
  simp [CaptureUnit.slot]

theorem byStanding_read {take : State → State} (h : u.standing i = .read) : byStanding i take u = take u := by
  simp only [byStanding, h]

theorem byStanding_unread {take : State → State} (h : u.standing i = .unread) : byStanding i take u = u := by
  simp only [byStanding, h]

theorem byStanding_inFlight {take : State → State} {r : RecordRead} (h : u.standing i = .inFlight)
    (hl : u.load = .phase2 r) : byStanding i take u = { u with load := .phase2 { r with torn := true } } := by
  simp only [byStanding, h, tearPhase2, hl]

/-- Settles O27. -/
theorem fieldStaged : Obligations.FieldStaged := by
  refine ⟨fun i n w rest s hr hh => ?_, fun i s =>
    ⟨standing_read i s, standing_inFlight i s, fun t h => slot_some h, slot_none_iff⟩⟩
  intro u queue with_
  rw [exec_fieldWrite hr hh]
  have hqueue : queue = tornQueue i s.cap.attempt s.cap.fetchQueue := by
    simp only [queue]
    cases s.cap.attempt with
    | none => rfl
    | some a => cases s.cap.fetchQueue <;> rfl
  have hread (h : s.standing i = .read) :
      byStanding i (takeField i n w) { s with handed := rest } = stageWord i n w (with_ s.cap.staging) := by
    rw [byStanding_read (u := { s with handed := rest }) h, takeField, tearFetch_eq]
    simp only [with_, hqueue]
    rfl
  refine ⟨fun h => ?_, fun r hl h => ?_, fun h r h0 => ?_⟩
  · rw [byStanding_unread (u := { s with handed := rest }) h]
  · rw [byStanding_inFlight (u := { s with handed := rest }) h hl]
  · rw [hread h]
    have h0' : (with_ s.cap.staging).instrument? i = some r := h0
    refine ⟨fun t ht => ?_, fun hn hf => ?_, fun hn hf hlt => ?_, fun hn hf hge => ?_⟩
    · rw [stageWord_slot (u := with_ s.cap.staging) (t := t) ht]
      rfl
    · rw [stageWord_noSlot (u := with_ s.cap.staging) hn h0', if_pos hf]
    · have hlt' : (with_ s.cap.staging).cap.staging.length < 16 := hlt
      rw [stageWord_noSlot (u := with_ s.cap.staging) hn h0', if_neg (by simp [hf]), if_pos hlt']
      rfl
    · have hge' : ¬ (with_ s.cap.staging).cap.staging.length < 16 := Nat.not_lt.mpr hge
      rw [stageWord_noSlot (u := with_ s.cap.staging) hn h0', if_neg (by simp [hf]), if_neg hge']
      rfl

end

end Sys2Proof.Machine
end


section
/-! The application of a commit, exactly: its record by the four steps, its faults in order, its change notice (R79 to
R84). -/

namespace Sys2Proof.Machine

open Sys2Proof

/-- The scope of an application before its notice: the Instrument Records and the Capture Unit. -/
def recordsScope : Scope := ⟨false, false, false, true⟩

/-- `t` is `s` but for the port, what waits for it, the Capture Unit's queues and the handed writes. -/
def AsidePort (s t : State) : Prop :=
  t =
    { s with
      mem := { s.mem with waiting := t.mem.waiting, parts := t.mem.parts, port := t.mem.port }
      cap := t.cap
      handed := t.handed }

section
variable {i : Nat} {s s0 t t0 u v : State} {fs : List Posting} {r r' : Instrument} {c : CommitFlags} {seq : BitVec 12}
  {time : Time} {x : FieldValues}

/-! ### Beside the port -/

theorem AsidePort.refl (s : State) : AsidePort s s := rfl

theorem AsidePort.trans (h1 : AsidePort s u) (h2 : AsidePort u t) : AsidePort s t := by
  unfold AsidePort
  rw [h2, h1]

theorem grant_aside (s : State) : AsidePort s (grant s) := by
  unfold AsidePort
  conv_lhs => rw [grant_eq]
  rw [grant_cap, grant_handed]

theorem setCap_aside (c : CaptureUnit) (s : State) : AsidePort s (setCap c s) := rfl

theorem placePart_aside (p : PartSource) (a : Nat) (w : Option Word) (s : State) : AsidePort s (placePart p a w s) := rfl

/-- What a commit's application has done from `s` to `t` it has done beside the port. -/
theorem AppliesTo.aside (h : AppliesTo i s t) (hs : AsidePort s0 s) (ht : AsidePort t t0) : AppliesTo i s0 t0 := by
  obtain ⟨h1, h2, h3, h4, h5, h6, h7, h8, h9, h10, h11, h12, h13, h14, h15⟩ := h
  rw [hs] at h1 h2 h3 h4 h5 h6 h7 h8 h9 h10 h11 h12 h13 h14 h15
  rw [ht]
  exact ⟨h1, h2, h3, h4, h5, h6, h7, h8, h9, h10, h11, h12, h13, h14, h15⟩

theorem NoticeSent.aside {part : Option TradePart} {sent : Prop} (h : NoticeSent i r r' part sent s t)
    (hs : AsidePort s0 s) (ht : AsidePort t t0) : NoticeSent i r r' part sent s0 t0 :=
  (h.before rfl rfl rfl rfl (by rw [hs]) (by rw [hs]) (by rw [hs]) (by rw [hs]) (by rw [hs]) (by rw [hs])).after
    (by rw [ht]) (by rw [ht]) (by rw [ht]) (by rw [ht])

theorem faultsPosted_aside (h : FaultsPosted s t fs) (hs : AsidePort s0 s) (ht : AsidePort t t0) :
    FaultsPosted s0 t0 fs := by
  rw [hs] at h
  rw [ht]
  exact h

theorem CommitApplied.aside {before : List Posting} (h : CommitApplied i r r' c seq time x before s t)
    (hs : AsidePort s0 s) (ht : AsidePort t t0) : CommitApplied i r r' c seq time x before s0 t0 := by
  have hbase : s.ctl = s0.ctl := by rw [hs]
  have htape : s.tape = s0.tape := by rw [hs]
  refine ⟨?_, ?_, h.scope.aside hs ht, ?_, h.notice.aside hs ht⟩
  · have htbl : t0.tbl = t.tbl := by rw [ht]
    simp only [State.instrument?, htbl]
    exact h.record
  · rw [← hbase]
    exact h.value
  · rw [← htape]
    exact faultsPosted_aside h.faults hs ht

theorem MarketWork.appliesTo (h : MarketWork i s fs t) : AppliesTo i s t := by
  have hr := h.rest
  refine ⟨h.others, ?_, h.count, ?_, ⟨?_, ?_, ?_⟩, ?_, ?_, h.kept, ?_, ?_, ?_, ?_, h.lines, ?_, ?_⟩ <;>
    conv_lhs => rw [hr]

/-! ### The four steps -/

theorem applyHalt_some (h0 : u.instrument? i = some r) :
    applyHalt i c u =
      if c.halt then
        (if r.halted then u else cancelHold i (setInstrument i { r with halted := true } u))
      else if c.resume then setInstrument i { r with halted := false } u
      else u := by
  simp only [applyHalt, h0]

/-- The fault of a hold that a halt cancels. -/
def cancelFaults (i : Nat) (r : Instrument) (c : CommitFlags) : List Posting :=
  match r.hold with
  | some o =>
    if c.halt = true ∧ r.halted = false then [(.holdCancelled, .instrument i, [o.price, o.size, o.captured.toNat])]
    else []
  | none => []

theorem applyHalt_market (h : MarketWork i s fs u) (h0 : u.instrument? i = some r) :
    (applyHalt i c u).instrument? i = some (r.afterHalt c) ∧
      MarketWork i s (fs ++ cancelFaults i r c) (applyHalt i c u) := by
  have hquiet (hc : ¬ (c.halt = true ∧ r.halted = false)) : cancelFaults i r c = [] := by
    unfold cancelFaults
    cases r.hold with
    | none => rfl
    | some o => exact if_neg hc
  rw [applyHalt_some h0]
  unfold Instrument.afterHalt
  by_cases hh : c.halt = true
  · rw [if_pos hh, if_pos hh]
    by_cases hr : r.halted = true
    · rw [if_pos hr, if_pos hr, hquiet (by simp [hr]), List.append_nil]
      exact ⟨h0, h⟩
    · rw [if_neg hr, if_neg hr]
      have hset := h.setInstrument { r with halted := true }
      have hrec := setInstrument_self_instrument? h0 { r with halted := true }
      generalize setInstrument i { r with halted := true } u = v at hset hrec
      cases ho : r.hold with
      | none =>
        have hsame : cancelHold i v = v := by simp only [cancelHold, hrec, ho]
        have hf : cancelFaults i r c = [] := by simp only [cancelFaults, ho]
        rw [hsame, hf, List.append_nil]
        refine ⟨?_, hset⟩
        rw [hrec, ← ho]
      | some o =>
        have hcancel : cancelHold i v = setInstrument i { r with halted := true, hold := none }
            (postFault .holdCancelled (.instrument i) [o.price, o.size, o.captured.toNat] v) := by
          simp only [cancelHold, hrec, ho]
        have hf : cancelFaults i r c =
            [(.holdCancelled, .instrument i, [o.price, o.size, o.captured.toNat])] := by
          simp [cancelFaults, ho, hh, hr]
        rw [hcancel, hf]
        exact ⟨setInstrument_self_instrument? ((postFault_instrument? _ _ _ v i).trans hrec) _,
          (hset.fault _ _ _).setInstrument _⟩
  · rw [if_neg hh, if_neg hh, hquiet (fun h => hh h.1), List.append_nil]
    by_cases hres : c.resume = true
    · rw [if_pos hres, if_pos hres]
      exact ⟨setInstrument_self_instrument? h0 _, h.setInstrument _⟩
    · rw [if_neg hres, if_neg hres]
      exact ⟨h0, h⟩

/-- An Instrument Record after the QUOTE group has been applied (R81). -/
def Instrument.afterQuote (r : Instrument) (c : CommitFlags) (v : FieldValues) : Instrument :=
  if c.quote then
    { r with bid := quoteField r.base v[3] v[4] r.bid, ask := quoteField r.base v[5] v[6] r.ask }
  else r

theorem applyQuote_market (h : MarketWork i s fs u) (h0 : u.instrument? i = some r) :
    (applyQuote i c x u).instrument? i = some (r.afterQuote c x) ∧ MarketWork i s fs (applyQuote i c x u) := by
  simp only [applyQuote, h0, Instrument.afterQuote]
  by_cases hq : c.quote = true
  · rw [if_pos hq, if_pos hq]
    exact ⟨setInstrument_self_instrument? h0 _, h.setInstrument _⟩
  · rw [if_neg hq, if_neg hq]
    exact ⟨h0, h⟩

/-- An Instrument Record after the TRADE group has been applied, with the trade part (R79, R82). -/
def Instrument.traded (r : Instrument) (now : Time) (c : CommitFlags) (time : Time) (v : FieldValues) :
    Instrument × Option TradePart :=
  match tradeRead c v with
  | none => (r, none)
  | some (u, z) => if r.halted then (r, none) else r.arrived now u z time

/-- The fault of a hold that an arriving trade of `q` steps supersedes. -/
def supersedeFaults (i q : Nat) (r : Instrument) : List Posting :=
  match r.hold with
  | none => []
  | some o => [(.holdSuperseded, .instrument i, [o.price, o.size, if bandTakes r q then 0 else 1])]

/-- The fault of the TRADE group. -/
def tradeFaults (i : Nat) (r : Instrument) (c : CommitFlags) (seq : BitVec 12) (v : FieldValues) : List Posting :=
  match tradeRead c v with
  | none => []
  | some (u, z) =>
    if r.halted then [(.tradeWhileHalted, .instrument i, [u, z, seq.toNat])]
    else supersedeFaults i (quantize r.base u) r

theorem applyTrade_none (h : tradeRead c x = none) : applyTrade i c seq time x u = (u, none) := by
  unfold applyTrade
  split
  · rename_i hl lo z r h1 h2 h3 h4 h5
    simp [tradeRead, h1, h2, h3, h4] at h
  · rfl

theorem applyTrade_some {q z : Nat} (h : tradeRead c x = some (q, z)) (h0 : u.instrument? i = some r) :
    applyTrade i c seq time x u =
      if r.halted then (postFault .tradeWhileHalted (.instrument i) [q, z, seq.toNat] u, none)
      else tradeArrives i q z time u := by
  unfold tradeRead at h
  split at h
  · rename_i a b d h1 h2 h3 h4
    cases h
    simp only [applyTrade, h1, h2, h3, h4, h0] <;> rfl
  · cases h

theorem supersedeHold_market {q : Nat} (h : MarketWork i s fs u) (r : Instrument) :
    MarketWork i s (fs ++ supersedeFaults i q r) (supersedeHold i q r u) := by
  unfold supersedeHold supersedeFaults
  cases r.hold with
  | none => simpa using h
  | some o => exact h.fault _ _ _

theorem applyTrade_market (h : MarketWork i s fs u) (h0 : u.instrument? i = some r) :
    (applyTrade i c seq time x u).1.instrument? i = some (r.traded s.ctl.timeBase c time x).1 ∧
      (applyTrade i c seq time x u).2 = (r.traded s.ctl.timeBase c time x).2 ∧
      MarketWork i s (fs ++ tradeFaults i r c seq x) (applyTrade i c seq time x u).1 := by
  unfold Instrument.traded tradeFaults
  cases hread : tradeRead c x with
  | none =>
    rw [applyTrade_none hread]
    exact ⟨h0, rfl, by simpa using h⟩
  | some p =>
    obtain ⟨q, z⟩ := p
    rw [applyTrade_some hread h0]
    by_cases hh : r.halted = true
    · simp only [if_pos hh, true_and]
      exact ⟨(postFault_instrument? _ _ _ u i).trans h0, h.fault _ _ _⟩
    · simp only [if_neg hh]
      rw [tradeArrives_eq h0, h.timeBase]
      refine ⟨setInstrument_self_instrument? ((supersedeHold_instrument? i _ r u i).trans h0) _, rfl, ?_⟩
      exact (supersedeHold_market h r).setInstrument _

/-- An Instrument Record after the fast flags have been applied (R83). -/
def Instrument.afterFast (r : Instrument) (c : CommitFlags) : Instrument :=
  if c.fastOn then { r with fast := true } else if c.fastOff then { r with fast := false } else r

theorem applyFast_market (h : MarketWork i s fs u) (h0 : u.instrument? i = some r) :
    (applyFast i c u).instrument? i = some (r.afterFast c) ∧ MarketWork i s fs (applyFast i c u) := by
  simp only [applyFast, h0, Instrument.afterFast]
  by_cases hon : c.fastOn = true
  · rw [if_pos hon, if_pos hon]
    exact ⟨setInstrument_self_instrument? h0 _, h.setInstrument _⟩
  · rw [if_neg hon, if_neg hon]
    by_cases hoff : c.fastOff = true
    · rw [if_pos hoff, if_pos hoff]
      exact ⟨setInstrument_self_instrument? h0 _, h.setInstrument _⟩
    · rw [if_neg hoff, if_neg hoff]
      exact ⟨h0, h⟩

/-! ### The whole application -/

/-- An Instrument Record before the fast flags, with the trade part of the notice. -/
def Instrument.threeSteps (r : Instrument) (now : Time) (c : CommitFlags) (time : Time) (v : FieldValues) :
    Instrument × Option TradePart :=
  ((r.afterHalt c).afterQuote c v).traded now c time v

theorem afterHalt_kept (r : Instrument) (c : CommitFlags) :
    r.afterHalt c = { r with halted := (r.afterHalt c).halted, hold := (r.afterHalt c).hold } := by
  unfold Instrument.afterHalt
  split
  · split <;> rfl
  · split <;> rfl

theorem afterQuote_kept (r : Instrument) (c : CommitFlags) (v : FieldValues) :
    r.afterQuote c v = { r with bid := (r.afterQuote c v).bid, ask := (r.afterQuote c v).ask } := by
  unfold Instrument.afterQuote
  split <;> rfl

theorem bandTakes_congr {r1 r2 : Instrument} (hl : r1.last = r2.last) (hb : r1.base = r2.base) (hband : r1.band = r2.band)
    (q : Nat) : bandTakes r1 q = bandTakes r2 q := by
  unfold bandTakes
  rw [hl, hb, hband]

theorem afterTrade_eq (r : Instrument) (now : Time) (u z : Nat) (captured : Time) :
    r.afterTrade now u z captured = (r.arrived now u z captured).1 := by
  unfold Instrument.afterTrade Instrument.arrived
  dsimp only
  split <;> rfl

theorem traded_none (h : tradeRead c x = none) (r : Instrument) (now : Time) : r.traded now c time x = (r, none) := by
  simp only [Instrument.traded, h]

theorem traded_some {q z : Nat} (h : tradeRead c x = some (q, z)) (r : Instrument) (now : Time) :
    r.traded now c time x = if r.halted then (r, none) else r.arrived now q z time := by
  simp only [Instrument.traded, h]

/-- The record before the TRADE group: halted, or resumed, and quoted. -/
theorem afterCommit_unfold (r : Instrument) (now : Time) (c : CommitFlags) (time : Time) (v : FieldValues) :
    r.afterCommit now c time v =
      (((r.afterHalt c).afterQuote c v).traded now c time v).1.afterFast c := by
  have hb : r.base = (r.afterHalt c).base := by rw [afterHalt_kept]
  have htraded : ∀ q : Instrument, (q.traded now c time v).1 =
      match tradeRead c v with
      | some (u, z) => if q.halted then q else q.afterTrade now u z time
      | none => q := by
    intro q
    cases hread : tradeRead c v with
    | none => rw [traded_none hread]
    | some p =>
      rw [traded_some hread]
      dsimp only
      rw [afterTrade_eq]
      split <;> rfl
  unfold Instrument.afterFast
  rw [htraded]
  unfold Instrument.afterCommit
  rw [hb]
  rfl

theorem afterCommit_eq (r : Instrument) (now : Time) (c : CommitFlags) (time : Time) (v : FieldValues) :
    r.afterCommit now c time v = (r.threeSteps now c time v).1.afterFast c := afterCommit_unfold r now c time v

/-- The record that meets the TRADE group decides as the record before the commit does. -/
theorem quoted_kept (r : Instrument) (c : CommitFlags) (v : FieldValues) :
    ((r.afterHalt c).afterQuote c v).halted = (r.afterHalt c).halted ∧
      ((r.afterHalt c).afterQuote c v).hold = (r.afterHalt c).hold ∧
      ((r.afterHalt c).afterQuote c v).base = r.base ∧
      ∀ q, bandTakes ((r.afterHalt c).afterQuote c v) q = bandTakes r q := by
  refine ⟨by rw [afterQuote_kept], by rw [afterQuote_kept], by rw [afterQuote_kept, afterHalt_kept], fun q => ?_⟩
  refine bandTakes_congr ?_ ?_ ?_ q <;> rw [afterQuote_kept, afterHalt_kept]

theorem partTaken_eq (r : Instrument) (now : Time) (c : CommitFlags) (time : Time) (v : FieldValues) :
    (r.threeSteps now c time v).2 = r.partTaken c time v := by
  obtain ⟨hh, -, hb, hband⟩ := quoted_kept r c v
  unfold Instrument.threeSteps Instrument.partTaken
  cases hread : tradeRead c v with
  | none => rw [traded_none hread]
  | some p =>
    rw [traded_some hread, hh, Instrument.arrived, hb]
    dsimp only
    rw [hband]
    by_cases hhalt : (r.afterHalt c).halted = true
    · simp [hhalt]
    · by_cases ht : bandTakes r (quantize r.base p.1) = true <;> simp [hhalt, ht]

theorem commitFaults_eq (i : Nat) (r : Instrument) (seq : BitVec 12) (c : CommitFlags) (time : Time) (v : FieldValues)
    (full : Bool) :
    cancelFaults i r c ++ tradeFaults i ((r.afterHalt c).afterQuote c v) c seq v ++
        printFaults i r (r.partTaken c time v) full = r.commitFaults i seq c time v full := by
  obtain ⟨hh, hhold, hb, hband⟩ := quoted_kept r c v
  unfold Instrument.commitFaults
  refine congrArg₂ (· ++ ·) (congrArg₂ (· ++ ·) ?_ ?_) ?_
  · unfold cancelFaults
    cases r.hold <;> rfl
  · unfold tradeFaults supersedeFaults
    cases tradeRead c v with
    | none => rfl
    | some p =>
      dsimp only
      rw [hh, hhold, hb, hband] <;> rfl
  · unfold printFaults
    cases r.partTaken c time v <;> rfl

theorem afterFast_kept (r : Instrument) (c : CommitFlags) : r.afterFast c = { r with fast := (r.afterFast c).fast } := by
  unfold Instrument.afterFast
  split
  · rfl
  · split <;> rfl

theorem arrived_kept (r : Instrument) (now : Time) (u z : Nat) (captured : Time) :
    (r.arrived now u z captured).1.eligible = r.eligible ∧ (r.arrived now u z captured).1.base = r.base ∧
      (r.arrived now u z captured).1.watchers = r.watchers ∧ (r.arrived now u z captured).1.full = r.full := by
  unfold Instrument.arrived
  dsimp only
  split <;> exact ⟨rfl, rfl, rfl, rfl⟩

/-- What a commit leaves of a record: what a notice goes by. -/
theorem afterCommit_kept (r : Instrument) (now : Time) (c : CommitFlags) (time : Time) (v : FieldValues) :
    (r.afterCommit now c time v).eligible = r.eligible ∧ (r.afterCommit now c time v).base = r.base ∧
      (r.afterCommit now c time v).watchers = r.watchers ∧ (r.afterCommit now c time v).full = r.full := by
  have hquote : ((r.afterHalt c).afterQuote c v).eligible = r.eligible ∧
      ((r.afterHalt c).afterQuote c v).base = r.base ∧ ((r.afterHalt c).afterQuote c v).watchers = r.watchers ∧
      ((r.afterHalt c).afterQuote c v).full = r.full := by
    rw [afterQuote_kept, afterHalt_kept]
    exact ⟨rfl, rfl, rfl, rfl⟩
  rw [afterCommit_unfold, afterFast_kept]
  generalize (r.afterHalt c).afterQuote c v = q at hquote ⊢
  cases hread : tradeRead c v with
  | none =>
    rw [traded_none hread]
    exact hquote
  | some p =>
    rw [traded_some hread]
    obtain ⟨h1, h2, h3, h4⟩ := hquote
    obtain ⟨k1, k2, k3, k4⟩ := arrived_kept q now p.1 p.2 time
    split
    · exact ⟨h1, h2, h3, h4⟩
    · exact ⟨k1.trans h1, k2.trans h2, k3.trans h3, k4.trans h4⟩

/-- The four steps of an application, before its notice. -/
def fourSteps (i : Nat) (c : CommitFlags) (seq : BitVec 12) (time : Time) (v : FieldValues) (s : State) : State :=
  applyFast i c (applyTrade i c seq time v (applyQuote i c v (applyHalt i c s))).1

theorem fourSteps_market (h : MarketWork i s fs u) (h0 : u.instrument? i = some r) :
    (fourSteps i c seq time x u).instrument? i = some (r.afterCommit s.ctl.timeBase c time x) ∧
      (applyTrade i c seq time x (applyQuote i c x (applyHalt i c u))).2 = r.partTaken c time x ∧
      MarketWork i s (fs ++ cancelFaults i r c ++ tradeFaults i ((r.afterHalt c).afterQuote c x) c seq x)
        (fourSteps i c seq time x u) := by
  obtain ⟨hr1, h1⟩ := applyHalt_market (c := c) h h0
  obtain ⟨hr2, h2⟩ := applyQuote_market (c := c) (x := x) h1 hr1
  obtain ⟨hr3, hpart, h3⟩ := applyTrade_market (c := c) (seq := seq) (time := time) (x := x) h2 hr2
  obtain ⟨hr4, h4⟩ := applyFast_market (c := c) h3 hr3
  rw [afterCommit_eq, ← partTaken_eq r s.ctl.timeBase]
  exact ⟨hr4, hpart, h4⟩

theorem fourSteps_outside (i : Nat) (c : CommitFlags) (seq : BitVec 12) (time : Time) (v : FieldValues) (s : State) :
    (fourSteps i c seq time v s).outside recordsScope = s.outside recordsScope := by
  unfold fourSteps
  rw [applyFast_outside rfl, applyTrade_outside rfl, applyQuote_outside rfl, applyHalt_outside rfl]

/-- What keeps to the records leaves the tape, the lines and the links. -/
theorem same_of_recordsScope (h : t.outside recordsScope = s.outside recordsScope) :
    t.tape = s.tape ∧ t.lines = s.lines ∧ t.links = s.links :=
  ⟨(congrArg State.tape h :), (congrArg State.lines h :), (congrArg State.links h :)⟩

theorem applyCommit_eq (h0 : u.instrument? i = some r) (h1 : (fourSteps i c seq time x u).instrument? i = some r') :
    applyCommit i c seq time x u =
      if visiblyChanged r r' (applyTrade i c seq time x (applyQuote i c x (applyHalt i c u))).2 then
        notify i (applyTrade i c seq time x (applyQuote i c x (applyHalt i c u))).2 (fourSteps i c seq time x u)
      else fourSteps i c seq time x u := by
  unfold fourSteps at h1
  simp only [applyCommit, h0, h1, fourSteps]

theorem visiblyChanged_iff (old new : Instrument) (part : Option TradePart) :
    visiblyChanged old new part = true ↔
      new.halted ≠ old.halted ∨ new.fast ≠ old.fast ∨ new.bid ≠ old.bid ∨ new.ask ≠ old.ask ∨ part.isSome = true := by
  simp only [visiblyChanged, Bool.or_eq_true, bne_iff_ne, or_assoc]
  exact or_congr ne_comm (or_congr ne_comm (or_congr ne_comm (or_congr ne_comm .rfl)))

theorem NoticeSent.iff {part : Option TradePart} {sent sent' : Prop} (h : NoticeSent i r r' part sent s t)
    (hs : sent' ↔ sent) : NoticeSent i r r' part sent' s t := by
  rw [propext hs]
  exact h

/-- A commit is applied, behind the faults that came before. -/
theorem applyCommit_applied (h : MarketWork i s fs u) (h0 : u.instrument? i = some r) (htape : u.tape = s.tape)
    (hlines : u.lines = s.lines) (hlinks : u.links = s.links) :
    (∃ r', CommitApplied i r r' c seq time x fs s (applyCommit i c seq time x u)) ∧
      MarketWork i s (fs ++ r.commitFaults i seq c time x (decide (128 ≤ s.tape.queue.length)))
        (applyCommit i c seq time x u) := by
  obtain ⟨hrec, hpart, hwork⟩ := fourSteps_market (c := c) (seq := seq) (time := time) (x := x) h h0
  obtain ⟨ht4, hl4, hk4⟩ := same_of_recordsScope (fourSteps_outside i c seq time x u)
  have hfaults := commitFaults_eq i r seq c time x (decide (128 ≤ s.tape.queue.length))
  obtain ⟨he, hb, hw, hf⟩ := afterCommit_kept r s.ctl.timeBase c time x
  rw [applyCommit_eq h0 hrec, hpart]
  generalize fourSteps i c seq time x u = v at hrec hwork ht4 hl4 hk4 ⊢
  generalize hr1 : r.afterCommit s.ctl.timeBase c time x = r1 at hrec he hb hw hf ⊢
  by_cases hvis : visiblyChanged r r1 (r.partTaken c time x) = true
  · rw [if_pos hvis]
    obtain ⟨r', hr', hval, hnotice, hwork'⟩ := notify_market hwork hrec (r.partTaken c time x)
    have hqueue : v.tape.queue.length = s.tape.queue.length := by rw [ht4, htape]
    have hprint : printFaults i r1 (r.partTaken c time x) (decide (128 ≤ v.tape.queue.length)) =
        printFaults i r (r.partTaken c time x) (decide (128 ≤ s.tape.queue.length)) := by
      unfold printFaults
      rw [he, hqueue]
    rw [hprint, List.append_assoc, List.append_assoc, ← List.append_assoc (cancelFaults i r c), hfaults] at hwork'
    refine ⟨⟨r', hr', ?_, hwork'.appliesTo, hwork'.ledger.faultsPosted, ?_⟩, hwork'⟩
    · rw [hr1]
      exact hval
    · have hsent := hnotice.before (r0 := r) he hb hw hf (ht4.trans htape) (hl4.trans hlines) (hk4.trans hlinks)
        hwork.boardMap hwork.timeBase hwork.flashTime
      refine hsent.iff ⟨fun _ => trivial, fun _ => ?_⟩
      rw [visiblyChanged_iff] at hvis
      rw [hval]
      exact hvis
  · rw [if_neg hvis]
    have hnone : r.partTaken c time x = none := by
      cases hp : r.partTaken c time x with
      | none => rfl
      | some p =>
        rw [hp] at hvis
        exact absurd ((visiblyChanged_iff _ _ _).mpr (.inr (.inr (.inr (.inr rfl))))) hvis
    rw [hnone] at hvis hfaults
    have hnil : printFaults i r none (decide (128 ≤ s.tape.queue.length)) = [] := rfl
    rw [hnil, List.append_nil] at hfaults
    rw [List.append_assoc, hfaults] at hwork
    refine ⟨⟨r1, hrec, ?_, hwork.appliesTo, hwork.ledger.faultsPosted, ?_⟩, hwork⟩
    · rw [hr1]
    · have hquiet : NoticeSent i r r1 none False s v := by
        refine noticeSent_none hf (ht4.trans htape) (hl4.trans hlines) fun k => ?_
        rw [hk4, hlinks]
        exact SameLink.refl _
      rw [hnone]
      exact hquiet.iff ⟨fun hs => hvis ((visiblyChanged_iff _ _ _).mpr hs), False.elim⟩

end

end Sys2Proof.Machine
end


section
/-! Commits as they come (R58, R69 to R73, R78). -/

namespace Sys2Proof.Machine

open Sys2Proof

section
variable {i : Nat} {s t u v x : State} {fs : List Posting} {r r' : Instrument} {c : CommitFlags} {seq : BitVec 12}
  {time : Time} {w : Word} {rest : List Handed}

/-! ### The Capture Unit's reads -/

theorem reading_grant {src : PartSource} {a : Nat} (h : s.Reading src a) : (grant s).Reading src a := by
  obtain ⟨p, hsrc, haddr, hwrite, hp⟩ := h
  unfold grant
  cases hport : s.mem.port with
  | some g => exact ⟨p, hsrc, haddr, hwrite, by simpa using hp⟩
  | none =>
    have hmem : p ∈ s.mem.parts := hp.resolve_right (by simp [hport])
    dsimp only
    cases hg : s.arbiterChoice with
    | none => exact ⟨p, hsrc, haddr, hwrite, .inl hmem⟩
    | some g =>
      cases g with
      | refresh => exact ⟨p.passOver, hsrc, haddr, hwrite, .inl (List.mem_map_of_mem hmem)⟩
      | host c => exact ⟨p.passOver, hsrc, haddr, hwrite, .inl (List.mem_map_of_mem hmem)⟩
      | part q qs =>
        rw [arbiterChoice_part hg] at hmem
        rcases List.mem_cons.mp hmem with rfl | hmem
        · exact ⟨p, hsrc, haddr, hwrite, .inr rfl⟩
        · exact ⟨p, hsrc, haddr, hwrite, .inl hmem⟩

/-- Write-backs placed leave the Capture Unit's reads outstanding, or not, as they were. -/
theorem outstanding_capture (hparts : ∃ l, u.mem.parts = s.mem.parts ++ l ∧ ∀ p ∈ l, p.source = .writeBack)
    (hport : u.mem.port = s.mem.port) :
    u.outstanding (fun p => p == .fetch || p == .phase2) = s.outstanding (fun p => p == .fetch || p == .phase2) := by
  obtain ⟨l, hl, hsrc⟩ := hparts
  have hnone : l.any (fun p => p.source == .fetch || p.source == .phase2) = false := by
    rw [List.any_eq_false]
    intro p hp
    rw [hsrc p hp]
    decide
  unfold State.outstanding
  rw [hl, List.any_append, hnone, Bool.or_false, hport]

/-- The head of the Fetch Queue is not an entry that names no group with no attempt in progress. -/
def headReads (c : CaptureUnit) : Prop := ∀ e q, c.fetchQueue = e :: q → c.attempt = none → fetchPlan e.flags ≠ []

theorem drainGroupless_reads (h : headReads s.cap) (n : Nat) : drainGroupless n s = s := by
  cases n with
  | zero => rfl
  | succ n =>
    unfold drainGroupless
    cases hq : s.cap.fetchQueue with
    | nil => rfl
    | cons e q =>
      cases ha : s.cap.attempt with
      | some a => rfl
      | none => exact if_neg (h e q hq ha)

theorem pumpCapture_reads (h : headReads s.cap) :
    pumpCapture s =
      if s.outstanding (fun p => p == .fetch || p == .phase2) then s
      else if s.fetchWants then
        (if s.phase2Wants && !s.cap.lastWasPhase2 then placePhase2 s else placeFetch s)
      else if s.phase2Wants then placePhase2 s else s := by
  unfold pumpCapture
  rw [drainGroupless_reads h]
  dsimp only
  split
  · rfl
  · cases s.fetchWants <;> cases s.phase2Wants <;> cases s.cap.lastWasPhase2 <;> rfl

theorem pumpCapture_outstanding (h : headReads s.cap)
    (ho : s.outstanding (fun p => p == .fetch || p == .phase2) = true) : pumpCapture s = s := by
  rw [pumpCapture_reads h, if_pos ho]

theorem pumpCapture_fetch (h : headReads s.cap) (ho : s.outstanding (fun p => p == .fetch || p == .phase2) = false)
    (hw : s.fetchWants = true) (hturn : s.phase2Wants = false ∨ s.cap.lastWasPhase2 = true) :
    pumpCapture s = placeFetch s := by
  rw [pumpCapture_reads h, if_neg (by simp [ho]), if_pos hw, if_neg]
  rcases hturn with h | h <;> simp [h]

theorem phase2Wants_idle (h : s.load = .idle) : s.phase2Wants = false := by simp [State.phase2Wants, h]

/-- A Capture Unit with nothing to place places nothing. -/
theorem State.CaptureSettled.pump (h : s.CaptureSettled) : pumpCapture s = s := by
  rcases h with ⟨ho, hq⟩ | ⟨hl, hq⟩
  · refine pumpCapture_outstanding (fun e q he ha => ?_) ho
    rcases hq with hq | hq
    · rw [hq] at he
      cases he
    · rw [ha] at hq
      cases hq
  · have hreads : headReads s.cap := fun e q he _ => by rw [hq] at he; cases he
    have hplace : placeFetch s = s := by simp [placeFetch, hq]
    rw [pumpCapture_reads hreads, phase2Wants_idle hl, hplace]
    simp

/-! ### The acceptance of a commit (R69 to R71) -/

/-- The values of the staging slot that an instrument holds. -/
def heldValues (c : CaptureUnit) (i : Nat) : FieldValues :=
  match c.slot i with
  | none => noValues
  | some t => t.values

/-- The Capture Unit with an instrument's staging slot freed. -/
def slotFreed (c : CaptureUnit) (i : Nat) : CaptureUnit :=
  { c with staging := c.staging.filter (fun t => t.instr != i) }

/-- The faults of the acceptance of a commit. -/
def acceptFaults (i : Nat) (w : Word) (r : Instrument) : List Posting :=
  (if commitSeq w = r.lastSeq + 1 then []
    else [(.sequenceGap, .instrument i, [(r.lastSeq + 1).toNat, (commitSeq w).toNat])]) ++
  (if (commitFlags w).illegal then [(.illegalFlags, .instrument i, [w.toNat, (commitSeq w).toNat])] else [])

/-- An accepted commit after its slot has been freed: merged, applied or queued (R71, R78). -/
def commitSettled (i : Nat) (c : CommitFlags) (seq : BitVec 12) (whole : Prop) [Decidable whole] (v : FieldValues)
    (s : State) : State :=
  if s.cap.fetchQueue.any (fun e => e.instr == i) then
    setCap { s.cap with fetchQueue := mergeInto i c seq s.cap.attempt.isSome s.cap.fetchQueue } s
  else if whole then applyCommit i c seq s.ctl.timeBase v s
  else setCap { s.cap with fetchQueue := s.cap.fetchQueue ++ [⟨i, c, seq, s.ctl.timeBase, 0, false⟩] } s

/-- What an acceptance leaves: the Capture Unit, the port, LOAD, the handed writes, the tape, the lines, the links. -/
structure Unmoved (s x : State) : Prop where
  cap : x.cap = s.cap
  port : x.mem.port = s.mem.port
  load : x.load = s.load
  handed : x.handed = s.handed
  tape : x.tape = s.tape
  lines : x.lines = s.lines
  links : x.links = s.links

theorem Unmoved.refl (s : State) : Unmoved s s := ⟨rfl, rfl, rfl, rfl, rfl, rfl, rfl⟩

theorem Unmoved.setInstrument (h : Unmoved s x) (r : Instrument) : Unmoved s (setInstrument i r x) :=
  ⟨h.cap, h.port, h.load, h.handed, h.tape, h.lines, h.links⟩

theorem Unmoved.fault (h : Unmoved s x) (k : FaultKind) (subj : Subject) (d : List Nat) :
    Unmoved s (postFault k subj d x) := by
  have hp := postFault_onlyPosts k subj d x
  generalize postFault k subj d x = y at hp ⊢
  have hy := hp.eq
  refine ⟨?_, hp.port.trans h.port, ?_, ?_, ?_, ?_, ?_⟩
  · rw [hy]; exact h.cap
  · rw [hy]; exact h.load
  · rw [hy]; exact h.handed
  · rw [hy]; exact h.tape
  · rw [hy]; exact h.lines
  · rw [hy]; exact h.links

/-- What the acceptance of a commit has done before the commit is settled. -/
structure Accepted (i : Nat) (w : Word) (r : Instrument) (s x : State) : Prop where
  work : MarketWork i s (acceptFaults i w r) x
  record : x.instrument? i = some { r with lastSeq := commitSeq w, fetchOnCommit := false }
  cap : x.cap = slotFreed s.cap i
  port : x.mem.port = s.mem.port
  load : x.load = s.load
  handed : x.handed = s.handed
  tape : x.tape = s.tape
  lines : x.lines = s.lines
  links : x.links = s.links

theorem settleCommit_eq (h0 : u.instrument? i = some r) :
    settleCommit i c seq u =
      commitSettled i c seq (fetchPlan c = [] ∨ (r.fetchOnCommit = false ∧ groupsComplete c (heldValues u.cap i) = true))
        (heldValues u.cap i) (setInstrument i { r with fetchOnCommit := false } (setCap (slotFreed u.cap i) u)) := by
  simp only [settleCommit, h0]
  rfl

theorem takeCommit_duplicate (h0 : u.instrument? i = some r) (hs : commitSeq w = r.lastSeq) : takeCommit i w u = u := by
  simp only [takeCommit, h0, hs, if_true]

/-- A commit that is no duplicate is accepted, its faults posted and its slot freed, and then settled. -/
theorem takeCommit_accepts (h0 : u.instrument? i = some r) (hs : commitSeq w ≠ r.lastSeq) :
    ∃ x, Accepted i w r u x ∧
      takeCommit i w u =
        commitSettled i (commitFlags w).legal (commitSeq w)
          (fetchPlan (commitFlags w).legal = [] ∨
            (r.fetchOnCommit = false ∧ groupsComplete (commitFlags w).legal (heldValues u.cap i) = true))
          (heldValues u.cap i) x := by
  obtain ⟨y, hy, hsame, hrec, heq⟩ : ∃ y, MarketWork i u (acceptFaults i w r) y ∧ Unmoved u y ∧
      y.instrument? i = some { r with lastSeq := commitSeq w } ∧
      takeCommit i w u = settleCommit i (commitFlags w).legal (commitSeq w) y := by
    simp only [takeCommit, h0, if_neg hs, acceptCommit, acceptFaults]
    have hseq := setInstrument_self_instrument? h0 { r with lastSeq := commitSeq w }
    by_cases hnext : commitSeq w = r.lastSeq + 1
    · simp only [if_pos hnext, List.nil_append]
      have hwork := (MarketWork.refl i u).setInstrument { r with lastSeq := commitSeq w }
      have hsame := (Unmoved.refl u).setInstrument (i := i) { r with lastSeq := commitSeq w }
      by_cases hill : (commitFlags w).illegal = true
      · simp only [if_pos hill]
        exact ⟨_, hwork.fault _ _ _, hsame.fault _ _ _, (postFault_instrument? _ _ _ _ i).trans hseq, rfl⟩
      · simp only [if_neg hill]
        exact ⟨_, hwork, hsame, hseq, rfl⟩
    · simp only [if_neg hnext]
      have hgap := (MarketWork.refl i u).fault .sequenceGap (.instrument i)
        [(r.lastSeq + 1).toNat, (commitSeq w).toNat]
      have hgaps := (Unmoved.refl u).fault .sequenceGap (.instrument i) [(r.lastSeq + 1).toNat, (commitSeq w).toNat]
      have h0' := (postFault_instrument? .sequenceGap (.instrument i)
        [(r.lastSeq + 1).toNat, (commitSeq w).toNat] u i).trans h0
      generalize postFault .sequenceGap _ _ u = z at hgap hgaps h0' ⊢
      have hwork := hgap.setInstrument { r with lastSeq := commitSeq w }
      have hsame := hgaps.setInstrument (i := i) { r with lastSeq := commitSeq w }
      have hseq := setInstrument_self_instrument? h0' { r with lastSeq := commitSeq w }
      by_cases hill : (commitFlags w).illegal = true
      · simp only [if_pos hill]
        exact ⟨_, hwork.fault _ _ _, hsame.fault _ _ _, (postFault_instrument? _ _ _ _ i).trans hseq, rfl⟩
      · simp only [if_neg hill, List.append_nil]
        exact ⟨_, hwork, hsame, hseq, rfl⟩
  have hcap : y.cap = u.cap := hsame.cap
  rw [heq, settleCommit_eq hrec, hcap]
  exact ⟨setInstrument i { r with lastSeq := commitSeq w, fetchOnCommit := false } (setCap (slotFreed u.cap i) y),
    ⟨(hy.setCap _).setInstrument _, setInstrument_self_instrument? (u := setCap _ y) hrec _, rfl, hsame.port,
      hsame.load, hsame.handed, hsame.tape, hsame.lines, hsame.links⟩, rfl⟩

/-! ### The settlement of a commit (R71, R73, R78) -/

theorem State.CaptureSettled.kept (h : s.CaptureSettled)
    (hout : u.outstanding (fun p => p == .fetch || p == .phase2) = s.outstanding (fun p => p == .fetch || p == .phase2))
    (hload : u.load = s.load) (hq : u.cap.fetchQueue = [] ↔ s.cap.fetchQueue = []) (ha : u.cap.attempt = s.cap.attempt) :
    u.CaptureSettled := by
  unfold State.CaptureSettled
  rw [hout, hload, hq, ha]
  exact h

/-- A settled Capture Unit with an entry has its attempt in progress, and its read placed. -/
theorem State.CaptureSettled.reading (h : s.CaptureSettled) (hq : s.cap.fetchQueue ≠ []) :
    s.outstanding (fun p => p == .fetch || p == .phase2) = true ∧ s.cap.attempt.isSome = true := by
  rcases h with ⟨ho, h⟩ | ⟨-, h⟩
  · exact ⟨ho, h.resolve_left hq⟩
  · exact absurd h hq

theorem mergeInto_split {a b : List FetchEntry} {e : FetchEntry} (he : e.instr = i) (ha : ∀ y ∈ a, y.instr ≠ i)
    (p : Bool) : mergeInto i c seq p (a ++ e :: b) = a ++ e.mergeCommit c seq (p && a.isEmpty) :: b := by
  induction a generalizing p with
  | nil => simp [mergeInto, he]
  | cons y a ih =>
    have hy : y.instr ≠ i := ha y List.mem_cons_self
    rw [List.cons_append, mergeInto, if_neg hy, ih (fun z hz => ha z (List.mem_cons_of_mem y hz))]
    simp

theorem exec_commitWrite (hr : s.rst.inReset = false) (hh : s.handed = .capture i 7 w :: rest) :
    exec .commitWrite s =
      .next (grant (pumpCapture (byStanding i (takeCommit i w) { s with handed := rest }))) := by
  have hpop : popHanded s = { s with handed := rest } := by
    unfold popHanded
    rw [hh]
    rfl
  have htake : exec .commitWrite s = .next (grant (onCaptureWord (· == 7)
      (fun i _ w s => pumpCapture (byStanding i (takeCommit i w) s)) s)) := rfl
  rw [htake, onCaptureWord, hh]
  simp [hr, hpop]

/-- The instrument and the rest of the state while an accepted commit waits for its words. -/
theorem Accepted.waits (h : Accepted i w r u x) (hs : AsidePort s u) (ht : AsidePort x t) :
    t.instrument? i = some { r with lastSeq := commitSeq w, fetchOnCommit := false } ∧ AppliesTo i s t ∧
      NoticeSent i r { r with lastSeq := commitSeq w, fetchOnCommit := false } none False s t ∧
      FaultsPosted s t (acceptFaults i w r) := by
  refine ⟨?_, h.work.appliesTo.aside hs ht, ?_, faultsPosted_aside h.work.ledger.faultsPosted hs ht⟩
  · have htbl : t.tbl = x.tbl := by rw [ht]
    simp only [State.instrument?, htbl]
    exact h.record
  · refine NoticeSent.aside (noticeSent_none rfl h.tape h.lines fun k => ?_) hs ht
    rw [h.links]
    exact SameLink.refl _

theorem Accepted.outstanding (h : Accepted i w r u x) :
    x.outstanding (fun p => p == .fetch || p == .phase2) = u.outstanding (fun p => p == .fetch || p == .phase2) :=
  outstanding_capture h.work.parts h.port

/-- An accepted commit that is whole is applied at once, behind the faults of its acceptance. -/
theorem Accepted.applied (h : Accepted i w r u x) (hs : AsidePort s u) (hsettled : u.CaptureSettled)
    (c : CommitFlags) (seq : BitVec 12) (time : Time) (v : FieldValues) :
    ∃ r', CommitApplied i { r with lastSeq := commitSeq w, fetchOnCommit := false } r' c seq time v (acceptFaults i w r) s
        (grant (pumpCapture (applyCommit i c seq time v x))) ∧
      (grant (pumpCapture (applyCommit i c seq time v x))).cap = slotFreed u.cap i ∧
      (grant (pumpCapture (applyCommit i c seq time v x))).handed = u.handed := by
  obtain ⟨⟨r', happ⟩, hwork⟩ := applyCommit_applied (c := c) (seq := seq) (time := time) (x := v) h.work h.record h.tape
    h.lines h.links
  have hcap := (applyCommit_cap i c seq time v x).trans h.cap
  have hport := (applyCommit_works i c seq time v (Works.refl x)).port.trans h.port
  have hload : (applyCommit i c seq time v x).load = u.load := by rw [hwork.rest]
  have hhand : (applyCommit i c seq time v x).handed = u.handed := by rw [hwork.rest]
  generalize applyCommit i c seq time v x = y at happ hwork hcap hport hload hhand ⊢
  have hset : y.CaptureSettled :=
    hsettled.kept (outstanding_capture hwork.parts hport) hload (by rw [hcap]; rfl) (by rw [hcap]; rfl)
  rw [hset.pump, grant_cap, grant_handed]
  exact ⟨r', happ.aside hs (grant_aside y), hcap, hhand⟩

/-- What has been accepted, after the Capture Unit's queues alone have changed and the port has been granted. -/
theorem Accepted.queued (h : Accepted i w r u x) (hs : AsidePort s u) (cap : CaptureUnit) :
    let t := grant (setCap cap x)
    t.instrument? i = some { r with lastSeq := commitSeq w, fetchOnCommit := false } ∧ AppliesTo i s t ∧
      NoticeSent i r { r with lastSeq := commitSeq w, fetchOnCommit := false } none False s t ∧
      FaultsPosted s t (acceptFaults i w r) ∧ t.handed = u.handed ∧ t.cap = cap := by
  intro t
  obtain ⟨h1, h2, h3, h4⟩ := h.waits hs ((setCap_aside cap x).trans (grant_aside _))
  exact ⟨h1, h2, h3, h4, (grant_handed _).trans h.handed, grant_cap _⟩

/-- An accepted commit waits in the Fetch Queue while the Capture Unit's read is outstanding. -/
theorem Accepted.still (h : Accepted i w r u x) (hs : AsidePort s u) {cap : CaptureUnit} (hreads : headReads cap)
    (hout : u.outstanding (fun p => p == .fetch || p == .phase2) = true) :
    let t := grant (pumpCapture (setCap cap x))
    (t.instrument? i = some { r with lastSeq := commitSeq w, fetchOnCommit := false } ∧ AppliesTo i s t ∧
      NoticeSent i r { r with lastSeq := commitSeq w, fetchOnCommit := false } none False s t ∧
      FaultsPosted s t (acceptFaults i w r) ∧ t.handed = u.handed) ∧ t.cap = cap := by
  have hout' : (setCap cap x).outstanding (fun p => p == .fetch || p == .phase2) = true := h.outstanding.trans hout
  rw [pumpCapture_outstanding hreads hout']
  obtain ⟨h1, h2, h3, h4, h5, h6⟩ := h.queued hs cap
  exact ⟨⟨h1, h2, h3, h4, h5⟩, h6⟩

theorem anyEntry_false {q : List FetchEntry} (h : ∀ e ∈ q, e.instr ≠ i) : q.any (fun e => e.instr == i) = false := by
  rw [List.any_eq_false]
  intro e he
  simpa using h e he

/-- An entry with a read to place whose turn it is begins its attempt (R73). -/
theorem placeFetch_begins {e : FetchEntry} {q : List FetchEntry} (hq : u.cap.fetchQueue = e :: q)
    (ha : u.cap.attempt = none) :
    placeFetch u =
      placePart .fetch (u.recordWord e.instr ((fetchPlan e.flags).getD 0 0).val) none
        (setCap
          { u.cap with
            fetchQueue := { e with attempt := e.attempt + 1, torn := false } :: q
            attempt := some ⟨fetchPlan e.flags, []⟩
            lastWasPhase2 := false } u) := by
  simp only [placeFetch, hq, ha]

theorem recordWord_some (h0 : u.instrument? i = some r) (n : Nat) : u.recordWord i n = r.recordAddr + n := by
  simp only [State.recordWord, h0]

theorem placePart_reading (src : PartSource) (a : Nat) (u : State) : (placePart src a none u).Reading src a :=
  ⟨⟨src, a, none, 0⟩, rfl, rfl, rfl, .inl (by simp)⟩

/-- An accepted commit alone in the Fetch Queue begins its attempt when the Capture Unit has nothing else to read. -/
theorem Accepted.begins (h : Accepted i w r u x) (hs : AsidePort s u) {cap : CaptureUnit} {e : FetchEntry}
    (hq : cap.fetchQueue = [e]) (ha : cap.attempt = none) (he : e.instr = i) (hplan : fetchPlan e.flags ≠ [])
    (hout : u.outstanding (fun p => p == .fetch || p == .phase2) = false)
    (hturn : u.load = .idle ∨ cap.lastWasPhase2 = true) :
    let t := grant (pumpCapture (setCap cap x))
    (t.instrument? i = some { r with lastSeq := commitSeq w, fetchOnCommit := false } ∧ AppliesTo i s t ∧
      NoticeSent i r { r with lastSeq := commitSeq w, fetchOnCommit := false } none False s t ∧
      FaultsPosted s t (acceptFaults i w r) ∧ t.handed = u.handed) ∧
      t.cap =
        { cap with
          fetchQueue := [{ e with attempt := e.attempt + 1, torn := false }]
          attempt := some ⟨fetchPlan e.flags, []⟩
          lastWasPhase2 := false } ∧
      t.Reading .fetch (r.recordAddr + ((fetchPlan e.flags).getD 0 0).val) := by
  have hreads : headReads cap := by
    intro e' q he' _
    rw [hq] at he'
    cases he'
    exact hplan
  have hout' : (setCap cap x).outstanding (fun p => p == .fetch || p == .phase2) = false := h.outstanding.trans hout
  have hwants : (setCap cap x).fetchWants = true := by
    simp only [State.fetchWants, setCap_cap, ha, hq]
    rfl
  have hturn' : (setCap cap x).phase2Wants = false ∨ (setCap cap x).cap.lastWasPhase2 = true :=
    hturn.imp_left fun hl => phase2Wants_idle (h.load.trans hl)
  have hrec : (setCap cap x).instrument? e.instr = some { r with lastSeq := commitSeq w, fetchOnCommit := false } := by
    rw [he]
    exact h.record
  intro t
  have ht : t = grant (placeFetch (setCap cap x)) := congrArg grant (pumpCapture_fetch hreads hout' hwants hturn')
  rw [placeFetch_begins hq ha, recordWord_some hrec] at ht
  obtain ⟨h1, h2, h3, h4⟩ := h.waits (t := t) hs
    (by rw [ht]; exact (setCap_aside _ _).trans ((setCap_aside _ _).trans ((placePart_aside _ _ _ _).trans (grant_aside _))))
  refine ⟨⟨h1, h2, h3, h4, ?_⟩, ?_, ?_⟩
  · rw [ht, grant_handed]
    exact h.handed
  · rw [ht, grant_cap]
    rfl
  · rw [ht]
    exact reading_grant (placePart_reading _ _ _)

section
variable {whole : Prop} [Decidable whole] {v : FieldValues}

theorem commitSettled_whole (hx : ∀ e ∈ x.cap.fetchQueue, e.instr ≠ i) (hw : whole) :
    commitSettled i c seq whole v x = applyCommit i c seq x.ctl.timeBase v x := by
  rw [commitSettled, if_neg (by rw [anyEntry_false hx]; decide), if_pos hw]

theorem commitSettled_joins (hx : ∀ e ∈ x.cap.fetchQueue, e.instr ≠ i) (hw : ¬ whole) :
    commitSettled i c seq whole v x =
      setCap { x.cap with fetchQueue := x.cap.fetchQueue ++ [⟨i, c, seq, x.ctl.timeBase, 0, false⟩] } x := by
  rw [commitSettled, if_neg (by rw [anyEntry_false hx]; decide), if_neg hw]

theorem commitSettled_merges {a b : List FetchEntry} {e : FetchEntry} (hq : x.cap.fetchQueue = a ++ e :: b)
    (he : e.instr = i) (ha : ∀ y ∈ a, y.instr ≠ i) :
    commitSettled i c seq whole v x =
      setCap { x.cap with fetchQueue := a ++ e.mergeCommit c seq (x.cap.attempt.isSome && a.isEmpty) :: b } x := by
  have hany : x.cap.fetchQueue.any (fun e => e.instr == i) = true := by
    rw [hq, List.any_eq_true]
    exact ⟨e, by simp, by simp [he]⟩
  rw [commitSettled, if_pos hany, hq, mergeInto_split he ha]

end

theorem fetchPlan_groups (c : CommitFlags) (v : FieldValues) :
    groupsComplete c v = true ↔ ∀ n ∈ fetchPlan c, v[n] ≠ none := by
  simp only [groupsComplete, List.all_eq_true]
  refine forall_congr' fun n => imp_congr_right fun _ => ?_
  cases v[n] <;> simp

/-- Settles O28. -/
theorem commitTaken : Obligations.CommitTaken := by
  refine ⟨fun i w rest s hr hh => ?_, fun c v => ⟨rfl, fetchPlan_groups c v⟩⟩
  intro seq f c values freed reading joined
  rw [exec_commitWrite hr hh]
  have hu : AsidePort s { s with handed := rest } := rfl
  have hsettled (h : s.CaptureSettled) : ({ s with handed := rest } : State).CaptureSettled := h
  refine ⟨fun hset h => ?_, fun hset d hl h => ?_, fun h r h0 => ?_⟩
  · rw [byStanding_unread (u := { s with handed := rest }) h, (hsettled hset).pump]
  · rw [byStanding_inFlight (u := { s with handed := rest }) h hl]
    have hset' : ({ s with handed := rest, load := .phase2 { d with torn := true } } : State).CaptureSettled := by
      rcases hset with hset | ⟨hidle, -⟩
      · exact .inl hset
      · rw [hl] at hidle
        cases hidle
    rw [hset'.pump]
  intro accepted whole reports waits
  have h0' : ({ s with handed := rest } : State).instrument? i = some r := h0
  rw [byStanding_read (u := { s with handed := rest }) h]
  have hvalues : heldValues s.cap i = values := by
    simp only [values, heldValues]
    cases s.cap.slot i <;> rfl
  have hfaults : acceptFaults i w r = reports := rfl
  refine ⟨fun hset hs => ?_, fun hset hs hq hwhole => ?_, fun hs hq ha hwhole hread hl => ?_,
    fun hset hs hq hne hwhole => ?_, fun hset hs a e b hq he ha => ?_⟩
  · rw [takeCommit_duplicate h0' hs, (hsettled hset).pump]
  all_goals
    obtain ⟨x, hx, heq⟩ := takeCommit_accepts h0' hs
    have hq' : x.cap.fetchQueue = s.cap.fetchQueue := by rw [hx.cap]; rfl
    have ha' : x.cap.attempt = s.cap.attempt := by rw [hx.cap]; rfl
    have htime : x.ctl.timeBase = s.ctl.timeBase := hx.work.timeBase
    rw [heq]
  · rw [commitSettled_whole (by rw [hq']; exact hq) (by rw [hvalues]; exact hwhole), htime, hvalues]
    obtain ⟨r', happ, hcap, hhand⟩ := hx.applied hu (hsettled hset) c seq s.ctl.timeBase values
    exact ⟨_, r', rfl, happ, hcap, hhand⟩
  · rw [commitSettled_joins (by rw [hq', hq]; simp) (by rw [hvalues]; exact hwhole), htime, hx.cap]
    have hplan : fetchPlan c ≠ [] := fun hp => hwhole (.inl hp)
    obtain ⟨hwaits, hcap, hread'⟩ := hx.begins hu (cap := { slotFreed s.cap i with
        fetchQueue := s.cap.fetchQueue ++ [⟨i, c, seq, s.ctl.timeBase, 0, false⟩] })
      (e := ⟨i, c, seq, s.ctl.timeBase, 0, false⟩) (by simp [hq]) ha rfl hplan hread hl
    exact ⟨_, rfl, hwaits, hcap, hread'⟩
  · rw [commitSettled_joins (by rw [hq']; exact hne) (by rw [hvalues]; exact hwhole), htime, hx.cap]
    have hplan : fetchPlan c ≠ [] := fun hp => hwhole (.inl hp)
    have hreads : headReads { slotFreed s.cap i with
        fetchQueue := s.cap.fetchQueue ++ [⟨i, c, seq, s.ctl.timeBase, 0, false⟩] } := by
      intro e q he ha
      by_cases hempty : s.cap.fetchQueue = []
      · simp only [hempty, List.nil_append, List.cons.injEq] at he
        rw [← he.1]
        exact hplan
      · have := (hset.reading hempty).2
        rw [show s.cap.attempt = none from ha] at this
        cases this
    have hout : reading = true := by
      by_cases hempty : s.cap.fetchQueue = []
      · exact hq.resolve_left fun h => h hempty
      · exact (hset.reading hempty).1
    obtain ⟨hwaits, hcap⟩ := hx.still hu hreads hout
    exact ⟨_, rfl, hwaits, hcap⟩
  · obtain ⟨hout, hatt⟩ := hset.reading (by simp [hq])
    rw [commitSettled_merges (hq'.trans hq) he ha, hx.cap]
    have hreads : headReads { slotFreed s.cap i with
        fetchQueue := a ++ e.mergeCommit c seq (s.cap.attempt.isSome && a.isEmpty) :: b } := by
      intro e' q' _ hnone
      rw [show s.cap.attempt = none from hnone] at hatt
      cases hatt
    obtain ⟨hwaits, hcap⟩ := hx.still hu hreads hout
    refine ⟨_, rfl, hwaits, hcap.trans ?_⟩
    rw [hatt, Bool.true_and]
    rfl

end

end Sys2Proof.Machine
end


section
/-! The return of a fetch read (R73 to R79). -/

namespace Sys2Proof.Machine

open Sys2Proof

section
variable {i : Nat} {s t u v x y : State} {fs : List Posting} {r r' : Instrument} {p : PartCycle} {source : Nat}
  {a : FetchAttempt} {e : FetchEntry} {q : List FetchEntry}

/-! ### The returned word -/

/-- The fault of a part read that returns a word of bad parity (R17). -/
def parityFaults (p : PartCycle) (source : Nat) (s : State) : List Posting :=
  if wordGood (s.mem.ram.read p.addr) then []
  else [(.memoryParity, .address p.addr, [(s.mem.ram.read p.addr).word.toNat, badLanes (s.mem.ram.read p.addr), source])]

/-- What the return of a part read has done: the port is free, and the fault of the word posted. -/
structure Returned (fs : List Posting) (s y : State) : Prop where
  work : ∀ i, MarketWork i s fs y
  port : y.mem.port = none
  cap : y.cap = s.cap
  load : y.load = s.load
  tape : y.tape = s.tape
  lines : y.lines = s.lines
  links : y.links = s.links

theorem MarketWork.freePort (h : MarketWork i s fs u) : MarketWork i s fs (freePort u) := by
  refine ⟨?_, h.count, h.others, h.lines, h.kept, h.ledger.kept rfl (.refl _), h.parts⟩
  conv_lhs => rw [h.rest]
  rfl

theorem partReturn_good (h : wordGood (s.mem.ram.read p.addr) = true) : partReturn p source s = freePort s := by
  simp only [partReturn, h, if_true]

theorem partReturn_returned (p : PartCycle) (source : Nat) (s : State) :
    Returned (parityFaults p source s) s (partReturn p source s) := by
  unfold parityFaults partReturn
  dsimp only
  by_cases hgood : wordGood (s.mem.ram.read p.addr) = true
  · rw [if_pos hgood, if_pos hgood]
    exact ⟨fun i => (MarketWork.refl i s).freePort, rfl, rfl, rfl, rfl, rfl, rfl⟩
  · rw [if_neg hgood, if_neg hgood]
    have hsame := (Unmoved.refl s).fault .memoryParity (.address p.addr)
      [(s.mem.ram.read p.addr).word.toNat, badLanes (s.mem.ram.read p.addr), source]
    exact ⟨fun i => ((MarketWork.refl i s).fault _ _ _).freePort, rfl, hsame.cap, hsame.load, hsame.tape, hsame.lines,
      hsame.links⟩

/-- With no capture read waiting, none is outstanding once the port is free. -/
theorem outstanding_free (hparts : ∃ l, u.mem.parts = s.mem.parts ++ l ∧ ∀ p ∈ l, p.source = .writeBack)
    (hport : u.mem.port = none) (hs : s.NoCaptureWaiting) :
    u.outstanding (fun p => p == .fetch || p == .phase2) = false := by
  obtain ⟨l, hl, hsrc⟩ := hparts
  unfold State.outstanding
  rw [hport, Bool.or_false, List.any_eq_false, hl]
  intro c hc
  rcases List.mem_append.mp hc with hc | hc
  · obtain ⟨h1, h2⟩ := hs c hc
    simp [h1, h2]
  · rw [hsrc c hc]
    decide

/-! ### The words of an attempt -/

theorem attemptFold_getElem (n : Fin 7) (plan : List (Fin 7)) (got : List (Word × Bool)) (v : FieldValues)
    (hnd : plan.Nodup) :
    (n ∉ plan → ((plan.zip got).foldl (fun v x => if x.2.2 then v.set x.1 (some x.2.1) else v) v)[n] = v[n]) ∧
      ∀ j : Nat, plan[j]? = some n → v[n] = none →
        ((plan.zip got).foldl (fun v x => if x.2.2 then v.set x.1 (some x.2.1) else v) v)[n] =
          (got[j]?).bind fun x => if x.2 then some x.1 else none := by
  induction plan generalizing got v with
  | nil => simp
  | cons m plan ih =>
    obtain ⟨hm, hnd⟩ := List.nodup_cons.mp hnd
    cases got with
    | nil => exact ⟨fun _ => rfl, fun j _ hv => by simpa using hv⟩
    | cons g got =>
      obtain ⟨ih1, ih2⟩ := ih got (if g.2 then v.set m (some g.1) else v) hnd
      have hother (hnm : n ≠ m) : (if g.2 then v.set m (some g.1) else v)[n] = v[n] := by
        have hne : m.val ≠ n.val := fun h => hnm (Fin.ext h.symm)
        split
        · simp [Vector.getElem_set_ne, hne]
        · rfl
      refine ⟨fun hn => ?_, fun j hj hv => ?_⟩
      · obtain ⟨hnm, hn⟩ : n ≠ m ∧ n ∉ plan := by simpa using hn
        rw [List.zip_cons_cons, List.foldl_cons, ih1 hn, hother hnm]
      · rw [List.zip_cons_cons, List.foldl_cons]
        by_cases hnm : n = m
        · subst hnm
          have hj0 : j = 0 := by
            cases j with
            | zero => rfl
            | succ j => exact absurd (List.mem_of_getElem? (l := plan) (i := j) hj) hm
          subst hj0
          rw [ih1 hm]
          cases hg : g.2 with
          | true => simp [hg]
          | false => simpa [hg] using hv
        · cases j with
          | zero => exact absurd (Option.some.inj hj).symm hnm
          | succ j =>
            rw [ih2 j hj ((hother hnm).trans hv)]
            rfl

theorem attemptValues_getElem (plan : List (Fin 7)) (got : List (Word × Bool)) (n : Fin 7) (hnd : plan.Nodup) :
    (n ∉ plan → (attemptValues plan got)[n] = none) ∧
      ∀ j : Nat, plan[j]? = some n →
        (attemptValues plan got)[n] = (got[j]?).bind fun x => if x.2 then some x.1 else none := by
  have hnone : noValues[n] = none := by simp [noValues]
  obtain ⟨h1, h2⟩ := attemptFold_getElem n plan got noValues hnd
  exact ⟨fun h => (h1 h).trans hnone, fun j hj => h2 j hj hnone⟩

/-! ### The fetch goes on -/

/-- The next read of the attempt in progress (R73). -/
theorem placeFetch_goesOn (hq : u.cap.fetchQueue = e :: q) (ha : u.cap.attempt = some a) :
    placeFetch u =
      placePart .fetch (u.recordWord e.instr (a.plan.getD a.got.length 0).val) none
        (setCap { u.cap with lastWasPhase2 := false } u) := by
  simp only [placeFetch, hq, ha]

theorem takeFetched_more {w : Word} {good : Bool} (ha : u.cap.attempt = some a) (hq : u.cap.fetchQueue = e :: q)
    (hlen : (a.got ++ [(w, good)]).length < a.plan.length) :
    takeFetched w good u = setCap { u.cap with attempt := some { a with got := a.got ++ [(w, good)] } } u := by
  simp only [takeFetched, ha, hq, if_pos hlen]

theorem takeFetched_last {w : Word} {good : Bool} (ha : u.cap.attempt = some a) (hq : u.cap.fetchQueue = e :: q)
    (hlen : a.plan.length ≤ (a.got ++ [(w, good)]).length) :
    takeFetched w good u = endAttempt e q a.plan (a.got ++ [(w, good)]) u := by
  simp only [takeFetched, ha, hq, if_neg (Nat.not_lt.mpr hlen)]

theorem exec_fetchReadReturn (hport : s.mem.port = some (.part p false)) (hsrc : p.source = .fetch) :
    exec .fetchReadReturn s =
      .next (grant (pumpCapture (takeFetched (s.mem.ram.read p.addr).word (wordGood (s.mem.ram.read p.addr))
        (partReturn p 2 s)))) := by
  have htake : exec .fetchReadReturn s =
      .next (grant (onPartRead (· == .fetch) 2 pumpCapture (fun w good s => pumpCapture (takeFetched w good s)) s)) := rfl
  rw [htake, onPartRead, hport]
  simp [hsrc]

/-- An entry whose attempt ends sound applies its commit with the words read (R74, R79). -/
theorem endAttempt_sound {plan : List (Fin 7)} {got : List (Word × Bool)} (ht : e.torn = false) :
    endAttempt e q plan got u =
      applyCommit e.instr e.flags e.seq e.time (attemptValues plan got)
        (setCap { u.cap with attempt := none, fetchQueue := q } u) := by
  simp only [endAttempt, ht, Bool.not_false, if_true]
  rfl

theorem endAttempt_repeats {plan : List (Fin 7)} {got : List (Word × Bool)} (ht : e.torn = true) (hn : e.attempt < 3) :
    endAttempt e q plan got u = setCap { u.cap with attempt := none } u := by
  simp only [endAttempt, ht, Bool.not_true, Bool.false_eq_true, if_false, if_neg (Nat.not_le.mpr hn)]

theorem endAttempt_abandons {plan : List (Fin 7)} {got : List (Word × Bool)} (ht : e.torn = true) (hn : 3 ≤ e.attempt) :
    endAttempt e q plan got u =
      applyCommit e.instr e.flags e.seq e.time noValues
        (postFault .tornRecord (.instrument e.instr) [3, 1, groupsCode e.flags, e.seq.toNat]
          (setCap { u.cap with attempt := none, fetchQueue := q } u)) := by
  simp only [endAttempt, ht, Bool.not_true, Bool.false_eq_true, if_false, if_pos hn]
  rfl

theorem Returned.instrument? (h : Returned fs s y) (i : Nat) : y.instrument? i = s.instrument? i :=
  (h.work (i + 1)).others i (Nat.ne_of_lt (Nat.lt_succ_self i))

/-- A commit applied after the return of a read. -/
theorem applied_free (h : MarketWork i s fs u) (h0 : u.instrument? i = some r) (htape : u.tape = s.tape)
    (hlines : u.lines = s.lines) (hlinks : u.links = s.links) (hport : u.mem.port = none) (hs : s.NoCaptureWaiting)
    (c : CommitFlags) (seq : BitVec 12) (time : Time) (v : FieldValues) :
    ∃ r' z, applyCommit i c seq time v u = z ∧ CommitApplied i r r' c seq time v fs s z ∧ z.cap = u.cap ∧
      z.load = s.load ∧ (∀ j, j ≠ i → z.instrument? j = s.instrument? j) ∧
      z.outstanding (fun p => p == .fetch || p == .phase2) = false := by
  obtain ⟨⟨r', happ⟩, hwork⟩ := applyCommit_applied (c := c) (seq := seq) (time := time) (x := v) h h0 htape hlines hlinks
  have hport' := (applyCommit_works i c seq time v (Works.refl u)).port.trans hport
  exact ⟨r', _, rfl, happ, applyCommit_cap i c seq time v u, by rw [hwork.rest], hwork.others,
    outstanding_free hwork.parts hport' hs⟩

theorem Returned.applied (h : Returned fs s y) (h0 : s.instrument? i = some r) (hs : s.NoCaptureWaiting)
    (cap : CaptureUnit) (c : CommitFlags) (seq : BitVec 12) (time : Time) (v : FieldValues) :
    ∃ r' z, applyCommit i c seq time v (setCap cap y) = z ∧ CommitApplied i r r' c seq time v fs s z ∧ z.cap = cap ∧
      z.load = s.load ∧ (∀ j, j ≠ i → z.instrument? j = s.instrument? j) ∧
      z.outstanding (fun p => p == .fetch || p == .phase2) = false :=
  applied_free (u := setCap cap y) ((h.work i).setCap cap) ((h.instrument? i).trans h0) h.tape h.lines h.links h.port hs
    c seq time v

/-- A Capture Unit with nothing more to read, outside LOAD, rests. -/
theorem pumpCapture_rests (hl : u.load = .idle) (hq : u.cap.fetchQueue = []) : pumpCapture u = u :=
  State.CaptureSettled.pump (.inr ⟨hl, hq⟩)

/-- The entry at the head begins its attempt when nothing is outstanding and no phase 2 has a read to place. -/
theorem pumpCapture_begins (hq : u.cap.fetchQueue = e :: q) (ha : u.cap.attempt = none) (hplan : fetchPlan e.flags ≠ [])
    (hout : u.outstanding (fun p => p == .fetch || p == .phase2) = false) (hl : u.load = .idle) :
    pumpCapture u =
      placePart .fetch (u.recordWord e.instr ((fetchPlan e.flags).getD 0 0).val) none
        (setCap
          { u.cap with
            fetchQueue := { e with attempt := e.attempt + 1, torn := false } :: q
            attempt := some ⟨fetchPlan e.flags, []⟩
            lastWasPhase2 := false } u) := by
  have hreads : headReads u.cap := by
    intro e' q' he' _
    rw [hq] at he'
    cases he'
    exact hplan
  have hwants : u.fetchWants = true := by
    simp only [State.fetchWants, ha, hq]
    rfl
  rw [pumpCapture_fetch hreads hout hwants (.inl (phase2Wants_idle hl)), placeFetch_begins hq ha]

/-- An attempt with more words to read. -/
theorem wants_more (ha : u.cap.attempt = some a) (hlen : a.got.length < a.plan.length) :
    headReads u.cap ∧ u.fetchWants = true := by
  refine ⟨fun e q _ hnone => ?_, by simp [State.fetchWants, ha, hlen]⟩
  rw [ha] at hnone
  cases hnone

/-- A returned word of an attempt with more words to read: the next is placed. -/
theorem Returned.goesOn (h : Returned fs s y) (ha : s.cap.attempt = some a) (hq : s.cap.fetchQueue = e :: q)
    (h0 : s.instrument? e.instr = some r) (hs : s.NoCaptureWaiting) {w : Word} {good : Bool}
    (hlen : (a.got ++ [(w, good)]).length < a.plan.length) (hturn : s.load = .idle ∨ s.cap.lastWasPhase2 = true) :
    pumpCapture (takeFetched w good y) =
      placePart .fetch (r.recordAddr + (a.plan.getD (a.got ++ [(w, good)]).length 0).val) none
        (setCap { s.cap with attempt := some { a with got := a.got ++ [(w, good)] }, lastWasPhase2 := false } y) := by
  have hcap := h.cap
  rw [takeFetched_more (by rw [hcap]; exact ha) (by rw [hcap]; exact hq) hlen, hcap]
  have hout := outstanding_free (h.work 0).parts h.port hs
  have hinst : y.instrument? e.instr = some r := (h.instrument? e.instr).trans h0
  generalize hc : ({ s.cap with attempt := some { a with got := a.got ++ [(w, good)] } } : CaptureUnit) = c
  have hatt : (setCap c y).cap.attempt = some { a with got := a.got ++ [(w, good)] } := by rw [← hc]; rfl
  have hqueue : (setCap c y).cap.fetchQueue = e :: q := by rw [← hc]; exact hq
  obtain ⟨hreads, hwants⟩ := wants_more hatt hlen
  have hturn' : (setCap c y).phase2Wants = false ∨ (setCap c y).cap.lastWasPhase2 = true := by
    refine hturn.imp (fun hl => phase2Wants_idle (h.load.trans hl)) fun hl => ?_
    rw [← hc]
    exact hl
  rw [pumpCapture_fetch hreads hout hwants hturn', placeFetch_goesOn hqueue hatt,
    recordWord_some (u := setCap c y) hinst, ← hc]
  rfl

/-- A returned word while phase 2 has the turn: its read is placed. -/
theorem Returned.phase2Turn (h : Returned fs s y) (ha : s.cap.attempt = some a) (hq : s.cap.fetchQueue = e :: q)
    (hs : s.NoCaptureWaiting) {w : Word} {good : Bool} (hlen : (a.got ++ [(w, good)]).length < a.plan.length)
    {d : RecordRead} (hl : s.load = .phase2 d) (hflight : d.inFlight = true) (h0 : s.instrument? d.instr = some r)
    (hturn : s.cap.lastWasPhase2 = false) :
    pumpCapture (takeFetched w good y) =
      placePart .phase2 (r.recordAddr + d.got.length) none
        (setCap { s.cap with attempt := some { a with got := a.got ++ [(w, good)] }, lastWasPhase2 := true } y) := by
  have hcap := h.cap
  rw [takeFetched_more (by rw [hcap]; exact ha) (by rw [hcap]; exact hq) hlen, hcap]
  have hout := outstanding_free (h.work 0).parts h.port hs
  have hinst : y.instrument? d.instr = some r := (h.instrument? d.instr).trans h0
  have hly : y.load = .phase2 d := h.load.trans hl
  generalize hc : ({ s.cap with attempt := some { a with got := a.got ++ [(w, good)] } } : CaptureUnit) = c
  have hatt : (setCap c y).cap.attempt = some { a with got := a.got ++ [(w, good)] } := by rw [← hc]; rfl
  obtain ⟨hreads, hwants⟩ := wants_more hatt hlen
  have hphase : (setCap c y).phase2Wants = true := by
    have hlt : d.instr < y.tbl.instruments.length := (List.getElem?_eq_some_iff.mp hinst).1
    simp [State.phase2Wants, hly, hlt]
  have hlast : (setCap c y).cap.lastWasPhase2 = false := by rw [← hc]; exact hturn
  have hplace : placePhase2 (setCap c y) =
      placePart .phase2 (r.recordAddr + d.got.length) none
        { setCap { (setCap c y).cap with lastWasPhase2 := true } (setCap c y) with load := .phase2 d } := by
    simp only [placePhase2, setCap_load, hly, hflight, if_true]
    rw [recordWord_some (u := setCap c y) hinst]
  have hload : ({ setCap { (setCap c y).cap with lastWasPhase2 := true } (setCap c y) with load := .phase2 d } : State) =
      setCap { (setCap c y).cap with lastWasPhase2 := true } (setCap c y) := by
    rw [← hly]
    rfl
  have hout' : ¬ (setCap c y).outstanding (fun p => p == .fetch || p == .phase2) = true := fun h => by
    rw [show (setCap c y).outstanding (fun p => p == .fetch || p == .phase2) = false from hout] at h
    cases h
  rw [pumpCapture_reads hreads, if_neg hout', if_pos hwants, hphase, hlast, if_pos (by decide), hplace, hload, ← hc]
  rfl

theorem groupsCode_eq (c : CommitFlags) : groupsCode c = flagBit c.trade + 2 * flagBit c.quote := by
  unfold groupsCode bitOf flagBit
  cases c.trade <;> cases c.quote <;> rfl

/-- An entry that names no group is applied at once behind the one before it (R73). -/
theorem drainGroupless_one {d : FetchEntry} (hq : u.cap.fetchQueue = [d]) (ha : u.cap.attempt = none)
    (hplan : fetchPlan d.flags = []) :
    drainGroupless u.cap.fetchQueue.length u =
      applyCommit d.instr d.flags d.seq d.time noValues (setCap { u.cap with fetchQueue := [] } u) := by
  have hlen : u.cap.fetchQueue.length = 1 := by rw [hq]; rfl
  rw [hlen]
  simp only [drainGroupless, hq, ha, if_pos hplan]

theorem pumpCapture_drained (hl : (drainGroupless u.cap.fetchQueue.length u).load = .idle)
    (hq : (drainGroupless u.cap.fetchQueue.length u).cap.fetchQueue = [])
    (ha : (drainGroupless u.cap.fetchQueue.length u).cap.attempt = none) :
    pumpCapture u = drainGroupless u.cap.fetchQueue.length u := by
  unfold pumpCapture
  generalize drainGroupless u.cap.fetchQueue.length u = v at hl hq ha ⊢
  have hwants : v.fetchWants = false := by simp [State.fetchWants, ha, hq]
  simp only [hwants, phase2Wants_idle hl, ite_self]

/-- The last word of a fetch attempt, outside LOAD. -/
theorem fetch_ends (hport : s.mem.port = some (.part p false)) (hsrc : p.source = .fetch) (ha : s.cap.attempt = some a)
    (hq : s.cap.fetchQueue = e :: q) (h0 : s.instrument? e.instr = some r) (hs : s.NoCaptureWaiting)
    (hl : s.load = .idle)
    (hlen : a.plan.length ≤ (a.got ++ [((s.mem.ram.read p.addr).word, wordGood (s.mem.ram.read p.addr))]).length) :
    let got := a.got ++ [((s.mem.ram.read p.addr).word, wordGood (s.mem.ram.read p.addr))]
    (e.torn = false → q = [] →
      ∃ t r', exec .fetchReadReturn s = .next t ∧
        CommitApplied e.instr r r' e.flags e.seq e.time (attemptValues a.plan got) (parityFaults p 2 s) s t ∧
        t.cap = { s.cap with attempt := none, fetchQueue := [] }) ∧
    (e.torn = false → ∀ d ds, q = d :: ds → fetchPlan d.flags ≠ [] →
      ∃ t r', exec .fetchReadReturn s = .next t ∧
        CommitApplied e.instr r r' e.flags e.seq e.time (attemptValues a.plan got) (parityFaults p 2 s) s t ∧
        t.cap =
          { s.cap with
            attempt := some ⟨fetchPlan d.flags, []⟩
            fetchQueue := { d with attempt := d.attempt + 1, torn := false } :: ds
            lastWasPhase2 := false }) ∧
    (e.torn = false → ∀ d rd, q = [d] → fetchPlan d.flags = [] → d.instr ≠ e.instr → s.instrument? d.instr = some rd →
      ∃ u t r' rd', exec .fetchReadReturn s = .next t ∧
        CommitApplied e.instr r r' e.flags e.seq e.time (attemptValues a.plan got) (parityFaults p 2 s) s u ∧
        CommitApplied d.instr rd rd' d.flags d.seq d.time noValues [] u t ∧
        t.cap = { s.cap with attempt := none, fetchQueue := [] }) ∧
    (e.torn = true → 3 ≤ e.attempt → q = [] → wordGood (s.mem.ram.read p.addr) = true →
      ∃ t r', exec .fetchReadReturn s = .next t ∧
        CommitApplied e.instr r r' e.flags e.seq e.time noValues
          [(.tornRecord, .instrument e.instr, [3, 1, groupsCode e.flags, e.seq.toNat])] s t ∧
        t.cap = { s.cap with attempt := none, fetchQueue := [] }) := by
  intro got
  have hy := partReturn_returned p 2 s
  have hgoody := partReturn_good (p := p) (source := 2) (s := s)
  rw [exec_fetchReadReturn hport hsrc]
  generalize partReturn p 2 s = y at hy hgoody ⊢
  have hcap := hy.cap
  have hay : y.cap.attempt = some a := by rw [hcap]; exact ha
  have hqy : y.cap.fetchQueue = e :: q := by rw [hcap]; exact hq
  rw [takeFetched_last hay hqy hlen, hcap.symm]
  refine ⟨fun ht hnil => ?_, fun ht d ds hd hplan => ?_, fun ht d rd hd hplan hne hrd => ?_, fun ht hn hnil hgood => ?_⟩
  · obtain ⟨r', z, hz, happ, hzcap, hzl, -, -⟩ := hy.applied h0 hs { y.cap with attempt := none, fetchQueue := q } e.flags
      e.seq e.time (attemptValues a.plan got)
    rw [endAttempt_sound ht, hz, pumpCapture_rests (hzl.trans hl) (by rw [hzcap]; exact hnil)]
    refine ⟨_, r', rfl, happ.aside (.refl s) (grant_aside z), ?_⟩
    rw [grant_cap, hzcap, hnil]
  · obtain ⟨r', z, hz, happ, hzcap, hzl, -, hout⟩ := hy.applied h0 hs { y.cap with attempt := none, fetchQueue := q } e.flags
      e.seq e.time (attemptValues a.plan got)
    rw [endAttempt_sound ht, hz, pumpCapture_begins (e := d) (q := ds) (by rw [hzcap]; exact hd) (by rw [hzcap]) hplan hout
      (hzl.trans hl)]
    refine ⟨_, r', rfl, happ.aside (.refl s)
      ((setCap_aside _ z).trans ((placePart_aside _ _ _ _).trans (grant_aside _))), ?_⟩
    rw [grant_cap, placePart_cap, setCap_cap, hzcap]
  · obtain ⟨r', z, hz, happ, hzcap, hzl, hother, -⟩ := hy.applied h0 hs { y.cap with attempt := none, fetchQueue := q }
      e.flags e.seq e.time (attemptValues a.plan got)
    have hdrain := drainGroupless_one (u := z) (d := d) (by rw [hzcap]; exact hd) (by rw [hzcap]) hplan
    have hrdz : (setCap { z.cap with fetchQueue := [] } z).instrument? d.instr = some rd := (hother d.instr hne).trans hrd
    obtain ⟨⟨rd', happ'⟩, hwork'⟩ := applyCommit_applied (c := d.flags) (seq := d.seq) (time := d.time) (x := noValues)
      ((MarketWork.refl d.instr z).setCap { z.cap with fetchQueue := [] }) hrdz rfl rfl rfl
    have hcap' := applyCommit_cap d.instr d.flags d.seq d.time noValues (setCap { z.cap with fetchQueue := [] } z)
    rw [← hdrain] at happ' hwork' hcap'
    have hpump := pumpCapture_drained (u := z) (by rw [hwork'.rest]; exact hzl.trans hl) (by rw [hcap']; rfl)
      (by rw [hcap', setCap_cap, hzcap])
    rw [endAttempt_sound ht, hz, hpump]
    generalize drainGroupless z.cap.fetchQueue.length z = x at happ' hcap' ⊢
    refine ⟨z, _, r', rd', rfl, happ, happ'.aside (.refl z) (grant_aside x), ?_⟩
    rw [grant_cap, hcap', setCap_cap, hzcap]
  · have hzero : parityFaults p 2 s = [] := if_pos hgood
    rw [hzero] at hy
    have hu := ((hy.work e.instr).setCap { y.cap with attempt := none, fetchQueue := q }).fault .tornRecord
      (.instrument e.instr) [3, 1, groupsCode e.flags, e.seq.toNat]
    have hsame := (Unmoved.refl (setCap { y.cap with attempt := none, fetchQueue := q } y)).fault .tornRecord
      (.instrument e.instr) [3, 1, groupsCode e.flags, e.seq.toNat]
    have hrec := (postFault_instrument? .tornRecord (.instrument e.instr) [3, 1, groupsCode e.flags, e.seq.toNat]
      (setCap { y.cap with attempt := none, fetchQueue := q } y) e.instr).trans ((hy.instrument? e.instr).trans h0)
    rw [endAttempt_abandons ht hn]
    generalize postFault .tornRecord _ _ _ = u at hu hsame hrec ⊢
    obtain ⟨r', z, hz, happ, hzcap, hzl, -, -⟩ := applied_free hu hrec (hsame.tape.trans hy.tape)
      (hsame.lines.trans hy.lines) (hsame.links.trans hy.links) (hsame.port.trans hy.port) hs e.flags e.seq e.time noValues
    rw [hsame.cap] at hzcap
    rw [hz, pumpCapture_rests (hzl.trans hl) (by rw [hzcap]; exact hnil)]
    refine ⟨_, r', rfl, happ.aside (.refl s) (grant_aside z), ?_⟩
    rw [grant_cap, hzcap, setCap_cap, hnil]

/-- Settles O29. -/
theorem fetchReadReturns : Obligations.FetchReadReturns := by
  refine ⟨fun p a e q r s hport hsrc ha hq h0 hs => ?_, fun plan got n hnd => ?_⟩
  · intro x got parity groups torn
    have hy := partReturn_returned p 2 s
    have hgoody := partReturn_good (p := p) (source := 2) (s := s)
    have hexec := exec_fetchReadReturn hport hsrc
    refine ⟨fun hl => ⟨fun hlen hgood => ?_, fun hlen hbad hroom => ?_, fun hlen ht hnil => ?_, fun hlen ht => ?_,
      fun hlen ht => ?_, fun hlen ht hn hplan hgood => ?_, fun hlen ht hn hnil hgood => ?_⟩,
      fun d i hl hflight hi hlen hgood => ?_⟩
    · rw [hexec, hy.goesOn ha hq h0 hs hlen (.inl hl), hgoody hgood]
      rfl
    · rw [hexec, hy.goesOn ha hq h0 hs hlen (.inl hl)]
      have hfs : parityFaults p 2 s = [(.memoryParity, .address p.addr, [x.word.toNat, badLanes x, 2])] :=
        if_neg (ne_true_of_eq_false hbad)
      have hledger := (hy.work 0).ledger
      rw [hfs] at hledger
      have hqueued := hledger.first hroom
      generalize partReturn p 2 s = y at hy hqueued ⊢
      refine ⟨_, rfl, by rw [grant_cap]; rfl, ?_, reading_grant (placePart_reading _ _ _)⟩
      unfold State.Queued
      rw [grant_ctl]
      exact hqueued
    · exact (fetch_ends hport hsrc ha hq h0 hs hl hlen).1 ht hnil
    · exact (fetch_ends hport hsrc ha hq h0 hs hl hlen).2.1 ht
    · exact (fetch_ends hport hsrc ha hq h0 hs hl hlen).2.2.1 ht
    · rw [hexec, hgoody hgood, takeFetched_last (u := freePort s) ha hq hlen, endAttempt_repeats ht hn,
        pumpCapture_begins (u := setCap { (freePort s).cap with attempt := none } (freePort s)) hq rfl hplan
          (outstanding_free (s := s) ⟨[], by simp, by simp⟩ rfl hs) hl]
      have hrec : (setCap { (freePort s).cap with attempt := none } (freePort s)).instrument? e.instr = some r := h0
      rw [recordWord_some hrec]
      rfl
    · have h := (fetch_ends hport hsrc ha hq h0 hs hl hlen).2.2.2 ht hn hnil hgood
      rw [groupsCode_eq] at h
      exact h
    · rw [hexec]
      cases hturn : s.cap.lastWasPhase2 with
      | true =>
        rw [hy.goesOn ha hq h0 hs hlen (.inr hturn), hgoody hgood]
        rfl
      | false =>
        rw [hy.phase2Turn ha hq hs hlen hl hflight hi hturn, hgoody hgood]
        rfl
  · obtain ⟨h1, h2⟩ := attemptValues_getElem plan got n hnd
    refine ⟨h1, fun j hj => ?_⟩
    rw [h2 j hj]
    cases hg : got[j]? with
    | none => rfl
    | some g =>
      obtain ⟨w, b⟩ := g
      cases b <;> rfl

end

end Sys2Proof.Machine
end


section
/-! The taking of LOAD (R23, R53, R121, R125, R144, R161, R162). -/

namespace Sys2Proof.Machine

open Sys2Proof

section
variable {s t u v y z : State} {w : Word}

/-! ### The clearing -/

/-- What waits, but the word of the limit reasons, goes on waiting as the drive's outputs are settled. -/
theorem posted_driveSettle {x : TableWord} {old : State} (h : v.Posted x) (hx : x ≠ .limitReasons) :
    (driveSettle old v).Posted x := by
  refine posted_postChanged ?_ _
  have hwords : (presentStill (logReasons v)).tableWords x = v.tableWords x := by
    rw [presentStill_tape]
    cases x with
    | limitReasons => exact absurd rfl hx
    | _ => rfl
  have hctl : (presentStill (logReasons v)).ctl = v.ctl := by rw [presentStill_tape]; rfl
  unfold State.Posted
  rw [hwords, hctl]
  exact h

/-- The clearing, with all that it posts but what the drive's settlement posts. -/
def loadPosted (s : State) : State :=
  post .driveState (postAll (moduleTable ++ lineTable ++ [.tickerState]) (setPartState .loading (loadCleared s)))

theorem clearForLoad_eq (s : State) : clearForLoad s = driveSettle s (loadPosted s) := rfl

theorem loadPosted_onlyPosts (s : State) :
    OnlyPosts { loadCleared s with ctl := { s.ctl with partState := .loading } } (loadPosted s) :=
  ((post_onlyPosts .partState _).trans (postAll_onlyPosts _ _)).trans (post_onlyPosts .driveState _)

/-- The words that the taking of LOAD posts. -/
def loadWords : List TableWord := [.commandStatus, .partState, .tickerState, .driveState] ++ moduleTable ++ lineTable

theorem loadPosted_posted (h : s.Posted .commandStatus) {x : TableWord} (hx : x ∈ loadWords) : (loadPosted s).Posted x := by
  have hcommand : ({ loadCleared s with ctl := { s.ctl with partState := .loading } } : State).Posted .commandStatus := h
  have hfirst := posted_anyPost hcommand .partState
  have hpart := post_posted .partState { loadCleared s with ctl := { s.ctl with partState := .loading } }
  have hfold : loadPosted s = post .driveState (postAll (moduleTable ++ lineTable ++ [.tickerState])
      (post .partState { loadCleared s with ctl := { s.ctl with partState := .loading } })) := rfl
  rw [hfold]
  generalize post .partState { loadCleared s with ctl := { s.ctl with partState := .loading } } = v at hfirst hpart ⊢
  generalize hts : moduleTable ++ lineTable ++ [TableWord.tickerState] = ts
  have htable (hx : x ∈ ts) : (post .driveState (postAll ts v)).Posted x :=
    posted_anyPost (postAll_posted hx v) .driveState
  rcases List.mem_append.mp hx with hx | hx
  · rcases List.mem_append.mp hx with hx | hx
    · simp only [List.mem_cons, List.not_mem_nil, or_false] at hx
      rcases hx with rfl | rfl | rfl | rfl
      · exact posted_anyPost (posted_postAll hfirst ts) .driveState
      · exact posted_anyPost (posted_postAll hpart ts) .driveState
      · exact htable (hts ▸ List.mem_append_right _ List.mem_cons_self)
      · exact post_posted .driveState _
    · exact htable (hts ▸ List.mem_append_left _ (List.mem_append_left _ hx))
  · exact htable (hts ▸ List.mem_append_left _ (List.mem_append_right _ hx))

/-- The clearing is what it clears, the limit reason log joined, and what it posts. -/
theorem clearForLoad_rest (s : State) :
    clearForLoad s =
      { loadCleared s with
        mem := { s.mem.withdrawCapture with parts := (clearForLoad s).mem.parts }
        ctl := { s.ctl with partState := .loading, writeBack := (clearForLoad s).ctl.writeBack }
        drive := { s.drive with log := s.drive.log.union (loadCleared s).limitStatus } } := by
  have hp := loadPosted_onlyPosts s
  have hd := driveSettle_onlyPosts s (loadPosted s)
  rw [clearForLoad_eq]
  generalize loadPosted s = v at hp hd ⊢
  rw [presentStill_tape] at hd
  generalize driveSettle s v = y at hd ⊢
  rw [hd.eq]
  conv_lhs => rw [hp.eq]
  rfl

theorem withdrawCapture_parts (m : MemoryPath) :
    ∀ p ∈ m.withdrawCapture.parts, p ∈ m.parts ∧ p.source ≠ .fetch ∧ p.source ≠ .phase2 := by
  intro p hp
  obtain ⟨hp, hsrc⟩ := List.mem_filter.mp hp
  refine ⟨hp, ?_, ?_⟩ <;>
  · intro h
    rw [h] at hsrc
    cases hsrc

theorem clearForLoad_parts (s : State) :
    ∃ l, (clearForLoad s).mem.parts = s.mem.withdrawCapture.parts ++ l ∧ ∀ p ∈ l, p.source = .writeBack := by
  have hd := (driveSettle_onlyPosts s (loadPosted s)).parts
  rw [presentStill_tape] at hd
  have hp := (loadPosted_onlyPosts s).parts
  rw [clearForLoad_eq]
  generalize loadPosted s = v at hp hd ⊢
  exact parts_trans hp hd

theorem clearForLoad_writeBack (s : State) : s.ctl.writeBack.Kept (clearForLoad s).ctl.writeBack := by
  have hd := (driveSettle_onlyPosts s (loadPosted s)).kept
  rw [presentStill_tape] at hd
  have hp := (loadPosted_onlyPosts s).kept
  rw [clearForLoad_eq]
  generalize loadPosted s = v at hp hd ⊢
  exact WriteBack.Kept.trans hp hd

theorem clearForLoad_posted (h : s.Posted .commandStatus) {x : TableWord} (hx : x ∈ loadWords) :
    (clearForLoad s).Posted x := by
  rw [clearForLoad_eq]
  refine posted_driveSettle (loadPosted_posted h hx) ?_
  rintro rfl
  revert hx
  decide

/-! ### What the taking of LOAD has done -/

/-- `z` is `s` after LOAD has been taken, with the part state, the command record, the progress of LOAD and what is
posted left open. -/
structure Clearing (s z : State) : Prop where
  rest : z =
    { loadCleared { s with handed := s.handed.drop 1 } with
      mem := { s.mem.withdrawCapture with parts := z.mem.parts }
      ctl :=
        { s.ctl with
          partState := z.ctl.partState
          command := z.ctl.command
          alert := z.ctl.alert
          writeBack := z.ctl.writeBack }
      load := z.load
      drive := { s.drive with log := s.drive.log.union (loadCleared s).limitStatus } }
  parts : ∀ p ∈ z.mem.parts, p.source ≠ .fetch ∧ p.source ≠ .phase2
  kept : s.ctl.writeBack.Kept z.ctl.writeBack

theorem clearForLoad_clearing (ht : Taken w s u) : Clearing s (clearForLoad u) := by
  have hu := ht.posts.eq
  refine ⟨?_, fun p hp => ?_, ?_⟩
  · have hr := clearForLoad_rest u
    generalize clearForLoad u = y at hr ⊢
    rw [hr, hu]
    rfl
  · obtain ⟨l, hl, hsrc⟩ := clearForLoad_parts u
    rw [hl] at hp
    rcases List.mem_append.mp hp with hp | hp
    · exact (withdrawCapture_parts u.mem p hp).2
    · rw [hsrc p hp]
      decide
  · exact WriteBack.Kept.trans (b := u.ctl.writeBack) ht.posts.kept (clearForLoad_writeBack u)

theorem Clearing.posts (h : Clearing s y) (hp : OnlyPosts y z) : Clearing s z := by
  obtain ⟨l, hl, hsrc⟩ := hp.parts
  refine ⟨?_, fun p hmem => ?_, h.kept.trans hp.kept⟩
  · rw [hp.eq]
    conv_lhs => rw [h.rest]
  · rw [hl] at hmem
    rcases List.mem_append.mp hmem with hmem | hmem
    · exact h.parts p hmem
    · rw [hsrc p hmem]
      decide

theorem Clearing.partState (h : Clearing s y) (p : PartState) :
    Clearing s { y with ctl := { y.ctl with partState := p } } := by
  refine ⟨?_, h.parts, h.kept⟩
  conv_lhs => rw [h.rest]

theorem Clearing.loading (h : Clearing s y) (l : LoadProgress) : Clearing s { y with load := l } := by
  refine ⟨?_, h.parts, h.kept⟩
  conv_lhs => rw [h.rest]

theorem Clearing.runEnded (h : Clearing s y) (code : Option ResultCode) (d : Nat) :
    Clearing s (y.runEnded code d) := by
  refine ⟨?_, h.parts, h.kept⟩
  unfold State.runEnded
  conv_lhs => rw [h.rest]

theorem Clearing.placed (h : Clearing s y) (a : Nat) : Clearing s (placePart .directory a none y) := by
  refine ⟨?_, fun p hp => ?_, h.kept⟩
  · conv_lhs => rw [h.rest]
    rfl
  · rw [placePart_mem] at hp
    rcases List.mem_append.mp hp with hp | hp
    · exact h.parts p hp
    · rw [List.mem_singleton.mp hp]
      exact ⟨by simp, by simp⟩

theorem grant_parts_source : ∀ p ∈ (grant z).mem.parts, ∃ q ∈ z.mem.parts, q.source = p.source := by
  intro p hp
  unfold grant at hp
  cases hport : z.mem.port with
  | some g => exact ⟨p, by simpa [hport] using hp, rfl⟩
  | none =>
    simp only [hport] at hp
    cases hg : z.arbiterChoice with
    | none => exact ⟨p, by simpa [hg] using hp, rfl⟩
    | some g =>
      simp only [hg] at hp
      cases g with
      | refresh =>
        obtain ⟨q, hq, rfl⟩ := List.mem_map.mp hp
        exact ⟨q, hq, rfl⟩
      | host c =>
        obtain ⟨q, hq, rfl⟩ := List.mem_map.mp hp
        exact ⟨q, hq, rfl⟩
      | part c rest =>
        refine ⟨p, ?_, rfl⟩
        rw [arbiterChoice_part hg]
        exact List.mem_cons_of_mem c hp

theorem mem_keepControl (h : Handed) (hs : List Handed) :
    h ∈ keepControl hs ↔ h ∈ hs ∧ ∃ off w, h = .control off w := by
  unfold keepControl
  rw [List.mem_filter]
  cases h <;> simp

theorem Clearing.cleared (h : Clearing s z) : ClearedForLoad s (grant z) := by
  have hz := h.rest
  constructor
  case tbl => rw [grant_tbl, hz]; rfl
  case cap => rw [grant_cap, hz]; rfl
  case withdrawn =>
    intro p hp
    obtain ⟨q, hq, hsrc⟩ := grant_parts_source p hp
    rw [← hsrc]
    exact h.parts q hq
  case discarded =>
    intro p b hp hsrc
    have hcap : captureSource p.source = true := by
      rcases hsrc with hsrc | hsrc <;> rw [hsrc] <;> rfl
    have hport : z.mem.port = some (.part p true) := by
      rw [hz]
      simp [MemoryPath.withdrawCapture, hp, hcap]
    rw [grant_busy z (by rw [hport]; rfl)]
    exact hport
  case handed =>
    intro x
    rw [grant_handed, hz]
    exact mem_keepControl x _
  case links =>
    intro k
    rw [grant_links, hz]
    simp [loadCleared, Link.loadTaken]
  case wires =>
    intro k
    rw [grant_links, hz]
    simp only [loadCleared, Link.loadTaken, Fin.getElem_fin, Vector.getElem_ofFn] <;> rfl
  case lines =>
    intro n
    rw [grant_lines, hz]
    simp [loadCleared]
  case tape => rw [grant_tape, hz]; rfl
  case drive => rw [grant_drive, hz]
  case limitLog =>
    have hany : (grant z).anyTripDisabled = (loadCleared s).anyTripDisabled := by
      unfold State.anyTripDisabled
      rw [grant_links, hz]
      rfl
    have hlim : (loadCleared s).limitStatus =
        ⟨decide (0 < s.drive.governor.stage), s.drive.warm.taken, s.drive.lwarn.taken, s.drive.llow.taken,
          s.drive.hotLatch, (loadCleared s).anyTripDisabled⟩ := rfl
    have hdrive : (grant z).drive = { s.drive with log := s.drive.log.union (loadCleared s).limitStatus } := by
      rw [grant_drive, hz]
    unfold LogJoins
    rw [hany, hdrive, hlim]
    generalize (loadCleared s).anyTripDisabled = b
    rfl
  case ram => rw [grant_ram, hz]; rfl
  case guards => rw [grant_guards, grant_guardLock, grant_trap, hz]; exact ⟨rfl, rfl, rfl⟩
  case refresh => rw [grant_refresh, hz]; rfl
  case rst => rw [grant_rst, hz]; rfl
  case log => rw [grant_ctl, hz]; exact ⟨rfl, rfl, rfl, rfl, rfl⟩
  case kept => rw [grant_ctl]; exact h.kept
  case flashTime => rw [grant_flashTime, hz]; rfl
  case service => rw [grant_service, hz]; rfl
  case pending => rw [grant_pending, hz]; rfl

/-! ### LOAD is taken (R53) -/

theorem loadTaken_bad (h : addr20 (u.param 0) (u.param 1) = none) :
    loadTaken u = loadRefused .badParameter 0 (clearForLoad u) := by
  simp only [loadTaken, h]

theorem loadTaken_good {base : Nat} (h : addr20 (u.param 0) (u.param 1) = some base) :
    loadTaken u = readOn ⟨base, 0, [], [], []⟩ (clearForLoad u) := by
  simp only [loadTaken, h]

/-- LOAD ended by a refusal: the table is left empty, the part UNLOADED (R23, R55). -/
theorem loadRefused_onlyPosts (code : ResultCode) (d : Nat) (s : State) :
    OnlyPosts
      ({ s with
          tbl := InstrumentTable.empty
          load := .idle
          ctl := { s.ctl with partState := .unloaded } }.runEnded (some code) d)
      (loadRefused code d s) :=
  (post_onlyPosts .partState
    { s with
      tbl := InstrumentTable.empty
      load := .idle
      ctl := { s.ctl with partState := .unloaded } }).endCommand (some code) d

theorem loadRefused_posted (code : ResultCode) (d : Nat) (s : State) :
    (loadRefused code d s).Posted .commandStatus ∧ (loadRefused code d s).Posted .partState :=
  ⟨(endCommand_onlyPosts (some code) d _).2, posted_endCommand (by decide) (post_posted .partState _) _ _⟩

/-- What waits goes on waiting through the refusal, where the empty table does not change it. -/
theorem loadRefused_stays {x : TableWord} (hx : x ≠ .partState) (h : s.Posted x) (code : ResultCode) (d : Nat) :
    (loadRefused code d s).Posted x := by
  by_cases hc : x = .commandStatus
  · rw [hc]
    exact (loadRefused_posted code d s).1
  · refine posted_endCommand hc (posted_anyPost ?_ .partState) _ _
    have hwords : ({ s with
        tbl := InstrumentTable.empty
        load := .idle
        ctl := { s.ctl with partState := .unloaded } } : State).tableWords x = s.tableWords x := by
      cases x with
      | partState => exact absurd rfl hx
      | _ => rfl
    unfold State.Posted
    rw [hwords]
    exact h

theorem outstanding_cleared (hy : Clearing s y)
    (hparts : ∀ p ∈ y.mem.parts, p.source ≠ .directory ∨ p ∈ s.mem.parts)
    (hs : s.outstanding (· == .directory) = false) : y.outstanding (· == .directory) = false := by
  simp only [State.outstanding, Bool.or_eq_false_iff, List.any_eq_false] at hs ⊢
  obtain ⟨hparts', hport⟩ := hs
  refine ⟨fun p hp => ?_, ?_⟩
  · rcases hparts p hp with h | h
    · simpa using h
    · exact hparts' p h
  · have hyport : y.mem.port = s.mem.withdrawCapture.port := by rw [hy.rest]
    rw [hyport]
    unfold MemoryPath.withdrawCapture
    dsimp only
    cases hm : s.mem.port with
    | none => rfl
    | some g =>
      rw [hm] at hport
      cases g with
      | part p b => exact hport
      | _ => rfl

theorem placeDirectory_cases (d : DirectoryRead) (v : State) :
    placeDirectory d v = placePart .directory (d.base + d.next) none v ∨ placeDirectory d v = v := by
  unfold placeDirectory
  split
  · exact .inl rfl
  · exact .inr rfl

theorem readOn_covers (x : TableWord → Prop) (d : DirectoryRead) (v : State) : Covers x v (readOn d v) := by
  unfold readOn
  rcases placeDirectory_cases d { v with load := .phase1 d } with h | h <;> rw [h]
  · refine covers_of_same rfl (funext fun w => ?_)
    cases w <;> rfl
  · refine covers_of_same rfl (funext fun w => ?_)
    cases w <;> rfl

theorem readOn_clearing (h : Clearing s y) (d : DirectoryRead) : Clearing s (readOn d y) := by
  unfold readOn
  rcases placeDirectory_cases d { y with load := .phase1 d } with hp | hp <;> rw [hp]
  · exact (h.loading _).placed _
  · exact h.loading _

theorem readOn_ctl (d : DirectoryRead) (v : State) : (readOn d v).ctl = v.ctl ∧ (readOn d v).load = .phase1 d := by
  unfold readOn
  rcases placeDirectory_cases d { v with load := .phase1 d } with hp | hp <;> rw [hp] <;> exact ⟨rfl, rfl⟩

theorem readOn_reading {d : DirectoryRead} {a : Nat} (ha : a = d.base + d.next) (hlt : a < y.mem.installed.words)
    (ho : y.outstanding (· == .directory) = false) : (readOn d y).Reading .directory a := by
  subst ha
  have h : readOn d y = placePart .directory (d.base + d.next) none { y with load := .phase1 d } := if_pos ⟨hlt, ho⟩
  rw [h]
  exact placePart_reading _ _ _

/-- The clearing leaves no directory read outstanding where none was. -/
theorem clearForLoad_outstanding (ht : Taken w s u) (hs : s.outstanding (· == .directory) = false) :
    (clearForLoad u).outstanding (· == .directory) = false := by
  refine outstanding_cleared (clearForLoad_clearing ht) (fun p hp => ?_) hs
  obtain ⟨l, hl, hsrc⟩ := clearForLoad_parts u
  obtain ⟨m, hm, hsrc'⟩ := ht.posts.parts
  rw [hl] at hp
  rcases List.mem_append.mp hp with hp | hp
  · have hu := (withdrawCapture_parts u.mem p hp).1
    rw [hm] at hu
    rcases List.mem_append.mp hu with hu | hu
    · exact .inr hu
    · exact .inl (by rw [hsrc' p hu]; decide)
  · exact .inl (by rw [hsrc p hp]; decide)

/-- Settles O23. -/
theorem loadBegins : Obligations.LoadBegins := by
  intro w s ho hcode hi lo base
  obtain ⟨u, hu, ht⟩ := onCommand_takes (codes := (· == 1)) (owning := loadTaken) ho (by simp [hcode])
    (by simp [hcode, unknownCode]) (fun _ => by simp [hcode, takenUnloaded])
  have hexec : exec .load s = .next (grant (loadTaken u)) := congrArg answer hu
  have h0 : u.param 0 = hi := ht.params 0
  have h1 : u.param 1 = lo := ht.params 1
  have hctl : u.ctl = { (s.begun w).ctl with writeBack := u.ctl.writeBack } := congrArg State.ctl ht.posts.eq
  have hclear := clearForLoad_clearing ht
  have hposted := fun x (hx : x ∈ loadWords) => clearForLoad_posted ht.posted hx
  have hrest := clearForLoad_rest u
  have hout := clearForLoad_outstanding ht
  refine ⟨fun hlt => ?_, fun hge => ?_⟩
  · rw [hexec, loadTaken_good (by rw [h0, h1]; exact addr20_of_lt lo hlt)]
    generalize clearForLoad u = y at hclear hposted hrest hout ⊢
    obtain ⟨hc, hl⟩ := readOn_ctl ⟨base, 0, [], [], []⟩ y
    have hyctl : y.ctl = { u.ctl with partState := .loading, writeBack := y.ctl.writeBack } := congrArg State.ctl hrest
    refine ⟨_, rfl, (readOn_clearing hclear _).cleared, ?_, ?_, ?_, ?_, fun hwords hdir => ?_, fun x hx => ?_⟩
    · rw [grant_ctl, hc, hyctl]
    · rw [grant_load, hl]
    · rw [grant_ctl, hc, hyctl, hctl, ← hcode]
      rfl
    · rw [grant_ctl, hc, hyctl, hctl]
      rfl
    · have hins : y.mem.installed = s.mem.installed := by rw [hclear.rest]; rfl
      exact reading_grant (readOn_reading (Nat.add_zero base).symm (by rw [hins]; exact hwords) (hout hdir))
    · exact posted_grant ((readOn_covers noWord _ y).stays (hposted x hx))
  · rw [hexec, loadTaken_bad (by rw [h0, h1]; exact addr20_of_le lo hge)]
    generalize clearForLoad u = y at hclear hposted hrest hout ⊢
    have hyctl : y.ctl = { u.ctl with partState := .loading, writeBack := y.ctl.writeBack } := congrArg State.ctl hrest
    have hrefused := loadRefused_onlyPosts .badParameter 0 y
    have hstays := fun x (hx : x ∈ loadWords) (hne : x ≠ .partState) =>
      loadRefused_stays hne (hposted x hx) .badParameter 0
    have hpart := (loadRefused_posted .badParameter 0 y).2
    generalize loadRefused .badParameter 0 y = z at hrefused hstays hpart ⊢
    have hz := hrefused.eq
    have htbl : y.tbl = InstrumentTable.empty := by rw [hclear.rest]; rfl
    have hzc : Clearing s z := by
      have hy : ({ y with
          tbl := InstrumentTable.empty
          load := .idle
          ctl := { y.ctl with partState := .unloaded } } : State) =
          { { y with load := .idle } with ctl := { y.ctl with partState := .unloaded } } := by
        rw [← htbl]
      rw [hy] at hrefused
      exact (((hclear.loading .idle).partState .unloaded).runEnded _ _).posts hrefused
    refine ⟨_, rfl, hzc.cleared, ?_, ?_, ?_, ?_, fun x hx => ?_⟩
    · rw [grant_ctl, hz]
      rfl
    · rw [grant_load, hz]
      rfl
    · rw [grant_ctl, hz, State.runEnded]
      dsimp only
      rw [hyctl, hctl, ← hcode]
      rfl
    · rw [grant_ctl, hz]
      rfl
    · by_cases hx' : x = .partState
      · exact hx' ▸ posted_grant hpart
      · exact posted_grant (hstays x hx hx')

end

end Sys2Proof.Machine
end


section
/-! The directory's entries: their symbols and checks, and the record built from one (R41, R49, R51, R52, para 10.4). -/

namespace Sys2Proof.Machine

open Sys2Proof

/-! ### Symbols (R51) -/

theorem isLetter_iff (c : Byte) : isLetter c = true ↔ 0x41 ≤ c.toNat ∧ c.toNat ≤ 0x5A := decide_eq_true_iff

theorem isLetter_ne_blank {c : Byte} (h : isLetter c = true) : c ≠ 0x20 := by
  rintro rfl
  revert h
  decide

theorem all_blank_iff (cs : List Byte) : cs.all (· == 0x20) = true ↔ cs = List.replicate cs.length 0x20 := by
  rw [List.eq_replicate_iff]
  simp

/-- Letters and then blanks. -/
theorem lettersThenBlanks_iff (cs : List Byte) :
    lettersThenBlanks cs = true ↔
      ∃ text n, cs = text ++ List.replicate n 0x20 ∧ ∀ c ∈ text, isLetter c = true := by
  induction cs with
  | nil => exact ⟨fun _ => ⟨[], 0, rfl, by simp⟩, fun _ => rfl⟩
  | cons c rest ih =>
    unfold lettersThenBlanks
    by_cases hc : c = 0x20
    · rw [if_pos hc, all_blank_iff]
      constructor
      · intro h
        exact ⟨[], rest.length + 1, by rw [hc, h]; simp [List.replicate_succ], by simp⟩
      · rintro ⟨text, n, h, hl⟩
        cases text with
        | nil =>
          cases n with
          | zero => cases h
          | succ n =>
            rw [List.nil_append, List.replicate_succ] at h
            rw [(List.cons.inj h).2]
            simp
        | cons d text =>
          have hd := hl d List.mem_cons_self
          rw [List.cons_append] at h
          rw [← (List.cons.inj h).1] at hd
          exact absurd hc (isLetter_ne_blank hd)
    · rw [if_neg hc, Bool.and_eq_true, ih]
      constructor
      · rintro ⟨hletter, text, n, rfl, hl⟩
        refine ⟨c :: text, n, rfl, fun d hd => ?_⟩
        rcases List.mem_cons.mp hd with rfl | hd
        · exact hletter
        · exact hl d hd
      · rintro ⟨text, n, h, hl⟩
        cases text with
        | nil =>
          cases n with
          | zero => cases h
          | succ n =>
            rw [List.nil_append, List.replicate_succ] at h
            exact absurd (List.cons.inj h).1 hc
        | cons d text =>
          rw [List.cons_append] at h
          obtain ⟨rfl, htail⟩ := List.cons.inj h
          exact ⟨hl c List.mem_cons_self, text, n, htail, fun x hx => hl x (List.mem_cons_of_mem c hx)⟩

theorem symbolGood_iff {cs : List Byte} :
    symbolGood cs = true ↔
      ∃ text n, cs = text ++ List.replicate n 0x20 ∧ text ≠ [] ∧ ∀ c ∈ text, isLetter c = true := by
  unfold symbolGood
  rw [Bool.and_eq_true, lettersThenBlanks_iff]
  constructor
  · rintro ⟨hfirst, text, n, rfl, hl⟩
    refine ⟨text, n, rfl, ?_, hl⟩
    rintro rfl
    cases n with
    | zero => cases hfirst
    | succ n => simp [List.replicate_succ] at hfirst
  · rintro ⟨text, n, rfl, hne, hl⟩
    refine ⟨?_, text, n, rfl, hl⟩
    cases text with
    | nil => exact absurd rfl hne
    | cons c text => simpa using isLetter_ne_blank (hl c List.mem_cons_self)

section
variable {e : List Word} {text : List Byte}

theorem upperByte_toNat (w : Word) : (upperByte w).toNat = w.toNat / 256 := by
  have := w.isLt
  simp only [upperByte, BitVec.extractLsb'_toNat, Nat.shiftRight_eq_div_pow]
  omega

theorem lowerByte_toNat (w : Word) : (lowerByte w).toNat = w.toNat % 256 := by
  simp [lowerByte, BitVec.extractLsb'_toNat]

theorem symbolChars_eq (e : List Word) : symbolChars e = (entryChars e).map (·.toNat) := by
  simp only [symbolChars, entryChars, List.map_cons, List.map_nil, upperByte_toNat, lowerByte_toNat, numAt_eq]

/-- The characters of an entry are the text and the blanks behind it. -/
theorem isSymbol_iff (e : List Word) (text : List Byte) :
    IsSymbol e text ↔
      text ≠ [] ∧ (∀ c ∈ text, isLetter c = true) ∧ ∃ n, entryChars e = text ++ List.replicate n 0x20 := by
  have hlen : (entryChars e).length = 5 := rfl
  have hmap (cs ds : List Byte) : cs.map (·.toNat) = ds.map (·.toNat) ↔ cs = ds :=
    List.map_inj_right fun _ _ h => BitVec.eq_of_toNat_eq h
  unfold IsSymbol
  rw [symbolChars_eq]
  constructor
  · rintro ⟨hpos, hle, hl, h⟩
    refine ⟨by rintro rfl; simp at hpos, fun c hc => (isLetter_iff c).mpr (hl c hc), 5 - text.length, ?_⟩
    rw [← hmap, List.map_append, h, List.map_replicate]
    rfl
  · rintro ⟨hne, hl, n, h⟩
    have hn : text.length + n = 5 := by rw [← hlen, h]; simp
    refine ⟨List.length_pos_iff.mpr hne, by omega, fun c hc => (isLetter_iff c).mp (hl c hc), ?_⟩
    rw [h, List.map_append, List.map_replicate, show 5 - text.length = n by omega]
    rfl

theorem entrySymbol_of (h : IsSymbol e text) : entrySymbol e = text := by
  obtain ⟨-, hl, n, hn⟩ := (isSymbol_iff e text).mp h
  have hblank : (List.replicate n (0x20 : Byte)).filter (· != 0x20) = [] := by
    rw [List.filter_eq_nil_iff]
    intro c hc
    simp [List.eq_of_mem_replicate hc]
  rw [entrySymbol, hn, List.filter_append, hblank, List.append_nil, List.filter_eq_self]
  intro c hc
  simpa using isLetter_ne_blank (hl c hc)

theorem symbolGood_entry : symbolGood (entryChars e) = true ↔ ∃ text, IsSymbol e text := by
  rw [symbolGood_iff]
  constructor
  · rintro ⟨text, n, h, hne, hl⟩
    exact ⟨text, (isSymbol_iff e text).mpr ⟨hne, hl, n, h⟩⟩
  · rintro ⟨text, h⟩
    obtain ⟨hne, hl, n, h⟩ := (isSymbol_iff e text).mp h
    exact ⟨text, n, h, hne, hl⟩

/-! ### The other fields of an entry -/

theorem entryBase_none : entryBase e = none ↔ numAt e 5 ≠ 4 ∧ numAt e 5 ≠ 8 ∧ numAt e 5 ≠ 16 := by
  unfold entryBase
  rw [numAt_eq]
  dsimp only
  split_ifs <;> simp <;> bv_omega

theorem entryBase_den {b : FractionBase} (h : entryBase e = some b) : b.den = numAt e 5 := by
  unfold entryBase at h
  rw [numAt_eq]
  dsimp only at h
  split_ifs at h with h4 h8 h16 <;> cases h
  · rw [h4]; rfl
  · rw [h8]; rfl
  · rw [h16]; rfl

theorem slotOf_eq (w : Word) (m : Nat) : slotOf w = some m ↔ m ≠ 0xFFFF ∧ w.toNat = m := by
  unfold slotOf
  split_ifs with h
  · subst h
    simp only [false_iff, not_and]
    intro hm h
    exact hm h.symm
  · simp only [Option.some.injEq]
    refine ⟨fun hm => ⟨?_, hm⟩, fun hm => hm.2⟩
    bv_omega

theorem mem_entrySlots (m : Nat) : m ∈ entrySlots e ↔ NamesModule e m := by
  simp only [entrySlots, List.mem_filterMap, List.mem_cons, List.not_mem_nil, or_false, id_eq, exists_eq_right,
    NamesModule, numAt_eq]
  rw [eq_comm (a := some m), eq_comm (a := some m), slotOf_eq, slotOf_eq]
  tauto

theorem mem_slots (r : Instrument) (m : Nat) : m ∈ r.slots ↔ r.Shows m := by
  simp only [Instrument.slots, List.mem_filterMap, List.mem_cons, List.not_mem_nil, or_false, id_eq, exists_eq_right,
    Instrument.Shows]
  rw [eq_comm (a := some m), eq_comm (a := some m)]

theorem any_slots {p : Nat → Bool} {q : Nat → Prop} (h : ∀ m, p m = true ↔ q m) :
    (entrySlots e).any p = true ↔ ∃ m, NamesModule e m ∧ q m := by
  simp only [List.any_eq_true, mem_entrySlots, h]

theorem slotTwice_iff (built : List Instrument) :
    slotTwice built (entrySlots e) = true ↔
      (numAt e 12 = numAt e 13 ∧ numAt e 12 ≠ 0xFFFF) ∨ ∃ m, NamesModule e m ∧ ∃ r ∈ built, r.Shows m := by
  unfold slotTwice
  rw [Bool.or_eq_true, any_slots (q := fun m => ∃ r ∈ built, r.Shows m)
    fun m => by simp only [List.any_eq_true, List.contains_iff_mem, mem_slots]]
  refine or_congr ?_ .rfl
  unfold entrySlots slotOf
  rw [numAt_eq, numAt_eq]
  by_cases h12 : wordAt e 12 = 0xFFFF
  · by_cases h13 : wordAt e 13 = 0xFFFF
    · simp [h12, h13]
    · simp only [h12, h13, if_true, if_false, List.filterMap_cons, id_eq, List.filterMap_nil, Bool.false_eq_true,
        false_iff, not_and]
      intro _ hne
      exact hne rfl
  · by_cases h13 : wordAt e 13 = 0xFFFF
    · simp only [h12, h13, if_true, if_false, List.filterMap_cons, id_eq, List.filterMap_nil, Bool.false_eq_true,
        false_iff, not_and]
      intro h
      exfalso
      bv_omega
    · simp only [h12, h13, if_false, List.filterMap_cons, id_eq, List.filterMap_nil, beq_iff_eq]
      constructor
      · intro h
        exact ⟨h, by bv_omega⟩
      · exact fun h => h.1

/-! ### The checks of an entry (R52) -/

theorem any_symbol (built : List Instrument) (h : IsSymbol e text) :
    built.any (fun r => r.symbol == entrySymbol e) = true ↔ ∃ r ∈ built, r.symbol = text := by
  simp [List.any_eq_true, entrySymbol_of h]

theorem entryChecks (size : MemSize) (header : List Word) (built : List Instrument) (e : List Word) :
    EntryChecks size header built e := by
  refine ⟨fun hnone => ?_, fun text htext => ?_⟩
  · have hgood : symbolGood (entryChars e) = false := by
      rw [Bool.eq_false_iff]
      intro h
      obtain ⟨text, h⟩ := symbolGood_entry.mp h
      exact hnone text h
    simp only [entryCheck, hgood, Bool.not_false, if_true]
  · intro addr chain spares duplicate baseBad overlap range spare twice answer
    have hgood : symbolGood (entryChars e) = true := symbolGood_entry.mpr ⟨text, htext⟩
    have hdup : built.any (fun r => r.symbol == entrySymbol e) = true ↔ duplicate := any_symbol built htext
    have hbase : (entryBase e).isNone = true ↔ baseBad := by rw [Option.isNone_iff_eq_none, entryBase_none]
    have hoverlap : built.any (fun r => r.recordAddr == entryRecord e) = true ↔ overlap := by
      simp only [List.any_eq_true, beq_iff_eq]
      rfl
    have hrange : (entrySlots e).any (slotOutOfRange header) = true ↔ range :=
      any_slots fun m => by
        unfold slotOutOfRange
        rw [Bool.or_eq_true, decide_eq_true_eq, decide_eq_true_eq]
        rfl
    have hspare : (entrySlots e).any (slotSpare header) = true ↔ spare :=
      any_slots fun m => by
        unfold slotSpare headerSpares
        rw [decide_eq_true_eq, show 16 + 4 * (m / 16) + 1 = 17 + 4 * (m / 16) by omega]
        rfl
    have htwice : slotTwice built (entrySlots e) = true ↔ twice := slotTwice_iff built
    have hanswer : answer =
        if built.any (fun r => r.symbol == entrySymbol e) then some .duplicateSymbol
        else if (entryBase e).isNone then some .badFractionBase
        else if addr % 8 ≠ 0 then some .recordMisaligned
        else if size.words - 4096 ≤ addr then some .recordInControlArea
        else if built.any (fun r => r.recordAddr == entryRecord e) then some .recordOverlap
        else if (entrySlots e).any (slotOutOfRange header) then some .moduleRange
        else if (entrySlots e).any (slotSpare header) then some .moduleSpare
        else if slotTwice built (entrySlots e) then some .moduleTwice
        else none := by
      simp only [answer, entryCheck, hgood, Bool.not_true, Bool.false_eq_true, if_false]
      rfl
    rw [hanswer]
    refine ⟨fun hd => if_pos (hdup.mpr hd), fun hd hb => ?_, fun hd hb => ?_⟩
    · rw [if_neg (mt hdup.mp hd), if_pos (hbase.mpr hb)]
    rw [if_neg (mt hdup.mp hd), if_neg (mt hbase.mp hb)]
    refine ⟨fun ha => if_pos ha, fun ha hc => ?_, fun ha hc => ?_⟩
    · rw [if_neg (not_not.mpr ha), if_pos hc]
    rw [if_neg (not_not.mpr ha), if_neg (Nat.not_le.mpr hc)]
    refine ⟨fun ho => if_pos (hoverlap.mpr ho), fun ho hr => ?_, fun ho hr hs => ?_, fun ho hr hs ht => ?_,
      fun ho hr hs ht => ?_⟩
    all_goals rw [if_neg (mt hoverlap.mp ho)]
    · rw [if_pos (hrange.mpr hr)]
    all_goals rw [if_neg (mt hrange.mp hr)]
    · rw [if_pos (hspare.mpr hs)]
    all_goals rw [if_neg (mt hspare.mp hs)]
    · rw [if_pos (htwice.mpr ht)]
    · rw [if_neg (mt htwice.mp ht)]

/-! ### The record built from an entry (R41, R49, R51) -/

theorem base_of_checked {size : MemSize} {header : List Word} {built : List Instrument}
    (h : entryCheck size header built e = none) : ∃ b, entryBase e = some b := by
  cases hb : entryBase e with
  | some b => exact ⟨b, rfl⟩
  | none =>
    have hnone : (entryBase e).isNone = true := by rw [hb]; rfl
    unfold entryCheck at h
    split_ifs at h

theorem testBit_zero (w : Word) : w.getLsbD 0 = decide (w.toNat % 2 = 1) := by
  simp [BitVec.getLsbD, Nat.testBit_zero]

theorem testBit_one (w : Word) : w.getLsbD 1 = decide (w.toNat / 2 % 2 = 1) := by
  simp [BitVec.getLsbD, Nat.testBit_succ, Nat.testBit_zero]

theorem slotOf_numAt (e : List Word) (i : Nat) :
    slotOf (wordAt e i) = if numAt e i = 0xFFFF then none else some (numAt e i) := by
  unfold slotOf
  rw [numAt_eq]
  refine if_congr ⟨fun h => by rw [h]; rfl, fun h => by bv_omega⟩ rfl rfl

theorem recordBuilt {size : MemSize} {header : List Word} {built : List Instrument} (i : Nat)
    (h : entryCheck size header built e = none) : RecordBuilt header i e (buildInstrument header i e) := by
  obtain ⟨b, hb⟩ := base_of_checked h
  refine ⟨fun text ht => entrySymbol_of ht, ?_, fun n => ?_, ?_⟩
  · simp only [buildInstrument, hb, Option.getD_some]
    exact entryBase_den hb
  · simp only [buildInstrument, List.mem_filter, mem_all16, true_and, List.contains_iff_mem]
    exact mem_headerWatch header n.val i
  · have hclose : entryClosePresent e = decide (numAt e 9 % 2 = 1) := testBit_zero _
    have heligible : entryEligible e = decide (numAt e 9 / 2 % 2 = 1) := testBit_one _
    simp only [buildInstrument, hclose, heligible, decide_eq_true_eq, slotOf_numAt]
    rfl

end

end Sys2Proof.Machine
end

section
/-!
The table that phase 1 of LOAD leaves (R42, R43, R45, R56).

A symbol comes before another in the order of the lists of bytes, which is transitive and asymmetric; so the insertion
that builds the Symbol Index keeps it ascending. The Record Index pairs each record with its place, the quote window is
the span of the records read so far, and the board map is the first record that shows a module.
-/

namespace Sys2Proof.Machine
open Sys2Proof

/-! ### The Symbol Index (R42) -/

theorem symbolBefore_iff (a b : List Byte) : symbolBefore a b = true ↔ a < b := by
  induction a generalizing b with
  | nil =>
    cases b with
    | nil => exact ⟨nofun, nofun⟩
    | cons y ys => exact ⟨fun _ => .nil, fun _ => rfl⟩
  | cons x xs ih =>
    cases b with
    | nil => exact ⟨nofun, nofun⟩
    | cons y ys =>
      rw [List.cons_lt_cons_iff]
      by_cases h : x = y
      · subst h
        simp [symbolBefore, ih]
      · simp [symbolBefore, h, BitVec.lt_def]

/-- Index `j` does not stand after index `i` in the Symbol Index: its symbol is not the later one. -/
def NotAfter (rs : List Instrument) (i j : Nat) : Prop := ¬ symbolAt rs j < symbolAt rs i

theorem symbolInsert_perm (rs : List Instrument) (i : Nat) (l : List Nat) : (symbolInsert rs i l).Perm (i :: l) := by
  induction l with
  | nil => exact .refl _
  | cons j rest ih =>
    unfold symbolInsert
    split_ifs
    · exact .refl _
    · exact (ih.cons j).trans (.swap i j rest)

theorem symbolInsert_ascending (rs : List Instrument) (i : Nat) {l : List Nat} (h : l.Pairwise (NotAfter rs)) :
    (symbolInsert rs i l).Pairwise (NotAfter rs) := by
  induction l with
  | nil => exact List.pairwise_singleton _ _
  | cons j rest ih =>
    obtain ⟨hj, hrest⟩ := List.pairwise_cons.mp h
    unfold symbolInsert
    split_ifs with hb
    · have hij : symbolAt rs i < symbolAt rs j := (symbolBefore_iff _ _).mp hb
      refine List.pairwise_cons.mpr ⟨fun k hk hki => ?_, h⟩
      obtain rfl | hk := List.mem_cons.mp hk
      · exact List.lt_asymm hij hki
      · exact hj k hk (List.lt_trans hki hij)
    · refine List.pairwise_cons.mpr ⟨fun k hk => ?_, ih hrest⟩
      obtain rfl | hk := List.mem_cons.mp ((symbolInsert_perm rs i rest).mem_iff.mp hk)
      · exact fun hlt => hb ((symbolBefore_iff _ _).mpr hlt)
      · exact hj k hk

theorem symbolInserts (rs : List Instrument) (is : List Nat) {acc : List Nat} (h : acc.Pairwise (NotAfter rs)) :
    (is.foldl (fun acc i => symbolInsert rs i acc) acc).Perm (acc ++ is) ∧
      (is.foldl (fun acc i => symbolInsert rs i acc) acc).Pairwise (NotAfter rs) := by
  induction is generalizing acc with
  | nil => exact ⟨by simp, h⟩
  | cons i is ih =>
    obtain ⟨hperm, hsorted⟩ := ih (symbolInsert_ascending rs i h)
    refine ⟨hperm.trans ?_, hsorted⟩
    exact ((symbolInsert_perm rs i acc).append_right is).trans List.perm_middle.symm

theorem symbolAt_some {rs : List Instrument} {i : Nat} {r : Instrument} (h : rs[i]? = some r) :
    symbolAt rs i = r.symbol := by
  simp only [symbolAt, h] <;> rfl

/-! ### The Record Index and the quote window (R43) -/

theorem buildRecordIndex_getElem? (rs : List Instrument) (i : Nat) :
    (buildRecordIndex rs)[i]? = rs[i]?.map (fun r => (r.recordAddr, i)) := by
  unfold buildRecordIndex
  rcases lt_or_ge i rs.length with h | h
  · simp [h]
  · simp [h]

theorem mem_buildRecordIndex {rs : List Instrument} {a i : Nat} :
    (a, i) ∈ buildRecordIndex rs ↔ ∃ r, rs[i]? = some r ∧ r.recordAddr = a := by
  rw [List.mem_iff_getElem?]
  constructor
  · rintro ⟨k, hk⟩
    rw [buildRecordIndex_getElem?] at hk
    obtain ⟨r, hr, he⟩ := Option.map_eq_some_iff.mp hk
    obtain ⟨rfl, rfl⟩ := Prod.mk.inj he
    exact ⟨r, hr, rfl⟩
  · rintro ⟨r, hr, rfl⟩
    exact ⟨i, by rw [buildRecordIndex_getElem?, hr]; rfl⟩

/-- Addresses `lo` and `hi` are the lowest and the highest of the records of a list. -/
def RecordSpan (rs : List Instrument) (lo hi : Nat) : Prop :=
  (∃ r ∈ rs, r.recordAddr = lo) ∧ (∃ r ∈ rs, r.recordAddr = hi) ∧ ∀ r ∈ rs, lo ≤ r.recordAddr ∧ r.recordAddr ≤ hi

theorem RecordSpan.singleton (r : Instrument) : RecordSpan [r] r.recordAddr r.recordAddr :=
  ⟨⟨r, .head _, rfl⟩, ⟨r, .head _, rfl⟩, fun q hq => by rw [List.mem_singleton.mp hq]; exact ⟨le_rfl, le_rfl⟩⟩

theorem RecordSpan.concat {rs : List Instrument} {lo hi : Nat} (h : RecordSpan rs lo hi) (r : Instrument) :
    RecordSpan (rs ++ [r]) (min lo r.recordAddr) (max hi r.recordAddr) := by
  obtain ⟨⟨a, ha, rfl⟩, ⟨b, hb, rfl⟩, hall⟩ := h
  have hr : r ∈ rs ++ [r] := List.mem_append_right _ (.head _)
  refine ⟨?_, ?_, fun q hq => ?_⟩
  · rcases le_total a.recordAddr r.recordAddr with h | h
    · exact ⟨a, List.mem_append_left _ ha, (min_eq_left h).symm⟩
    · exact ⟨r, hr, (min_eq_right h).symm⟩
  · rcases le_total b.recordAddr r.recordAddr with h | h
    · exact ⟨r, hr, (max_eq_right h).symm⟩
    · exact ⟨b, List.mem_append_left _ hb, (max_eq_left h).symm⟩
  · obtain hq | hq := List.mem_append.mp hq
    · have := hall q hq
      omega
    · rw [List.mem_singleton.mp hq]
      omega

theorem buildQuoteWindow_concat (rs : List Instrument) (r : Instrument) :
    (buildQuoteWindow rs = none → buildQuoteWindow (rs ++ [r]) = some (r.recordAddr, r.recordAddr + 7)) ∧
    ∀ lo hi, buildQuoteWindow rs = some (lo, hi) →
      buildQuoteWindow (rs ++ [r]) = some (min lo r.recordAddr, max hi (r.recordAddr + 7)) := by
  unfold buildQuoteWindow
  rw [List.foldl_concat]
  exact ⟨fun h => by rw [h], fun lo hi h => by rw [h]⟩

theorem buildQuoteWindow_span (rs : List Instrument) (h : rs ≠ []) :
    ∃ lo hi, buildQuoteWindow rs = some (lo, hi + 7) ∧ RecordSpan rs lo hi := by
  induction rs using List.reverseRecOn with
  | nil => exact absurd rfl h
  | append_singleton rs r ih =>
    obtain ⟨hnone, hsome⟩ := buildQuoteWindow_concat rs r
    by_cases hrs : rs = []
    · subst hrs
      exact ⟨_, _, hnone rfl, RecordSpan.singleton r⟩
    · obtain ⟨lo, hi, hw, hspan⟩ := ih hrs
      exact ⟨_, _, by rw [hsome _ _ hw, Nat.add_max_add_right], hspan.concat r⟩

/-! ### The words of the records (R44) -/

theorem recordOf_of_window {t : InstrumentTable} {lo hi : Nat} (hw : t.quoteWindow = some (lo, hi)) (a : Nat) :
    t.recordOf a = if lo ≤ a ∧ a ≤ hi then
      (t.recordIndex.find? (fun e => decide (e.1 ≤ a ∧ a < e.1 + 8))).map (fun e => (e.2, a - e.1)) else none := by
  simp only [InstrumentTable.recordOf, hw] <;> rfl

theorem recordOf_of_noWindow {t : InstrumentTable} (hw : t.quoteWindow = none) (a : Nat) : t.recordOf a = none := by
  simp only [InstrumentTable.recordOf, hw] <;> rfl

theorem recordIndex_find {rs : List Instrument} {a i b : Nat}
    (h : (buildRecordIndex rs).find? (fun e => decide (e.1 ≤ a ∧ a < e.1 + 8)) = some (b, i)) :
    ∃ r, rs[i]? = some r ∧ r.recordAddr = b ∧ b ≤ a ∧ a < b + 8 := by
  have hin : b ≤ a ∧ a < b + 8 := of_decide_eq_true (List.find?_some (p := fun e : Nat × Nat =>
    decide (e.1 ≤ a ∧ a < e.1 + 8)) h)
  obtain ⟨r, hr, hb⟩ := mem_buildRecordIndex.mp (List.mem_of_find?_eq_some h)
  exact ⟨r, hr, hb, hin⟩

theorem recordIndex_finds {rs : List Instrument} {a i : Nat} {r : Instrument} (hr : rs[i]? = some r)
    (hlo : r.recordAddr ≤ a) (hhi : a < r.recordAddr + 8) :
    ∃ b j, (buildRecordIndex rs).find? (fun e => decide (e.1 ≤ a ∧ a < e.1 + 8)) = some (b, j) := by
  cases hf : (buildRecordIndex rs).find? (fun e => decide (e.1 ≤ a ∧ a < e.1 + 8)) with
  | some e => exact ⟨e.1, e.2, rfl⟩
  | none =>
    have := List.find?_eq_none.mp hf _ (mem_buildRecordIndex.mpr ⟨r, hr, rfl⟩)
    exact absurd (decide_eq_true ⟨hlo, hhi⟩) this

/-- Records of different instruments stand at different addresses. -/
theorem eq_of_recordAddr_eq {rs : List Instrument} (hne : rs.Pairwise (fun a b => a.recordAddr ≠ b.recordAddr))
    {i j : Nat} {r q : Instrument} (hr : rs[i]? = some r) (hq : rs[j]? = some q) (h : r.recordAddr = q.recordAddr) :
    i = j := by
  obtain ⟨hi, rfl⟩ := List.getElem?_eq_some_iff.mp hr
  obtain ⟨hj, rfl⟩ := List.getElem?_eq_some_iff.mp hq
  rw [List.pairwise_iff_getElem] at hne
  rcases Nat.lt_trichotomy i j with hlt | heq | hlt
  · exact absurd h (hne i j hi hj hlt)
  · exact heq
  · exact absurd h.symm (hne j i hj hi hlt)

theorem buildTable_recordOf {rs : List Instrument} (halign : ∀ r ∈ rs, r.recordAddr % 8 = 0)
    (hne : rs.Pairwise (fun a b => a.recordAddr ≠ b.recordAddr)) (a i n : Nat) :
    (buildTable rs).recordOf a = some (i, n) ↔ ∃ r, rs[i]? = some r ∧ n < 8 ∧ a = r.recordAddr + n := by
  by_cases hrs : rs = []
  · subst hrs
    rw [recordOf_of_noWindow rfl]
    exact ⟨nofun, fun ⟨r, hr, _⟩ => by simp at hr⟩
  obtain ⟨lo, hi, hw, -, -, hall⟩ := buildQuoteWindow_span rs hrs
  rw [recordOf_of_window (t := buildTable rs) hw]
  constructor
  · intro h
    split_ifs at h with hin
    obtain ⟨⟨b, j⟩, hf, he⟩ := Option.map_eq_some_iff.mp h
    obtain ⟨rfl, rfl⟩ := Prod.mk.inj he
    obtain ⟨r, hr, rfl, hlo, hhi⟩ := recordIndex_find hf
    exact ⟨r, hr, by omega, by omega⟩
  · rintro ⟨r, hr, hn, rfl⟩
    have hmem : r ∈ rs := List.mem_of_getElem? hr
    have hbounds := hall r hmem
    rw [if_pos (by omega)]
    obtain ⟨b, j, hf⟩ := recordIndex_finds (a := r.recordAddr + n) hr (by omega) (by omega)
    obtain ⟨q, hq, rfl, hlo, hhi⟩ := recordIndex_find hf
    have haddr : q.recordAddr = r.recordAddr := by
      have := halign r hmem
      have := halign q (List.mem_of_getElem? hq)
      omega
    obtain rfl := eq_of_recordAddr_eq hne hr hq haddr.symm
    change Option.map _ ((buildRecordIndex rs).find? _) = _
    rw [hf, haddr]
    simp

/-! ### The board map (R45) -/

theorem shows_of_contains (r : Instrument) (m : Nat) : r.slots.contains m = true ↔ r.Shows m := by
  rw [List.contains_iff_mem, mem_slots]

/-- The record at place `i` shows logical module `m`. -/
def shownAt (rs : List Instrument) (m i : Nat) : Bool := rs[i]?.any (·.slots.contains m)

theorem buildBoardMap_get (rs : List Instrument) (m : Fin 128) :
    (buildBoardMap rs)[m] = (List.range rs.length).find? (shownAt rs m.val) := by
  simp only [buildBoardMap, Fin.getElem_fin, Vector.getElem_ofFn]
  refine congrArg (fun p => List.find? p (List.range rs.length)) (funext fun i => ?_)
  unfold shownAt
  cases rs[i]? <;> rfl

theorem boardMap_shown {rs : List Instrument} {m : Fin 128} {i : Nat} (h : (buildTable rs).boardMap[m] = some i) :
    ∃ r, rs[i]? = some r ∧ r.Shows m.val := by
  change (buildBoardMap rs)[m] = some i at h
  rw [buildBoardMap_get] at h
  have hp := List.find?_some h
  cases hr : rs[i]? with
  | none => simp [shownAt, hr] at hp
  | some r =>
    simp only [shownAt, hr, Option.any_some] at hp
    exact ⟨r, rfl, (shows_of_contains r _).mp hp⟩

theorem boardMap_unshown {rs : List Instrument} {m : Fin 128} (h : (buildTable rs).boardMap[m] = none) :
    ∀ r ∈ rs, ¬ r.Shows m.val := by
  change (buildBoardMap rs)[m] = none at h
  rw [buildBoardMap_get] at h
  intro r hr hshows
  obtain ⟨i, hi, hri⟩ := List.getElem_of_mem hr
  have hp := List.find?_eq_none.mp h i (List.mem_range.mpr hi)
  simp only [shownAt, List.getElem?_eq_getElem hi, hri, Option.any_some] at hp
  exact hp ((shows_of_contains r _).mpr hshows)

theorem tableBuilt (rs : List Instrument) : TableBuilt rs (buildTable rs) := by
  obtain ⟨hperm, hsorted⟩ := symbolInserts rs (List.range rs.length) (acc := []) .nil
  refine ⟨rfl, rfl, hperm, ?_, buildRecordIndex_getElem? rs, ?_, ?_, fun m i => boardMap_shown,
    fun m => boardMap_unshown, fun halign hne a i n => buildTable_recordOf halign hne a i n⟩
  · refine List.Pairwise.imp (fun {i j} hij a b ha hb hless => hij ?_) hsorted
    rw [symbolAt_some ha, symbolAt_some hb]
    exact hless
  · rintro rfl
    rfl
  · exact buildQuoteWindow_span rs

end Sys2Proof.Machine
end

section
/-! The return of a directory read (R54 to R56). -/

namespace Sys2Proof.Machine
open Sys2Proof

section
variable {s t u v y : State} {p : PartCycle} {d : DirectoryRead}

/-! ### A refusal behind a fault -/

/-- The table is empty, LOAD is over, and the part is UNLOADED (R55). -/
def State.loadDropped (s : State) : State :=
  { s with tbl := InstrumentTable.empty, load := .idle, ctl := { s.ctl with partState := .unloaded } }

/-- What is posted before a refusal of LOAD is posted before it still, where no word of the part state waits anew. -/
theorem OnlyPosts.loadDropped {a b : State} (h : OnlyPosts a b)
    (hq : ∀ ws, .table .partState ws ∈ b.ctl.writeBack.queue → .table .partState ws ∈ a.ctl.writeBack.queue) :
    OnlyPosts a.loadDropped b.loadDropped := by
  have hb : b.loadDropped = withPosts a.loadDropped b.mem.parts b.ctl.writeBack := by
    conv_lhs => rw [h.eq_withPosts]
    rfl
  refine ⟨by rw [hb]; rfl, h.port, h.waiting, h.parts, h.kept, fun w ws hne hw => ?_⟩
  cases w with
  | partState => exact .inl (hq ws hw)
  | _ => exact h.present _ ws hne hw

theorem mem_of_pumpWriteBack {e : WbEntry} (h : e ∈ (pumpWriteBack s).ctl.writeBack.queue) :
    e ∈ s.ctl.writeBack.queue := by
  rcases pumpWriteBack_queue s with hq | hq <;> rw [hq] at h
  · exact h
  · exact List.mem_of_mem_tail h

/-- A fault that finds room posts its record, and no table word. -/
theorem postFault_table {w : TableWord} {ws : List Word} (hroom : s.LogRoom) {k : FaultKind} {subj : Subject}
    {details : List Nat} (h : .table w ws ∈ (postFault k subj details s).ctl.writeBack.queue) :
    .table w ws ∈ s.ctl.writeBack.queue := by
  obtain ⟨hr, hfull⟩ := hroom
  simp only [postFault, hr, hfull, Bool.false_eq_true, if_false] at h
  rcases List.mem_append.mp (mem_of_pumpWriteBack h) with h | h
  · exact h
  · simp at h

/-- A refusal behind what has been posted. -/
theorem OnlyPosts.loadRefused {a b : State} (h : OnlyPosts a b)
    (hq : ∀ ws, .table .partState ws ∈ b.ctl.writeBack.queue → .table .partState ws ∈ a.ctl.writeBack.queue)
    (code : ResultCode) (n : Nat) : OnlyPosts (a.loadDropped.runEnded (some code) n) (Machine.loadRefused code n b) :=
  ((h.loadDropped hq).map (fun s => s.runEnded (some code) n) (fun _ _ => rfl) (fun w hw => by
    cases w with
    | commandStatus => exact absurd rfl hw
    | _ => rfl)).trans (loadRefused_onlyPosts code n b)

theorem loadRefused_queued {k n : _} {ws : List Word} (code : ResultCode) (h : y.Queued (.faultRecord k ws)) :
    (loadRefused code n y).Queued (.faultRecord k ws) :=
  queued_post (queued_post (s := y.loadDropped) h (fun _ => by simp)) (fun _ => by simp)

/-! ### The return -/

theorem directoryBeyond_some (hl : s.load = .phase1 d) (h : s.mem.installed.words ≤ d.base + d.next) :
    s.directoryBeyond = some d := by
  simp only [State.directoryBeyond, hl, if_pos h]

theorem directoryBeyond_none (hl : s.load = .phase1 d) (h : d.base + d.next < s.mem.installed.words) :
    s.directoryBeyond = none := by
  simp only [State.directoryBeyond, hl, if_neg (Nat.not_le.mpr h)]

theorem exec_directoryBeyond (h : s.directoryBeyond = some d) (hr : s.rst.inReset = false) :
    exec .directoryReadReturn s = .next (grant (loadRefused .directoryBeyondMemory d.built.length s)) := by
  have htake : exec .directoryReadReturn s = execDirectoryReadReturn s := rfl
  simp only [htake, execDirectoryReadReturn, h, hr] <;> rfl

theorem exec_directoryReadReturn (h : s.directoryBeyond = none) (hport : s.mem.port = some (.part p false))
    (hsrc : p.source = .directory) :
    exec .directoryReadReturn s =
      .next (grant (takeDirectoryWord (s.mem.ram.read p.addr).word (wordGood (s.mem.ram.read p.addr))
        (partReturn p 3 s))) := by
  have htake : exec .directoryReadReturn s = execDirectoryReadReturn s := rfl
  have hon : onPartRead (· == .directory) 3 pumpDirectory takeDirectoryWord s =
      takeDirectoryWord (s.mem.ram.read p.addr).word (wordGood (s.mem.ram.read p.addr)) (partReturn p 3 s) := by
    simp [onPartRead, hport, hsrc]
  simp only [htake, execDirectoryReadReturn, h, hon] <;> rfl

theorem takeDirectoryWord_bad {w : Word} (hl : y.load = .phase1 d) :
    takeDirectoryWord w false y = loadRefused .directoryParity d.built.length y := by
  simp only [takeDirectoryWord, hl] <;> rfl

theorem takeDirectoryWord_header {w : Word} (hl : y.load = .phase1 d) (hn : d.next < 512) :
    takeDirectoryWord w true y = takeHeaderWord d w y := by
  simp only [takeDirectoryWord, hl, Bool.not_true, Bool.false_eq_true, if_false, if_pos hn]

theorem takeDirectoryWord_entry {w : Word} (hl : y.load = .phase1 d) (hn : 512 ≤ d.next) :
    takeDirectoryWord w true y = takeEntryWord d w y := by
  simp only [takeDirectoryWord, hl, Bool.not_true, Bool.false_eq_true, if_false, if_neg (Nat.not_lt.mpr hn)]

/-- With no directory read outstanding, the next one is placed where it exists (R54). -/
theorem readOn_free (h : ∀ q ∈ s.mem.parts, q.source ≠ .directory) (d : DirectoryRead) :
    readOn d (freePort s) =
      { freePort s with
        load := .phase1 d
        mem :=
          { (freePort s).mem with
            parts :=
              if d.base + d.next < s.mem.installed.words then
                s.mem.parts ++ [⟨.directory, d.base + d.next, none, 0⟩]
              else s.mem.parts } } := by
  have hout : ({ freePort s with load := .phase1 d } : State).outstanding (· == .directory) = false := by
    simp only [State.outstanding, Bool.or_eq_false_iff, List.any_eq_false]
    exact ⟨fun q hq => by simpa using h q hq, rfl⟩
  unfold readOn placeDirectory
  by_cases hlt : d.base + d.next < s.mem.installed.words
  · rw [if_pos hlt, if_pos ⟨hlt, hout⟩]
    rfl
  · rw [if_neg hlt, if_neg (fun hand => hlt hand.1)]
    rfl

section
variable {w : Word} {code : ResultCode} {detail : Nat}

theorem takeHeaderWord_reads (h : headerCheck (d.header ++ [w]) d.next = none) :
    takeHeaderWord d w y = readOn { d with header := d.header ++ [w], next := d.next + 1 } y := by
  simp only [takeHeaderWord, h]

theorem takeHeaderWord_refused (h : headerCheck (d.header ++ [w]) d.next = some (code, detail)) :
    takeHeaderWord d w y = loadRefused code detail y := by
  simp only [takeHeaderWord, h]

theorem takeEntryWord_reads (he : (d.entry ++ [w]).length < 16) :
    takeEntryWord d w y = readOn { d with entry := d.entry ++ [w], next := d.next + 1 } y := if_pos he

theorem takeEntryWord_refused (he : 16 ≤ (d.entry ++ [w]).length)
    (h : entryCheck y.mem.installed d.header d.built (d.entry ++ [w]) = some code) :
    takeEntryWord d w y = loadRefused code d.built.length y := by
  simp only [takeEntryWord, if_neg (Nat.not_lt.mpr he), h] <;> rfl

section
variable (he : 16 ≤ (d.entry ++ [w]).length)
  (h : entryCheck y.mem.installed d.header d.built (d.entry ++ [w]) = none)
include he h

theorem takeEntryWord_builds
    (hc : (d.built ++ [buildInstrument d.header d.built.length (d.entry ++ [w])]).length < headerCount d.header) :
    takeEntryWord d w y =
      readOn
        { d with
          entry := []
          built := d.built ++ [buildInstrument d.header d.built.length (d.entry ++ [w])]
          next := d.next + 1 } y := by
  simp only [takeEntryWord, if_neg (Nat.not_lt.mpr he), h, if_pos hc]

theorem takeEntryWord_ends
    (hc : headerCount d.header ≤ (d.built ++ [buildInstrument d.header d.built.length (d.entry ++ [w])]).length) :
    takeEntryWord d w y =
      endPhase1 d.header (d.built ++ [buildInstrument d.header d.built.length (d.entry ++ [w])]) y := by
  simp only [takeEntryWord, if_neg (Nat.not_lt.mpr he), h, if_neg (Nat.not_lt.mpr hc)]

end

end

/-! ### The end of phase 1 (R56) -/

/-- `u` is `s` but for its lines and what is posted. -/
structure LinesPosted (s u : State) : Prop where
  rest : u =
    { s with
      mem := { s.mem with parts := u.mem.parts }
      ctl := { s.ctl with writeBack := u.ctl.writeBack }
      lines := u.lines }
  parts : ∃ l, u.mem.parts = s.mem.parts ++ l ∧ ∀ p ∈ l, p.source = .writeBack

theorem LinesPosted.setLine (h : LinesPosted s u) (n : Fin 16) (l : Line) : LinesPosted s (setLine n l u) := by
  have hrest := setLine_rest n l u
  have hparts := (setLine_onlyPosts n l u).parts
  generalize Machine.setLine n l u = v at hrest hparts ⊢
  refine ⟨?_, parts_trans h.parts hparts⟩
  rw [hrest]
  conv_lhs => rw [h.rest]

theorem fillWatchLists_posted (header : List Word) (s : State) : LinesPosted s (fillWatchLists header s) := by
  have hfold : ∀ (ls : List (Fin 16)) (u : State), LinesPosted s u →
      LinesPosted s
        (ls.foldl (fun s l => setLine l { s.lines[l] with watch := headerWatch header l.val } s) u) := by
    intro ls
    induction ls with
    | nil => exact fun u h => h
    | cons l ls ih => exact fun u h => ih _ (h.setLine l _)
  exact hfold all16 s ⟨rfl, [], by simp, by simp⟩

/-- Phase 2 begins with the record of its first instrument (R57). -/
theorem placePhase2_begins {r : RecordRead} {i : Instrument} (hl : u.load = .phase2 r) (hf : r.inFlight = false)
    (h0 : u.instrument? r.instr = some i) :
    placePhase2 u =
      placePart .phase2 i.recordAddr none
        { setCap { u.cap with lastWasPhase2 := true } u with
          load := .phase2 { r with attempt := r.attempt + 1, inFlight := true, torn := false, got := [] } } := by
  simp only [placePhase2, hl, hf, Bool.false_eq_true, if_false, List.length_nil]
  rw [recordWord_some h0, Nat.add_zero]

theorem phase2Wants_some {r : RecordRead} {i : Instrument} (hl : u.load = .phase2 r)
    (h0 : u.instrument? r.instr = some i) : u.phase2Wants = true := by
  have hlt : r.instr < u.tbl.instruments.length := (List.getElem?_eq_some_iff.mp h0).1
  simp [State.phase2Wants, hl, hlt]

/-- A Capture Unit with an empty Fetch Queue and no attempt has phase 2 alone to place. -/
theorem pumpCapture_phase2 (hq : u.cap.fetchQueue = []) (ha : u.cap.attempt = none)
    (hout : u.outstanding (fun p => p == .fetch || p == .phase2) = false) (hw : u.phase2Wants = true) :
    pumpCapture u = placePhase2 u := by
  have hreads : headReads u.cap := fun e q he _ => by rw [hq] at he; cases he
  have hfetch : u.fetchWants = false := by simp [State.fetchWants, ha, hq]
  rw [pumpCapture_reads hreads, if_neg (by simp [hout]), if_neg (by simp [hfetch]), if_pos hw]

/-- The table is built, the watch lists are filled, and phase 2 begins. -/
theorem endPhase1_begins {header : List Word} {rs : List Instrument} {r : Instrument} (hr : rs.head? = some r)
    (hcap : s.cap = CaptureUnit.empty) (hs : s.NoCaptureWaiting) :
    ∃ v, LinesPosted (phase1Ended header rs (freePort s)) v ∧
      (∀ n : Fin 16, v.lines[n] = { s.lines[n] with watch := headerWatch header n.val }) ∧
      endPhase1 header rs (freePort s) =
        placePart .phase2 r.recordAddr none
          { setCap { v.cap with lastWasPhase2 := true } v with load := .phase2 ⟨header, 0, 1, true, false, []⟩ } := by
  have hv := fillWatchLists_posted header (phase1Ended header rs (freePort s))
  have hlines := fillWatchLists_line header (phase1Ended header rs (freePort s))
  rw [endPhase1_eq]
  generalize fillWatchLists header (phase1Ended header rs (freePort s)) = v at hv hlines ⊢
  have hvcap : v.cap = { CaptureUnit.empty with active := true } := by
    rw [hv.rest, ← hcap]
    rfl
  have hload : v.load = .phase2 ⟨header, 0, 0, false, false, []⟩ := by rw [hv.rest]; rfl
  have hport : v.mem.port = none := by rw [hv.rest]; rfl
  have h0 : v.instrument? 0 = some r := by
    have htbl : v.tbl.instruments = rs := by rw [hv.rest]; rfl
    rw [State.instrument?, htbl, ← hr]
    exact List.head?_eq_getElem?.symm
  refine ⟨v, hv, fun n => hlines n, ?_⟩
  rw [pumpCapture_phase2 (by rw [hvcap]; rfl) (by rw [hvcap]; rfl) (outstanding_free hv.parts hport hs)
    (phase2Wants_some hload h0), placePhase2_begins hload rfl h0]

theorem headerWatch_eq (ws : List Word) (l : Nat) :
    headerWatch ws l = (List.range (numAt ws (67 + 28 * l))).map (fun j => numAt ws (68 + 28 * l + j)) := by
  have hcount : headerWatchCount ws l = numAt ws (64 + 28 * l + 3) := rfl
  rw [headerWatch, hcount, Nat.add_right_comm]
  refine List.map_congr_left fun j _ => ?_
  exact congrArg (numAt ws) (by unfold lineBlockAt; omega)

/-! ### The obligation -/

/-- Settles O24. -/
theorem directoryReadReturns : Obligations.DirectoryReadReturns := by
  refine ⟨fun d s hl hs => ?_, fun ws l => ⟨headerChecks ws, rfl, headerWatch_eq ws l.val⟩, fun size header built e i =>
    ⟨entryChecks size header built e, recordBuilt i⟩, tableBuilt, fun s i => rfl⟩
  intro refused
  refine ⟨fun hge hr => ?_, fun hlt p hport hsrc => ?_⟩
  · rw [exec_directoryBeyond (directoryBeyond_some hl hge) hr]
    obtain ⟨hc, hp⟩ := loadRefused_posted .directoryBeyondMemory d.built.length s
    exact ⟨_, rfl, hc, hp, loadRefused_onlyPosts _ _ s⟩
  intro x free header entry built on
  have hfree : (freePort s).load = .phase1 d := hl
  have hon : ∀ d' : DirectoryRead, d'.base + d'.next = d.base + (d.next + 1) → on d' = readOn d' (freePort s) := by
    intro d' hd
    rw [readOn_free hs, hd]
    rfl
  have hrefuse := fun code n => loadRefused_posted code n (freePort s)
  have hposts := fun code n => loadRefused_onlyPosts code n (freePort s)
  rw [exec_directoryReadReturn (directoryBeyond_none hl hlt) hport hsrc]
  refine ⟨fun hbad hroom => ?_, fun hgood hn => ?_, fun hgood hn he => ?_, fun hgood hn he => ?_⟩
  · have hfault := postFault_room (k := .memoryParity) (subj := .address p.addr) (d := [x.word.toNat, badLanes x, 3]) hroom
    have htable := fun ws => postFault_table (w := .partState) (ws := ws) (k := .memoryParity) (subj := .address p.addr)
      (details := [x.word.toNat, badLanes x, 3]) hroom
    have hreturn : partReturn p 3 s =
        freePort (postFault .memoryParity (.address p.addr) [x.word.toNat, badLanes x, 3] s) := by
      unfold partReturn
      exact congrArg freePort (if_neg (ne_true_of_eq_false hbad))
    rw [hreturn, hbad]
    generalize postFault .memoryParity _ _ s = y at hfault htable ⊢
    obtain ⟨hfault, hqueued⟩ := hfault
    have hly : (freePort y).load = .phase1 d := by
      rw [hfault.eq]
      exact hl
    rw [takeDirectoryWord_bad hly]
    have hfreed : OnlyPosts (freePort s.slotTaken) (freePort y) :=
      hfault.map freePort (fun _ _ => rfl) (fun w _ => by cases w <;> rfl)
    exact ⟨_, rfl, (loadRefused_posted _ _ _).1, loadRefused_queued _ hqueued, hfreed.loadRefused htable _ _⟩
  all_goals rw [partReturn_good hgood, hgood]
  · rw [takeDirectoryWord_header hfree hn]
    refine ⟨fun hcheck => ?_, fun code detail hcheck => ?_⟩
    · rw [takeHeaderWord_reads hcheck, hon _ rfl]
    · rw [takeHeaderWord_refused hcheck]
      exact ⟨_, rfl, (hrefuse _ _).1, (hrefuse _ _).2, hposts _ _⟩
  · rw [takeDirectoryWord_entry hfree hn, takeEntryWord_reads he, hon _ rfl]
  · rw [takeDirectoryWord_entry hfree hn]
    refine ⟨fun code hcheck => ?_, fun hcheck hcount => ?_, fun hcheck hcount hcap hcapture => ?_⟩
    · rw [takeEntryWord_refused (y := freePort s) he hcheck]
      exact ⟨_, rfl, (hrefuse _ _).1, (hrefuse _ _).2, hposts _ _⟩
    · rw [takeEntryWord_builds (y := freePort s) he hcheck hcount, hon _ rfl]
    · obtain ⟨r, hr⟩ : ∃ r, built.head? = some r := by
        cases hb : d.built with
        | nil => exact ⟨buildInstrument d.header d.built.length entry, by simp [built, hb]⟩
        | cons q qs => exact ⟨q, by simp [built, hb]⟩
      obtain ⟨v, hv, hlines, heq⟩ := endPhase1_begins (header := d.header) hr hcap hcapture
      rw [takeEntryWord_ends (y := freePort s) he hcheck hcount, heq]
      have hrest := hv.rest
      refine ⟨_, rfl, ?_, ?_, ?_, fun r' hr' => ?_, fun n => ?_, ?_, ?_, ?_, ?_, ?_, ?_⟩
      · rw [grant_tbl]
        exact (congrArg State.tbl hrest :)
      · rw [grant_cap]
        exact (congrArg (fun v : State => v.cap.active) hrest :)
      · rw [grant_load]
        rfl
      · rw [hr] at hr'
        cases hr'
        exact reading_grant (placePart_reading _ _ _)
      · rw [grant_lines]
        exact hlines n
      · rw [grant_ram]
        exact (congrArg (fun v : State => v.mem.ram) hrest :)
      · rw [grant_links]
        exact (congrArg State.links hrest :)
      · rw [grant_drive]
        exact (congrArg State.drive hrest :)
      · rw [grant_tape]
        exact (congrArg State.tape hrest :)
      · rw [grant_ctl]
        exact (congrArg (fun v : State => v.ctl.command) hrest :)
      · rw [grant_ctl]
        exact (congrArg (fun v : State => v.ctl.partState) hrest :)

end

end Sys2Proof.Machine
end

section
/-! The end of LOAD (R23, R61, R102, R126, R138, R159, R161, R162). -/

namespace Sys2Proof.Machine
open Sys2Proof

section
variable {s t u v : State} {header : List Word}

/-! ### The links choose -/

/-- Every position of every link had its last frame at the present reading. -/
def State.FramesNow (s : State) : Prop := ∀ (k : Fin 8) (p : Fin 16), s.links[k].positions[p].lastFrame = s.ctl.timeBase

theorem chooseFrame_framesNow (k : Fin 8) (h : s.FramesNow) : (chooseFrame k s).FramesNow := by
  unfold chooseFrame
  dsimp only
  split
  · split
    · exact h
    · rename_i c _
      intro j p
      rw [setLink_getElem]
      split
      · by_cases hp : c.pos = p
        · subst hp
          simp [Link.setPosition, setLink]
        · have hne : c.pos.val ≠ p.val := fun h => hp (Fin.ext h)
          simpa [Link.setPosition, Vector.getElem_set_ne _ _ hne, setLink] using h k p
      · exact h j p
  · exact h

theorem chooseAll_framesNow (h : s.FramesNow) : (chooseAll s).FramesNow := by
  unfold chooseAll
  generalize all8 = ks
  induction ks generalizing s with
  | nil => exact h
  | cons k ks ih => exact ih (chooseFrame_framesNow k h)

/-! ### The lines come up (R61) -/

theorem queueWatch_rest (l : Line) : l.queueWatch = { l with out := l.queueWatch.out } := by
  have hfold : ∀ (is : List Nat) (m : Line), (is.foldl (fun l i => l.queue (.quote i)) m) =
      { m with out := (is.foldl (fun l i => l.queue (.quote i)) m).out } := by
    intro is
    induction is with
    | nil => exact fun m => rfl
    | cons i is ih =>
      intro m
      rw [List.foldl_cons, ih]
      rfl
  exact hfold l.watch l

/-- A line with an empty outbound queue queues its watch list (R61). -/
theorem queueWatch_out {l : Line} (hout : l.out = []) (hw : l.watch.Nodup) :
    l.queueWatch.out = l.watch.map OutEntry.quote := by
  have hfold : ∀ (is : List Nat) (m : Line), is.Nodup → (∀ i ∈ is, OutEntry.quote i ∉ m.out) →
      (is.foldl (fun l i => l.queue (.quote i)) m).out = m.out ++ is.map OutEntry.quote := by
    intro is
    induction is with
    | nil => exact fun m _ _ => by simp
    | cons i is ih =>
      intro m hnd hno
      obtain ⟨hi, hnd⟩ := List.nodup_cons.mp hnd
      have hqueue : (m.queue (.quote i)).out = m.out ++ [.quote i] := by
        simp [Line.queue, queueOut, hno i List.mem_cons_self]
      rw [List.foldl_cons, ih _ hnd, hqueue, List.append_assoc, List.map_cons]
      · rfl
      · intro j hj hmem
        rw [hqueue, List.mem_append, List.mem_singleton] at hmem
        rcases hmem with hmem | hmem
        · exact hno j (List.mem_cons_of_mem i hj) hmem
        · cases hmem
          exact hi hj
  have h := hfold l.watch l hw (by simp [hout])
  rw [hout] at h
  exact h

theorem lineUp_absent {now : Time} {n : Fin 16} {l : Line} (h : numAt header (64 + 28 * n.val) = 0) :
    lineUp header now n l = l := by
  have hw : wordAt header (64 + 28 * n.val) = 0 := BitVec.eq_of_toNat_eq h
  have hrate : headerRate header n.val = some .none := by
    simp only [headerRate, lineBlockAt, hw, rateOfCode, if_true]
  simp only [lineUp, hrate] <;> rfl

theorem lineUp_present {now : Time} {n : Fin 16} {l : Line} {b : Rate} (h : headerRate header n.val = some b)
    (hb : b ≠ .none) :
    lineUp header now n l =
      if headerClass header n.val = 0 then
        { l with
          rate := b
          cls := headerClass header n.val
          doze := headerDoze header n.val
          state := .muted }.restartDoze now
      else
        ({ l with
          rate := b
          cls := headerClass header n.val
          doze := headerDoze header n.val
          state := .active }.queueWatch).restartDoze now := by
  cases b with
  | none => exact absurd rfl hb
  | _ => simp only [lineUp, h]

/-! ### The state that the end of LOAD posts from -/

/-- The units with their part of the floor (R61, R138, R161). -/
def floorUp (header : List Word) (s : State) : State :=
  { loadUp header s with
    tape := s.tape.loadDone (headerTicker header)
    drive := { s.drive with governor := s.drive.governor.takeBlock header } }

/-- The part is RUNNING and its command has ended DONE (R23). -/
def State.runsDone (s : State) : State := { s with ctl := { (s.runEnded none 0).ctl with partState := .running } }

/-- What the end of LOAD leaves, before the links choose and without what is posted. -/
def loadDone (header : List Word) (s : State) : State := (floorUp header s).runsDone

theorem runsDone_withPosts (parts : List PartCycle) (wb : WriteBack) (s : State) :
    (withPosts s parts wb).runsDone = withPosts s.runsDone parts wb := rfl

theorem withPosts_withPosts (parts parts' : List PartCycle) (wb wb' : WriteBack) (s : State) :
    withPosts (withPosts s parts wb) parts' wb' = withPosts s parts' wb' := rfl

/-- The units with their part of the floor, the tables posted. -/
def floorPosted (header : List Word) (s : State) : State :=
  let s2 := updateTape ((loadUp header s).tape.loadDone (headerTicker header)) (loadUp header s)
  postAll (moduleTable ++ lineTable) (setDrive { s2.drive with governor := s2.drive.governor.takeBlock header } s2)

/-- The words that the end of LOAD posts. -/
def loadEndWords : List TableWord := [.partState, .commandStatus] ++ moduleTable ++ lineTable

/-- The tape, the governor, the tables, the part state and the command, one after the other. -/
theorem loadEnd_eq (header : List Word) (s : State) :
    loadEnd header s = chooseAll (driveSettle s (endDone (setPartState .running (floorPosted header s)))) := rfl

theorem floorPosted_eq (header : List Word) (s : State) :
    floorPosted header s =
      withPosts (floorUp header s) (floorPosted header s).mem.parts (floorPosted header s).ctl.writeBack ∧
      s.ctl.writeBack.Kept (floorPosted header s).ctl.writeBack := by
  unfold floorPosted
  have htape := updateTape_onlyPosts ((loadUp header s).tape.loadDone (headerTicker header)) (loadUp header s)
  generalize updateTape ((loadUp header s).tape.loadDone (headerTicker header)) (loadUp header s) = a at htape ⊢
  have hall := postAll_onlyPosts (moduleTable ++ lineTable)
    (setDrive { a.drive with governor := a.drive.governor.takeBlock header } a)
  generalize postAll (moduleTable ++ lineTable)
    (setDrive { a.drive with governor := a.drive.governor.takeBlock header } a) = b at hall ⊢
  refine ⟨?_, WriteBack.Kept.trans (b := a.ctl.writeBack) htape.kept hall.kept⟩
  rw [hall.eq]
  conv_lhs => rw [htape.eq]
  rfl

theorem floorPosted_posted {x : TableWord} (hx : x ∈ moduleTable ++ lineTable) : (floorPosted header s).Posted x :=
  postAll_posted hx _

theorem posted_setPartState {x : TableWord} (hx : x ≠ .partState) (h : s.Posted x) (p : PartState) :
    (setPartState p s).Posted x := by
  refine posted_anyPost (s := { s with ctl := { s.ctl with partState := p } }) ?_ .partState
  cases x with
  | partState => exact absurd rfl hx
  | _ => exact h

theorem ne_partState_of_tables {x : TableWord} (hx : x ∈ moduleTable ++ lineTable) :
    x ≠ .partState ∧ x ≠ .commandStatus ∧ x ≠ .limitReasons := by
  rcases List.mem_append.mp hx with hx | hx
  · obtain ⟨k, p, rfl⟩ := mem_moduleTable hx
    exact ⟨nofun, nofun, nofun⟩
  · obtain ⟨n, rfl⟩ := mem_lineTable hx
    exact ⟨nofun, nofun, nofun⟩

theorem endDone_running_posted (h : ∀ x ∈ moduleTable ++ lineTable, s.Posted x) {x : TableWord}
    (hx : x ∈ loadEndWords) : (endDone (setPartState .running s)).Posted x := by
  rw [loadEndWords, List.append_assoc, List.mem_append, List.mem_cons, List.mem_singleton] at hx
  rcases hx with (rfl | rfl) | hx
  · exact posted_endCommand (by decide) (post_posted .partState _) none 0
  · exact (endCommand_onlyPosts none 0 _).2
  · obtain ⟨hp, hc, -⟩ := ne_partState_of_tables hx
    exact posted_endCommand hc (posted_setPartState hp (h x hx) .running) none 0

theorem endDone_running_eq (b : State) :
    endDone (setPartState .running b) =
      withPosts b.runsDone (endDone (setPartState .running b)).mem.parts (endDone (setPartState .running b)).ctl.writeBack ∧
      b.ctl.writeBack.Kept (endDone (setPartState .running b)).ctl.writeBack := by
  have hpart := post_onlyPosts .partState { b with ctl := { b.ctl with partState := .running } }
  have hfold : setPartState .running b = post .partState { b with ctl := { b.ctl with partState := .running } } := rfl
  rw [hfold]
  generalize post .partState { b with ctl := { b.ctl with partState := .running } } = c at hpart ⊢
  have hend := (endCommand_onlyPosts none 0 c).1
  have hd : endDone c = endCommand none 0 c := rfl
  rw [hd]
  generalize endCommand none 0 c = e at hend ⊢
  refine ⟨?_, WriteBack.Kept.trans (b := c.ctl.writeBack) hpart.kept hend.kept⟩
  rw [hend.eq]
  conv_lhs => rw [hpart.eq]
  rfl

theorem loadEnd_posts (header : List Word) (s : State) :
    ∃ v, loadEnd header s = chooseAll (driveSettle s v) ∧
      v = withPosts (loadDone header s) v.mem.parts v.ctl.writeBack ∧ s.ctl.writeBack.Kept v.ctl.writeBack ∧
      ∀ x ∈ loadEndWords, v.Posted x := by
  obtain ⟨hb, hkb⟩ := floorPosted_eq header s
  have hposted := fun x => floorPosted_posted (header := header) (s := s) (x := x)
  rw [loadEnd_eq]
  generalize floorPosted header s = b at hb hkb hposted ⊢
  obtain ⟨hv, hkv⟩ := endDone_running_eq b
  have hwords := fun x => endDone_running_posted (x := x) hposted
  generalize endDone (setPartState .running b) = v at hv hkv hwords ⊢
  refine ⟨v, rfl, ?_, hkb.trans hkv, hwords⟩
  have hdone := runsDone_withPosts b.mem.parts b.ctl.writeBack (floorUp header s)
  rw [← hb] at hdone
  conv_lhs => rw [hv, hdone, withPosts_withPosts]
  rfl

/-! ### The Ticker Unit at the end of LOAD (R161) -/

section
variable {k : TickerUnit} {block : TickerBlock}

theorem loadDone_still (h : k.condition = .still) : k.loadDone block = { k with block := block }.run := by
  simp only [TickerUnit.loadDone, h] <;> rfl

theorem loadDone_blanking {left : Nat} (h : k.condition = .blanking left) :
    k.loadDone block = { k with block := block, loadedInBlankOut := true } := by
  simp only [TickerUnit.loadDone, h] <;> rfl

theorem loadDone_running (h : k.condition = .running) : k.loadDone block = { k with block := block } := by
  simp only [TickerUnit.loadDone, h] <;> rfl

theorem loadDone_block (k : TickerUnit) (block : TickerBlock) : (k.loadDone block).block = block := by
  cases h : k.condition with
  | still => rw [loadDone_still h]; rfl
  | blanking left => rw [loadDone_blanking h]
  | running => rw [loadDone_running h]

/-- The ribbon does not stand still at the end of a LOAD that ends DONE. -/
theorem loadDone_moves (k : TickerUnit) (block : TickerBlock) : (k.loadDone block).condition ≠ .still := by
  cases h : k.condition with
  | still => rw [loadDone_still h]; exact nofun
  | blanking left => rw [loadDone_blanking h]; dsimp only; rw [h]; exact nofun
  | running => rw [loadDone_running h]; dsimp only; rw [h]; exact nofun

end

/-! ### What the units have taken up -/

/-- The end of LOAD, but for what is posted, the choices of the links, and the limit reason log. -/
structure FloorUp (header : List Word) (s t : State) : Prop where
  rest : t =
    { withPosts (loadDone header s) t.mem.parts t.ctl.writeBack with
      links := t.links
      drive := { (loadDone header s).drive with log := s.drive.log.union (loadDone header s).limitStatus } }
  boards : SameBoards (loadDone header s) t
  frames : t.FramesNow
  kept : s.ctl.writeBack.Kept t.ctl.writeBack
  posted : ∀ x ∈ loadEndWords, (grant t).Posted x

theorem loadDone_link (header : List Word) (s : State) (k : Fin 8) : (loadDone header s).links[k] = s.linkUp header k := by
  have h : (loadDone header s).links = Vector.ofFn (fun k : Fin 8 => s.linkUp header k) := rfl
  rw [h, Fin.getElem_fin, Vector.getElem_ofFn]

theorem linkUp_position (header : List Word) (s : State) (k : Fin 8) (p : Fin 16) :
    (s.linkUp header k).positions[p] =
      { s.links[k].positions[p] with
        kind := positionKind (headerChain header k.val) (headerSpares header k.val) p.val
        state := .unknown
        missed := 0
        shownImage := none
        shownSetting := none
        lastFrame := s.ctl.timeBase } := by
  simp only [State.linkUp, Fin.getElem_fin, Vector.getElem_ofFn]

theorem driveSettle_links (old v : State) :
    (driveSettle old v).links = v.links ∧ (driveSettle old v).ctl.timeBase = v.ctl.timeBase := by
  have hd := (driveSettle_onlyPosts old v).eq
  rw [presentStill_tape] at hd
  generalize driveSettle old v = y at hd ⊢
  rw [hd]
  exact ⟨rfl, rfl⟩

theorem loadDone_framesNow (header : List Word) (s : State) : (loadDone header s).FramesNow := by
  intro k p
  rw [loadDone_link, linkUp_position]
  rfl

theorem loadEnd_floorUp (header : List Word) (s : State) : FloorUp header s (loadEnd header s) := by
  obtain ⟨v, heq, hv, hkept, hposted⟩ := loadEnd_posts header s
  have hset := settled_eq (OnlyPosts.refl v) s
  have hboards := settled_boards (OnlyPosts.refl v) s
  have hk := settled_kept (OnlyPosts.refl v) s
  have hwords := fun x (hx : x ∈ loadEndWords) (hne : x ≠ .limitReasons) => posted_settled (old := s) (hposted x hx) hne
  have hvlinks : v.links = (loadDone header s).links := (congrArg State.links hv :)
  have hvtime : v.ctl.timeBase = (loadDone header s).ctl.timeBase :=
    (congrArg (fun v : State => v.ctl.timeBase) hv :)
  have hnow : (chooseAll (driveSettle s v)).FramesNow := by
    refine chooseAll_framesNow fun k p => ?_
    obtain ⟨hlinks, htime⟩ := driveSettle_links s v
    rw [hlinks, htime, hvlinks, hvtime]
    exact loadDone_framesNow header s k p
  rw [← heq] at hset hboards hk hwords hnow
  generalize loadEnd header s = t at hset hboards hk hwords hnow ⊢
  generalize driveSettle s v = y at hset
  refine ⟨?_, fun k => ?_, hnow, hkept.trans hk, fun x hx => hwords x hx ?_⟩
  · have hmoves : v.tape.condition ≠ .still := by
      have htape : v.tape = (loadDone header s).tape := (congrArg State.tape hv :)
      rw [htape]
      exact loadDone_moves s.tape (headerTicker header)
    have hlimit : v.limitStatus = (loadDone header s).limitStatus := by rw [hv]; rfl
    have hdrive : v.drive = (loadDone header s).drive := (congrArg State.drive hv :)
    have hparts : t.mem.parts = y.mem.parts := (congrArg (fun t : State => t.mem.parts) hset :)
    have hwb : t.ctl.writeBack = y.ctl.writeBack := (congrArg (fun t : State => t.ctl.writeBack) hset :)
    rw [if_neg hmoves, hlimit, hdrive] at hset
    rw [hparts, hwb]
    conv_lhs => rw [hset]
    conv_lhs => rw [hv]
    rfl
  · have h := hboards k
    rw [hvlinks] at h
    exact h
  · rintro rfl
    rw [loadEndWords, List.append_assoc, List.mem_append] at hx
    rcases hx with hx | hx
    · exact absurd hx (by decide)
    · exact (ne_partState_of_tables hx).2.2 rfl

/-! ### What the end of LOAD hands to the units -/

theorem headerPolicy_code {k : Fin 8} (h : numAt header (18 + 4 * k.val) ≤ 2) :
    numAt header (18 + 4 * k.val) =
      match (headerPolicy header k.val).getD .moduleOnly with
      | .moduleOnly => 0
      | .link => 1
      | .board => 2 := by
  have hw : wordAt header (16 + 4 * k.val + 2) = wordAt header (18 + 4 * k.val) := by rw [Nat.add_right_comm]
  have hnum : numAt header (18 + 4 * k.val) = (wordAt header (18 + 4 * k.val)).toNat := rfl
  unfold headerPolicy
  rw [hw]
  generalize wordAt header (18 + 4 * k.val) = w at hnum ⊢
  rw [hnum] at h ⊢
  dsimp only
  by_cases h0 : w = 0
  · rw [if_pos h0, h0]
    rfl
  by_cases h1 : w = 1
  · rw [if_neg h0, if_pos h1, h1]
    rfl
  have h2 : w = 2 := by bv_omega
  rw [if_neg h0, if_neg h1, if_pos h2, h2]
  rfl

theorem headerSpares_eq (header : List Word) (k : Fin 8) : headerSpares header k.val = numAt header (17 + 4 * k.val) := by
  rw [headerSpares, Nat.add_right_comm, numAt_eq]

theorem headerClass_eq (header : List Word) (n : Fin 16) : headerClass header n.val = numAt header (65 + 28 * n.val) := by
  rw [headerClass, lineBlockAt, Nat.add_right_comm, numAt_eq]

theorem headerDoze_eq (header : List Word) (n : Fin 16) :
    headerDoze header n.val =
      if numAt header (66 + 28 * n.val) = 0 then 0 else max 30 (min (numAt header (66 + 28 * n.val)) 3600) := by
  rw [headerDoze, lineBlockAt, Nat.add_right_comm, ← numAt_eq]
  rfl

theorem headerTicker_eq (header : List Word) :
    headerTicker header =
      ⟨if numAt header 56 = 0 then .slow else .normal, max 5 (min (numAt header 57) 600),
        max (max 5 (min (numAt header 57) 600)) (max 5 (min (numAt header 58) 600)), numAt header 59⟩ := by
  have hzero : numAt header 56 = 0 ↔ wordAt header 56 = 0 := by
    exact ⟨fun h => BitVec.eq_of_toNat_eq h, fun h => congrArg BitVec.toNat h⟩
  simp only [hzero]
  rfl

theorem linkUp_module (header : List Word) (s : State) (k : Fin 8) (m : Fin 16) :
    (s.linkUp header k).modules[m].target = some m ∧ (s.linkUp header k).modules[m].flash = none ∧
      (s.shows k m = none → (s.linkUp header k).modules[m].image = Image.blank) ∧
      ∀ i r, s.shows k m = some i → s.instrument? i = some r →
        (s.linkUp header k).modules[m].image = boardImage r := by
  simp only [State.linkUp, Fin.getElem_fin, Vector.getElem_ofFn]
  refine ⟨trivial, trivial, fun h => ?_, fun i r h hi => ?_⟩
  · simp only [h]
  · simp only [h, hi]

theorem lineUp_out {now : Time} {n : Fin 16} {l : Line} {b : Rate} (h : headerRate header n.val = some b)
    (hb : b ≠ .none) :
    lineUp header now n l =
      { l with
        rate := b
        cls := headerClass header n.val
        doze := headerDoze header n.val
        state := if headerClass header n.val = 0 then .muted else .active
        dozeTimer := if headerDoze header n.val = 0 then none else some now
        out := (lineUp header now n l).out } ∧
      (headerClass header n.val = 0 → (lineUp header now n l).out = l.out) ∧
      (headerClass header n.val ≠ 0 → l.out = [] → l.watch.Nodup →
        (lineUp header now n l).out = l.watch.map OutEntry.quote) := by
  rw [lineUp_present h hb]
  by_cases hc : headerClass header n.val = 0
  · rw [if_pos hc, if_pos hc]
    exact ⟨rfl, fun _ => rfl, fun hne => absurd hc hne⟩
  · rw [if_neg hc, if_neg hc]
    refine ⟨?_, fun h0 => absurd h0 hc, fun _ hout hw => ?_⟩
    · rw [queueWatch_rest]
      rfl
    · exact queueWatch_out (l := { l with
          rate := b
          cls := headerClass header n.val
          doze := headerDoze header n.val
          state := .active }) hout hw

theorem loadEnds (header : List Word) (s : State) : LoadEnds header s (grant (loadEnd header s)) := by
  have h := loadEnd_floorUp header s
  generalize loadEnd header s = t at h ⊢
  obtain ⟨hrest, hboards, hframes, hkept, hposted⟩ := h
  have htape : t.tape = s.tape.loadDone (headerTicker header) := (congrArg State.tape hrest :)
  have hctl : t.ctl = { (s.runEnded none 0).ctl with partState := .running, writeBack := t.ctl.writeBack } :=
    (congrArg State.ctl hrest :)
  have hlines : ∀ n : Fin 16, t.lines[n] = lineUp header s.ctl.timeBase n s.lines[n] := fun n => by
    have hl : t.lines = Vector.ofFn (fun l : Fin 16 => lineUp header s.ctl.timeBase l s.lines[l]) :=
      (congrArg State.lines hrest :)
    rw [hl, Fin.getElem_fin, Vector.getElem_ofFn]
  have hlink : ∀ k : Fin 8, SameLink (s.linkUp header k) t.links[k] := fun k => by
    rw [← loadDone_link header s k]
    exact hboards k
  constructor
  case load => rw [grant_load]; exact (congrArg State.load hrest :)
  case dayNumber => rw [grant_tbl]; exact (congrArg (fun t : State => t.tbl.dayNumber) hrest :)
  case partState => rw [grant_ctl, hctl]
  case command => rw [grant_ctl, hctl]; rfl
  case commandCause => rw [grant_ctl, hctl]; rfl
  case posted => exact hposted
  case flashTime => rw [grant_flashTime]; exact (congrArg State.flashTime hrest :)
  case links =>
    intro k
    rw [grant_links]
    have hl := (hlink k).link
    have hpolicy : t.links[k].policy = (s.linkUp header k).policy := by rw [hl]
    have hmodules : t.links[k].modules = (s.linkUp header k).modules := by rw [hl]
    rw [hpolicy, hmodules, ← headerSpares_eq]
    exact hl
  case policies =>
    intro k hk
    rw [grant_links, (hlink k).link]
    exact headerPolicy_code hk
  case positions =>
    intro k p
    have hnow := hframes k p
    rw [hctl] at hnow
    rw [grant_links, (hlink k).positions p, linkUp_position, hnow, headerSpares_eq]
    rfl
  case modules =>
    intro k m
    have hl := (hlink k).link
    have hmodules : t.links[k].modules = (s.linkUp header k).modules := by rw [hl]
    have htbl : (grant t).tbl.instruments = s.tbl.instruments := by
      rw [grant_tbl]
      exact (congrArg (fun t : State => t.tbl.instruments) hrest :)
    obtain ⟨h1, h2, h3, h4⟩ := linkUp_module header s k m
    rw [grant_links, hmodules]
    refine ⟨h1, h2, h3, fun i r hi hr => h4 i r hi ?_⟩
    rw [State.instrument?, htbl] at hr
    exact hr
  case governor =>
    have hlog : t.drive.log = s.drive.log.union (loadDone header s).limitStatus :=
      (congrArg (fun t : State => t.drive.log) hrest :)
    rw [grant_drive, hlog]
    exact (congrArg State.drive hrest :)
  case limitLog =>
    have hany : (grant t).anyTripDisabled = (loadDone header s).anyTripDisabled := by
      rw [State.anyTripDisabled, grant_links, ← hboards.anyTripDisabled]
      rfl
    have hdrive : t.drive =
        { (loadDone header s).drive with log := s.drive.log.union (loadDone header s).limitStatus } :=
      (congrArg State.drive hrest :)
    have hlim : (loadDone header s).limitStatus =
        ⟨decide (0 < s.drive.governor.stage), s.drive.warm.taken, s.drive.lwarn.taken, s.drive.llow.taken,
          s.drive.hotLatch, (loadDone header s).anyTripDisabled⟩ := rfl
    unfold LogJoins
    rw [hany, grant_drive, hdrive, hlim]
    generalize (loadDone header s).anyTripDisabled = b
    rfl
  case block =>
    rw [grant_tape, htape, loadDone_block, headerTicker_eq]
  case ribbonRuns =>
    intro h
    rw [grant_tape, htape, loadDone_still h, TickerUnit.run, speed_eq]
  case ribbonWaits =>
    intro left h
    rw [grant_tape, htape, loadDone_blanking h]
  case ribbonGoesOn =>
    intro h
    rw [grant_tape, htape, loadDone_running h]
  case absentLines =>
    intro n h
    rw [grant_lines, hlines n, lineUp_absent h]
  case linesUp =>
    intro n b hb hne doze cls
    rw [grant_lines, hlines n]
    have h := lineUp_out (now := s.ctl.timeBase) (l := s.lines[n]) (n := n) hb hne
    rw [headerClass_eq, headerDoze_eq] at h
    exact h
  case ram => rw [grant_ram]; exact (congrArg (fun t : State => t.mem.ram) hrest :)
  case guards =>
    rw [grant_guards, grant_guardLock, grant_trap]
    exact ⟨(congrArg (fun t : State => t.mem.guards) hrest :), (congrArg (fun t : State => t.mem.guardLock) hrest :),
      (congrArg (fun t : State => t.mem.trap) hrest :)⟩
  case rst => rw [grant_rst]; exact (congrArg State.rst hrest :)
  case log => rw [grant_ctl, hctl]; exact ⟨rfl, rfl, rfl⟩
  case kept => rw [grant_ctl]; exact hkept
  case handed => rw [grant_handed]; exact (congrArg State.handed hrest :)
  case service => rw [grant_service]; exact (congrArg State.service hrest :)
  case pending => rw [grant_pending]; exact (congrArg State.pending hrest :)

end

end Sys2Proof.Machine
end

section
/-! The return of a phase-2 read (R57 to R61, R73). -/

namespace Sys2Proof.Machine
open Sys2Proof

section
variable {s t u v y : State} {p : PartCycle} {r : RecordRead} {i j : Instrument} {fs : List Posting}

/-! ### The next read of phase 2 -/

/-- The next word of an attempt in flight (R57). -/
theorem placePhase2_goesOn (hl : u.load = .phase2 r) (hf : r.inFlight = true) (h0 : u.instrument? r.instr = some i) :
    placePhase2 u =
      placePart .phase2 (i.recordAddr + r.got.length) none (setCap { u.cap with lastWasPhase2 := true } u) := by
  have hload : ({ setCap { u.cap with lastWasPhase2 := true } u with load := .phase2 r } : State) =
      setCap { u.cap with lastWasPhase2 := true } u := by
    rw [← hl]
    rfl
  simp only [placePhase2, hl, hf, if_true]
  rw [recordWord_some h0, hload]

/-- With nothing to fetch and no read outstanding, phase 2 begins its next attempt (R57). -/
theorem pumpCapture_attempts (hq : u.cap.fetchQueue = []) (ha : u.cap.attempt = none)
    (hout : u.outstanding (fun p => p == .fetch || p == .phase2) = false) (hl : u.load = .phase2 r)
    (hf : r.inFlight = false) (h0 : u.instrument? r.instr = some i) :
    pumpCapture u =
      placePart .phase2 i.recordAddr none
        { setCap { u.cap with lastWasPhase2 := true } u with
          load := .phase2 { r with attempt := r.attempt + 1, inFlight := true, torn := false, got := [] } } := by
  rw [pumpCapture_phase2 hq ha hout (phase2Wants_some hl h0), placePhase2_begins hl hf h0]

/-- Where both kinds have a read to place, they are placed in turn (R73). -/
theorem pumpCapture_turns (h : headReads u.cap)
    (hout : u.outstanding (fun p => p == .fetch || p == .phase2) = false) (hf : u.fetchWants = true)
    (hp : u.phase2Wants = true) :
    pumpCapture u = if u.cap.lastWasPhase2 then placeFetch u else placePhase2 u := by
  rw [pumpCapture_reads h, if_neg (by simp [hout]), if_pos hf, hp]
  cases u.cap.lastWasPhase2 <;> rfl

/-- The next instrument is begun (R57). -/
theorem nextInstrument_begins (hq : u.cap.fetchQueue = []) (ha : u.cap.attempt = none)
    (hout : u.outstanding (fun p => p == .fetch || p == .phase2) = false)
    (h0 : u.instrument? (r.instr + 1) = some j) :
    pumpCapture (nextInstrument r u) =
      placePart .phase2 j.recordAddr none
        { setCap { u.cap with lastWasPhase2 := true } u with
          load := .phase2 { r with instr := r.instr + 1, attempt := 1, inFlight := true, torn := false, got := [] } } := by
  have hlt : r.instr + 1 < u.tbl.instruments.length := (List.getElem?_eq_some_iff.mp h0).1
  rw [nextInstrument, if_pos hlt]
  exact pumpCapture_attempts
    (u := { u with
      load := .phase2 { r with instr := r.instr + 1, attempt := 0, inFlight := false, torn := false, got := [] } })
    hq ha hout rfl rfl h0

/-- After the last instrument LOAD ends, and the Capture Unit rests (R61). -/
theorem nextInstrument_ends (hq : u.cap.fetchQueue = []) (hge : u.tbl.instruments.length ≤ r.instr + 1) :
    pumpCapture (nextInstrument r u) = loadEnd r.header u := by
  have hidle : (loadEnd r.header u).load = .idle := (congrArg State.load (loadEnd_floorUp r.header u).rest :)
  rw [nextInstrument, if_neg (Nat.not_lt.mpr hge)]
  exact pumpCapture_rests hidle (by rw [loadEnd_cap]; exact hq)

/-! ### The returned word -/

theorem exec_phase2ReadReturn (hport : s.mem.port = some (.part p false)) (hsrc : p.source = .phase2) :
    exec .phase2ReadReturn s =
      .next (grant (pumpCapture (takeRecordWord (s.mem.ram.read p.addr).word (wordGood (s.mem.ram.read p.addr))
        (partReturn p 2 s)))) := by
  have htake : exec .phase2ReadReturn s =
      .next (grant (onPartRead (· == .phase2) 2 pumpCapture (fun w good s => pumpCapture (takeRecordWord w good s)) s)) :=
    rfl
  rw [htake, onPartRead, hport]
  simp [hsrc]

theorem partReturn_tbl (p : PartCycle) (source : Nat) (s : State) : (partReturn p source s).tbl = s.tbl := by
  unfold partReturn
  dsimp only
  split
  · rfl
  · exact (postFault_onlyPosts _ _ _ s).tbl

section
variable {w : Word} {good : Bool}

theorem takeRecordWord_more (hl : u.load = .phase2 r) (hlen : (r.got ++ [(w, good)]).length < 8) :
    takeRecordWord w good u = { u with load := .phase2 { r with got := r.got ++ [(w, good)] } } := by
  simp only [takeRecordWord, hl, if_pos hlen]

theorem takeRecordWord_last (hl : u.load = .phase2 r) (hlen : (r.got ++ [(w, good)]).length = 8) :
    takeRecordWord w good u = endRecordRead r (r.got ++ [(w, good)]) u := by
  simp only [takeRecordWord, hl, if_neg (Nat.not_lt.mpr (Nat.le_of_eq hlen.symm))]

end

theorem endRecordRead_sets {got : List (Word × Bool)} (h : r.torn = false ∨ 3 ≤ r.attempt) (u : State) :
    endRecordRead r got u = nextInstrument r (fieldsSet r got u) := by
  rw [endRecordRead_eq, if_neg]
  rcases h with h | h
  · simp [h]
  · simp [Nat.not_lt.mpr h]

theorem endRecordRead_repeats {got : List (Word × Bool)} (ht : r.torn = true) (hn : r.attempt < 3) (u : State) :
    endRecordRead r got u = { u with load := .phase2 { r with inFlight := false, torn := false, got := [] } } := by
  rw [endRecordRead_eq, if_pos]
  simp [ht, hn]

theorem fieldsSet_sound {got : List (Word × Bool)} (ht : r.torn = false) (h0 : u.instrument? r.instr = some i) :
    fieldsSet r got u = setInstrument r.instr (setFields got i) u := by
  simp only [fieldsSet, ht, h0, Bool.false_eq_true, if_false]

theorem fieldsSet_torn {got : List (Word × Bool)} (ht : r.torn = true) (h0 : u.instrument? r.instr = some i) :
    fieldsSet r got u =
      postFault .tornRecord (.instrument r.instr) [3, 0, 3, (commitSeq ((got.map Prod.fst).getD 7 0)).toNat]
        (setInstrument r.instr (setFields got i) u) := by
  simp only [fieldsSet, ht, h0, if_true]

/-! ### What follows the returned word -/

section
variable {w : Word} {good : Bool}

/-- A word that does not end its attempt: the next is placed (R57). -/
theorem Returned.phase2GoesOn (h : Returned fs s y) (hl : s.load = .phase2 r) (hf : r.inFlight = true)
    (h0 : s.instrument? r.instr = some i) (hs : s.NoCaptureWaiting) (hq : s.cap.fetchQueue = [])
    (ha : s.cap.attempt = none) (hlen : (r.got ++ [(w, good)]).length < 8) :
    pumpCapture (takeRecordWord w good y) =
      placePart .phase2 (i.recordAddr + (r.got ++ [(w, good)]).length) none
        (setCap { s.cap with lastWasPhase2 := true }
          { y with load := .phase2 { r with got := r.got ++ [(w, good)] } }) := by
  have hcap := h.cap
  have hinst : y.instrument? r.instr = some i := (h.instrument? r.instr).trans h0
  have hout := outstanding_free (h.work 0).parts h.port hs
  rw [takeRecordWord_more (h.load.trans hl) hlen]
  generalize hu : ({ y with load := .phase2 { r with got := r.got ++ [(w, good)] } } : State) = u
  have hlu : u.load = .phase2 { r with got := r.got ++ [(w, good)] } := by rw [← hu]
  have hcu : u.cap = s.cap := by rw [← hu]; exact hcap
  have hiu : u.instrument? r.instr = some i := by rw [← hu]; exact hinst
  have hou : u.outstanding (fun p => p == .fetch || p == .phase2) = false := by rw [← hu]; exact hout
  rw [pumpCapture_phase2 (by rw [hcu]; exact hq) (by rw [hcu]; exact ha) hou (phase2Wants_some hlu hiu),
    placePhase2_goesOn hlu hf hiu, hcu]

/-- A torn attempt is repeated (R59). -/
theorem Returned.phase2Repeats (h : Returned fs s y) (hl : s.load = .phase2 r) (ht : r.torn = true) (hn : r.attempt < 3)
    (h0 : s.instrument? r.instr = some i) (hs : s.NoCaptureWaiting) (hq : s.cap.fetchQueue = [])
    (ha : s.cap.attempt = none) (hlen : (r.got ++ [(w, good)]).length = 8) :
    pumpCapture (takeRecordWord w good y) =
      placePart .phase2 i.recordAddr none
        { setCap { s.cap with lastWasPhase2 := true } y with
          load := .phase2 { r with attempt := r.attempt + 1, inFlight := true, torn := false, got := [] } } := by
  have hcap := h.cap
  have hinst : y.instrument? r.instr = some i := (h.instrument? r.instr).trans h0
  have hout := outstanding_free (h.work 0).parts h.port hs
  rw [takeRecordWord_last (h.load.trans hl) hlen, endRecordRead_repeats ht hn]
  generalize hu : ({ y with load := .phase2 { r with inFlight := false, torn := false, got := [] } } : State) = u
  have hlu : u.load = .phase2 { r with inFlight := false, torn := false, got := [] } := by rw [← hu]
  have hcu : u.cap = s.cap := by rw [← hu]; exact hcap
  have hiu : u.instrument? r.instr = some i := by rw [← hu]; exact hinst
  have hou : u.outstanding (fun p => p == .fetch || p == .phase2) = false := by rw [← hu]; exact hout
  rw [pumpCapture_attempts (by rw [hcu]; exact hq) (by rw [hcu]; exact ha) hou hlu rfl hiu, hcu, ← hu]
  rfl

end

/-- What an attempt that sets the fields of its instrument comes to, of `u`, the state that has them: the next instrument
is begun, or LOAD ends. -/
structure RecordEnds (r : RecordRead) (u t : State) : Prop where
  begins : ∀ j, u.instrument? (r.instr + 1) = some j →
    t = placePart .phase2 j.recordAddr none
      { setCap { u.cap with lastWasPhase2 := true } u with
        load := .phase2 { r with instr := r.instr + 1, attempt := 1, inFlight := true, torn := false, got := [] } }
  ends : u.tbl.instruments.length ≤ r.instr + 1 → t = loadEnd r.header u

theorem recordEnds (hq : u.cap.fetchQueue = []) (ha : u.cap.attempt = none)
    (hout : u.outstanding (fun p => p == .fetch || p == .phase2) = false) :
    RecordEnds r u (pumpCapture (nextInstrument r u)) :=
  ⟨fun _ h0 => nextInstrument_begins hq ha hout h0, nextInstrument_ends hq⟩

/-- What an attempt has come to keeps the records, and what waits. -/
theorem RecordEnds.kept (h : RecordEnds r u t) :
    (grant t).tbl.instruments = u.tbl.instruments ∧ u.ctl.writeBack.Kept (grant t).ctl.writeBack ∧
      (r.instr + 1 < u.tbl.instruments.length → (grant t).tbl = u.tbl) ∧
      (u.tbl.instruments.length ≤ r.instr + 1 →
        (grant t).tbl = { u.tbl with dayNumber := 0 } ∧ LoadEnds r.header u (grant t)) := by
  rw [grant_tbl, grant_ctl]
  rcases Nat.lt_or_ge (r.instr + 1) u.tbl.instruments.length with hlt | hge
  · have ht := h.begins _ (List.getElem?_eq_getElem hlt)
    have htbl : t.tbl = u.tbl := by rw [ht]; rfl
    have hctl : t.ctl = u.ctl := by rw [ht]; rfl
    rw [htbl, hctl]
    exact ⟨rfl, .refl _, fun _ => rfl, fun hge => absurd hlt (Nat.not_lt.mpr hge)⟩
  · have ht := h.ends hge
    have hends := loadEnds r.header u
    have hup := loadEnd_floorUp r.header u
    rw [← ht] at hends hup
    have htbl : t.tbl = { u.tbl with dayNumber := 0 } := (congrArg State.tbl hup.rest :)
    rw [htbl]
    exact ⟨rfl, hup.kept, fun hlt => absurd hlt (Nat.not_lt.mpr hge), fun _ => ⟨rfl, hends⟩⟩

/-- The end of LOAD looks at nothing that a returned word or the record of an instrument has changed. -/
theorem LoadEnds.before {header : List Word} {n : Nat} (h : LoadEnds header (setInstrument n i (freePort s)) t) :
    LoadEnds header s t :=
  ⟨h.load, h.dayNumber, h.partState, h.command, h.commandCause, h.posted, h.flashTime, h.links, h.policies, h.positions,
    h.modules, h.governor, h.limitLog, h.block, h.ribbonRuns, h.ribbonWaits, h.ribbonGoesOn, h.absentLines, h.linesUp,
    h.ram, h.guards, h.rst, h.log, h.kept, h.handed, h.service, h.pending⟩

theorem setInstrument_table (n : Nat) (x : Instrument) (y : State) (h : y.tbl = s.tbl) :
    (setInstrument n x y).tbl = { s.tbl with instruments := s.tbl.instruments.set n x } := by
  rw [← h]
  rfl

/-- Settles O25. -/
theorem recordReadReturns : Obligations.RecordReadReturns := by
  intro p r i s hport hsrc hl hflight h0 hs x got word price flags set tbl
  have hword : ∀ n, readWord got n = word n := fun n => rfl
  have hprice : ∀ n, readPrice got n = price n := fun n => rfl
  have hflags : readFlags got = flags := by
    unfold readFlags flags
    rw [hword]
    cases word 7 <;> rfl
  have hset : setFields got i = set := by
    unfold setFields
    rw [hflags]
    simp only [hprice, hword]
    unfold set
    cases word 7 <;> cases price 0 <;> rfl
  have hy := partReturn_returned p 2 s
  have hgoody := partReturn_good (p := p) (source := 2) (s := s)
  have htbly := partReturn_tbl p 2 s
  have hlog (hbad : wordGood x = false) (hroom : s.LogRoom) :
      (partReturn p 2 s).Queued (s.faultEntry .memoryParity (.address p.addr) [x.word.toNat, badLanes x, 2]) := by
    have hfs : parityFaults p 2 s = [(.memoryParity, .address p.addr, [x.word.toNat, badLanes x, 2])] :=
      if_neg (ne_true_of_eq_false hbad)
    have hledger := (hy.work 0).ledger
    rw [hfs] at hledger
    exact hledger.first hroom
  rw [exec_phase2ReadReturn hport hsrc]
  refine ⟨fun hq ha => ⟨fun hlen hgood => ?_, fun hlen hbad hroom => ?_, fun hlen hgood ht => ?_,
    fun hlen hbad ht hroom => ?_, fun hlen ht hgood hn => ?_, fun hlen ht hn hgood hroom => ?_⟩,
    fun a e q f ha hq hmore hf hlen hgood => ?_⟩
  · rw [hy.phase2GoesOn hl hflight h0 hs hq ha hlen, hgoody hgood]
    rfl
  · rw [hy.phase2GoesOn hl hflight h0 hs hq ha hlen]
    have hqueued := hlog hbad hroom
    have hram : (partReturn p 2 s).mem.ram = s.mem.ram := by rw [(hy.work 0).rest]
    generalize partReturn p 2 s = y at htbly hqueued hram ⊢
    refine ⟨_, rfl, by rw [grant_load]; rfl, ?_, reading_grant (placePart_reading _ _ _), ?_, ?_⟩
    · unfold State.Queued
      rw [grant_ctl]
      exact hqueued
    · rw [grant_tbl]
      exact htbly
    · rw [grant_ram]
      exact hram
  · have hrec : (freePort s).instrument? r.instr = some i := h0
    rw [hgoody hgood, takeRecordWord_last (u := freePort s) hl hlen, endRecordRead_sets (.inl ht), fieldsSet_sound ht hrec,
      hset]
    have hends := recordEnds (r := r) (u := setInstrument r.instr set (freePort s)) hq ha
      (outstanding_free (s := s) ⟨[], by simp, by simp⟩ rfl hs)
    have hcount : (setInstrument r.instr set (freePort s)).tbl.instruments.length = s.tbl.instruments.length :=
      List.length_set
    have hkept := hends.kept
    generalize pumpCapture (nextInstrument r (setInstrument r.instr set (freePort s))) = v at hends hkept ⊢
    obtain ⟨-, -, htbl, hload⟩ := hkept
    rw [hcount] at htbl hload
    refine ⟨fun hlt => ?_, fun hge => ⟨_, rfl, (hload hge).1, (hload hge).2.before⟩⟩
    have hj : (setInstrument r.instr set (freePort s)).instrument? (r.instr + 1) = some s.tbl.instruments[r.instr + 1] := by
      rw [setInstrument_instrument?, if_neg (Nat.ne_of_lt (Nat.lt_succ_self _))]
      exact List.getElem?_eq_getElem hlt
    have hv := hends.begins _ hj
    refine ⟨_, rfl, htbl hlt, ?_, fun j hj' => ?_, ?_, ?_, ?_, ?_⟩
    · rw [grant_load, hv]
      rfl
    · rw [State.instrument?, List.getElem?_eq_getElem hlt] at hj'
      cases hj'
      rw [hv]
      exact reading_grant (placePart_reading _ _ _)
    · rw [grant_ram, hv]
      rfl
    · rw [grant_ctl, hv]
      rfl
    · rw [grant_links, hv]
      rfl
    · rw [grant_lines, hv]
      rfl
  · have hqueued := hlog hbad hroom
    have hrec : (partReturn p 2 s).instrument? r.instr = some i := (hy.instrument? r.instr).trans h0
    rw [takeRecordWord_last (hy.load.trans hl) hlen, endRecordRead_sets (.inl ht), fieldsSet_sound ht hrec, hset]
    generalize partReturn p 2 s = y at hy htbly hqueued ⊢
    have hu := (hy.work r.instr).setInstrument set
    have hends := recordEnds (r := r) (u := setInstrument r.instr set y) (by rw [setInstrument_cap, hy.cap]; exact hq)
      (by rw [setInstrument_cap, hy.cap]; exact ha) (outstanding_free hu.parts hy.port hs)
    have hcount := hu.count
    have hrecord := setInstrument_self_instrument? ((hy.instrument? r.instr).trans h0) set
    have htable := setInstrument_table r.instr set y htbly
    have hwait : (setInstrument r.instr set y).Queued
      (s.faultEntry .memoryParity (.address p.addr) [x.word.toNat, badLanes x, 2]) := hqueued
    generalize setInstrument r.instr set y = u at hends hcount hrecord htable hwait ⊢
    obtain ⟨hins, hkept, htbl, hload⟩ := hends.kept
    rw [hcount] at htbl hload
    refine ⟨_, rfl, ?_, hwait.kept hkept (fun _ _ => nofun), fun hlt => (htbl hlt).trans htable, fun hge => ?_⟩
    · rw [State.instrument?, hins]
      exact hrecord
    · obtain ⟨h1, h2⟩ := hload hge
      rw [htable] at h1
      exact ⟨h1, h2.partState⟩
  · rw [hy.phase2Repeats hl ht hn h0 hs hq ha hlen, hgoody hgood]
    rfl
  · have hrec : (freePort s).instrument? r.instr = some i := h0
    have hlast : (commitSeq ((got.map Prod.fst).getD 7 0)).toNat = (commitSeq x.word).toNat := by
      have h7 : r.got.length = 7 := by simpa [got] using hlen
      simp [got, h7]
    rw [hgoody hgood, takeRecordWord_last (u := freePort s) hl hlen, endRecordRead_sets (.inr hn), fieldsSet_torn ht hrec,
      hset, hlast]
    have hu := ((MarketWork.refl r.instr s).freePort.setInstrument set).fault .tornRecord (.instrument r.instr)
      [3, 0, 3, (commitSeq x.word).toNat]
    have hsame := (Unmoved.refl (setInstrument r.instr set (freePort s))).fault .tornRecord (.instrument r.instr)
      [3, 0, 3, (commitSeq x.word).toNat]
    have hrecord := (postFault_instrument? .tornRecord (.instrument r.instr) [3, 0, 3, (commitSeq x.word).toNat]
      (setInstrument r.instr set (freePort s)) r.instr).trans (setInstrument_self_instrument? hrec set)
    generalize postFault .tornRecord _ _ _ = u at hu hsame hrecord ⊢
    have hends := recordEnds (r := r) (u := u) (by rw [hsame.cap]; exact hq) (by rw [hsame.cap]; exact ha)
      (outstanding_free hu.parts hsame.port hs)
    obtain ⟨hins, hkept, -, -⟩ := hends.kept
    refine ⟨_, rfl, ?_, (hu.ledger.first hroom).kept hkept (fun _ _ => nofun)⟩
    rw [State.instrument?, hins]
    exact hrecord
  · have hreads : headReads s.cap := fun _ _ _ hnone => by
      rw [ha] at hnone
      cases hnone
    rw [hgoody hgood, takeRecordWord_more (u := freePort s) hl hlen]
    generalize hd : ({ r with got := r.got ++ [(x.word, wordGood x)] } : RecordRead) = d
    generalize hu : ({ freePort s with load := .phase2 d } : State) = u
    have hload : u.load = .phase2 d := by rw [← hu]
    have hcap : u.cap = s.cap := by rw [← hu]; rfl
    have hinst : ∀ n, u.instrument? n = s.instrument? n := fun n => by rw [← hu]; rfl
    have hout : u.outstanding (fun p => p == .fetch || p == .phase2) = false := by
      rw [← hu]
      exact outstanding_free (s := s) ⟨[], by simp, by simp⟩ rfl hs
    have hid : u.instrument? d.instr = some i := by rw [hinst, ← hd]; exact h0
    have hfd : d.inFlight = true := by rw [← hd]; exact hflight
    have hau : u.cap.attempt = some a := by rw [hcap]; exact ha
    have hqu : u.cap.fetchQueue = e :: q := by rw [hcap]; exact hq
    rw [pumpCapture_turns (by rw [hcap]; exact hreads) hout (wants_more hau hmore).2 (phase2Wants_some hload hid), hcap,
      placeFetch_goesOn hqu hau, recordWord_some ((hinst _).trans hf), placePhase2_goesOn hload hfd hid, hcap, ← hu, ← hd]
    cases hturn : s.cap.lastWasPhase2 with
    | true => rfl
    | false => rfl

end

end Sys2Proof.Machine
end

section
/-! The words that the part writes in place, bit by bit, and where they stand (paras 2.1 and 10.2). -/

namespace Sys2Proof.Machine
open Sys2Proof

/-! ### Sums of fields -/

theorem word_toNat {n : Nat} (h : n < 65536) : (BitVec.ofNat 16 n).toNat = n := by
  rw [BitVec.toNat_ofNat]
  exact Nat.mod_eq_of_lt h

theorem bitOf_eq (b : Bool) (n : Nat) : bitOf b n = 2 ^ n * flagBit b := by
  cases b with
  | true => exact (Nat.mul_one _).symm
  | false => rfl

theorem flagBit_le (b : Bool) : flagBit b ≤ 1 := by cases b <;> decide

theorem reasons_bits (r : Reasons) : r.bits = reasonBits r := by
  unfold Reasons.bits reasonBits
  simp only [bitOf_eq]
  omega

theorem reasonBits_lt (r : Reasons) : reasonBits r < 64 := by
  have h0 := flagBit_le r.stage
  have h1 := flagBit_le r.warm
  have h2 := flagBit_le r.lwarn
  have h3 := flagBit_le r.llow
  have h4 := flagBit_le r.hot
  have h5 := flagBit_le r.tripDisabled
  unfold reasonBits
  omega

section
variable (s : State)

theorem resetCause_layout : ∃ w, s.tableWords .resetCause = [w] ∧
    w.toNat = flagBit s.ctl.causes.power + 2 * flagBit s.ctl.causes.external + 4 * flagBit s.ctl.causes.supply := by
  refine ⟨_, rfl, ?_⟩
  have h0 := flagBit_le s.ctl.causes.power
  have h1 := flagBit_le s.ctl.causes.external
  have h2 := flagBit_le s.ctl.causes.supply
  simp only [bitOf_eq]
  rw [word_toNat (by omega)]
  omega

theorem resultNumbers_code {c : ResultCode} {n : Nat} (h : (c, n) ∈ resultNumbers) : c.code = n ∧ n ≤ 33 := by
  have hall : ∀ x ∈ resultNumbers, x.1.code = x.2 ∧ x.2 ≤ 33 := by decide
  exact hall _ h

theorem commandStatus_layout (hd : s.ctl.command.detail < 1024) :
    ∃ a b, s.tableWords .commandStatus = [a, b] ∧
      (s.ctl.command.result = none → a.toNat = s.ctl.command.detail) ∧
      (∀ c n, s.ctl.command.result = some c → (c, n) ∈ resultNumbers → a.toNat = 1024 * n + s.ctl.command.detail) ∧
      b.toNat = s.ctl.command.seq.toNat + 16384 * s.ctl.command.state.code := by
  refine ⟨_, _, rfl, fun hr => ?_, fun c n hr hn => ?_, ?_⟩
  · simp only [hr]
    rw [word_toNat (by omega)]
    omega
  · obtain ⟨hcode, hle⟩ := resultNumbers_code hn
    simp only [hr, hcode]
    rw [word_toNat (by omega)]
  · have hseq := s.ctl.command.seq.isLt
    have hstate : s.ctl.command.state.code ≤ 3 := by cases s.ctl.command.state <;> decide
    rw [word_toNat (by omega)]
    omega

theorem refusal_layout : ∃ w, s.tableWords .refusal = [w] ∧
    w.toNat = 16384 * flagBit s.ctl.refusal.busy + s.ctl.refusal.seq.toNat := by
  refine ⟨_, rfl, ?_⟩
  have h0 := flagBit_le s.ctl.refusal.busy
  have h1 := s.ctl.refusal.seq.isLt
  rw [bitOf_eq, word_toNat (by omega)]
  omega

theorem driveState_layout : ∃ w, s.tableWords .driveState = [w] ∧
    w.toNat = flagBit s.drive.hotLatch + 2 * flagBit s.drive.warm.taken + 4 * flagBit s.drive.lwarn.taken +
      8 * flagBit s.drive.llow.taken +
      (([0, 1, 2, 3, 4, 5, 6, 7] : List (Fin 8)).map (fun k => 2 ^ (8 + k.val) * flagBit s.links[k].driveEnable)).sum := by
  refine ⟨_, rfl, ?_⟩
  have hall : all8 = [0, 1, 2, 3, 4, 5, 6, 7] := by decide
  have h0 := flagBit_le s.drive.hotLatch
  have h1 := flagBit_le s.drive.warm.taken
  have h2 := flagBit_le s.drive.lwarn.taken
  have h3 := flagBit_le s.drive.llow.taken
  have hk : ∀ k : Fin 8, flagBit s.links[k].driveEnable ≤ 1 := fun k => flagBit_le _
  have hsum : (([0, 1, 2, 3, 4, 5, 6, 7] : List (Fin 8)).map
      (fun k => 2 ^ (8 + k.val) * flagBit s.links[k].driveEnable)).sum ≤ 65280 := by
    generalize hf : (fun k : Fin 8 => flagBit s.links[k].driveEnable) = f
    have hk' : ∀ k, f k ≤ 1 := fun k => hf ▸ hk k
    have hf' : (fun k : Fin 8 => 2 ^ (8 + k.val) * flagBit s.links[k].driveEnable) = fun k => 2 ^ (8 + k.val) * f k := by
      rw [← hf]
    have := hk' 0
    have := hk' 1
    have := hk' 2
    have := hk' 3
    have := hk' 4
    have := hk' 5
    have := hk' 6
    have := hk' 7
    rw [hf']
    simp only [List.map_cons, List.map_nil, List.sum_cons, List.sum_nil]
    norm_num
    omega
  unfold State.driveStateWord
  rw [hall]
  simp only [bitOf_eq]
  rw [word_toNat (by omega)]
  omega

theorem limitReasons_layout : ∃ w, s.tableWords .limitReasons = [w] ∧
    w.toNat = reasonBits s.limitStatus + 256 * reasonBits s.drive.log := by
  refine ⟨_, rfl, ?_⟩
  have h0 := reasonBits_lt s.limitStatus
  have h1 := reasonBits_lt s.drive.log
  rw [reasons_bits, reasons_bits, word_toNat (by omega)]

theorem tickerState_layout (hq : s.tape.queue.length ≤ 128) :
    ∃ a b, s.tableWords .tickerState = [a, b] ∧
      a.toNat = 256 * s.tape.queue.length + 4 * flagBit s.tape.hold + s.tape.mode.code ∧
      b.toNat = min (s.tape.lateness.toNat / 1000) 65535 := by
  refine ⟨_, _, rfl, ?_, word_toNat (Nat.lt_succ_of_le (Nat.min_le_right _ _))⟩
  have h0 := flagBit_le s.tape.hold
  have h1 : s.tape.mode.code ≤ 2 := by cases s.tape.mode <;> decide
  rw [bitOf_eq, word_toNat (by omega)]
  omega

theorem faultStatus_layout : ∃ w, s.tableWords .faultStatus = [w] ∧
    w.toNat =
      s.ctl.log.writeIndex.toNat + 256 * s.ctl.log.readIndex.toNat + 32768 * flagBit s.ctl.log.overflowMark := by
  refine ⟨_, rfl, ?_⟩
  have h0 := flagBit_le s.ctl.log.overflowMark
  have h1 := s.ctl.log.writeIndex.isLt
  have h2 := s.ctl.log.readIndex.isLt
  simp only [bitOf_eq]
  rw [word_toNat (by omega)]
  omega

theorem inboxStatus_layout : ∃ w, s.tableWords .inboxStatus = [w] ∧
    w.toNat = s.ctl.inbox.writeIndex.toNat + 256 * s.ctl.inbox.readIndex.toNat := by
  refine ⟨_, rfl, word_toNat ?_⟩
  have h1 := s.ctl.inbox.writeIndex.isLt
  have h2 := s.ctl.inbox.readIndex.isLt
  omega

/-- The logical module number that a module word carries: the target of the module whose home the position is, and FFH
where it is none's (R121). -/
def Link.targetCode (l : Link) (k : Fin 8) (p : Fin 16) : Nat :=
  match l.positions[p].kind, l.modules[p].target with
  | .home, some t => 16 * k.val + t.val
  | _, _ => 0xFF

theorem moduleWord_layout (k : Fin 8) (p : Fin 16) (ht : s.links[k].positions[p].trips ≤ 3) :
    ∃ w, s.tableWords (.moduleWord k p) = [w] ∧ w.toNat % 4 = s.links[k].positions[p].kind.code ∧
      w.toNat / 4 % 8 =
        (if s.links[k].positions[p].kind = .notFitted then 0 else s.links[k].positions[p].state.code) ∧
      w.toNat / 32 % 8 = s.links[k].positions[p].trips ∧ w.toNat / 256 = s.links[k].targetCode k p := by
  have hkind : s.links[k].positions[p].kind.code ≤ 2 := by cases s.links[k].positions[p].kind <;> decide
  have hstate : (if s.links[k].positions[p].kind = .notFitted then 0 else s.links[k].positions[p].state.code) ≤ 5 := by
    split
    · exact Nat.zero_le 5
    · cases s.links[k].positions[p].state <;> decide
  have htarget : s.links[k].targetCode k p ≤ 255 := by
    unfold Link.targetCode
    split
    · omega
    · exact le_rfl
  have hword : s.tableWords (.moduleWord k p) =
      [BitVec.ofNat 16 (s.links[k].positions[p].kind.code +
        4 * (if s.links[k].positions[p].kind = .notFitted then 0 else s.links[k].positions[p].state.code) +
        32 * s.links[k].positions[p].trips + 256 * s.links[k].targetCode k p)] := rfl
  refine ⟨_, hword, ?_⟩
  generalize (if s.links[k].positions[p].kind = .notFitted then 0 else s.links[k].positions[p].state.code) = b at hstate ⊢
  rw [word_toNat (by omega)]
  omega

theorem lineWord_layout (n : Fin 16) (hc : s.lines[n].cls ≤ 3) (hw : s.lines[n].watch.length ≤ 24) :
    ∃ w, s.tableWords (.lineWord n) = [w] ∧
      w.toNat = 256 * s.lines[n].watch.length + 32 * s.lines[n].cls + 4 * s.lines[n].rate.code +
        s.lines[n].state.code := by
  refine ⟨_, rfl, ?_⟩
  have hrate : s.lines[n].rate.code ≤ 4 := by cases s.lines[n].rate <;> decide
  have hstate : s.lines[n].state.code ≤ 3 := by cases s.lines[n].state <;> decide
  unfold Line.tableWord
  rw [word_toNat (by omega)]
  omega

theorem tableLayout : TableLayout s := by
  constructor
  case resetCause => exact resetCause_layout s
  case partState =>
    refine ⟨_, rfl, ?_⟩
    cases s.ctl.partState <;> rfl
  case commandStatus =>
    intro hd
    have h := commandStatus_layout s hd
    cases hs : s.ctl.command.state <;> rw [hs] at h <;> exact h
  case refusal => exact refusal_layout s
  case driveState => exact driveState_layout s
  case limitReasons => exact limitReasons_layout s
  case governorStage => exact fun hg => ⟨_, rfl, word_toNat (by omega)⟩
  case tickerState =>
    intro hq
    have h := tickerState_layout s hq
    cases hm : s.tape.mode <;> rw [hm] at h <;> exact h
  case faultStatus => exact faultStatus_layout s
  case inboxStatus => exact inboxStatus_layout s
  case moduleWord =>
    intro k p ht
    obtain ⟨w, hw, hkind, hstate, htrips, htarget⟩ := moduleWord_layout s k p ht
    refine ⟨w, hw, ?_, ?_, htrips, fun t hk hm => ?_, fun hk hm => ?_, fun hk => ?_⟩
    · rw [hkind]
      cases s.links[k].positions[p].kind <;> rfl
    · rw [hstate]
      cases s.links[k].positions[p].state <;> rfl
    all_goals rw [htarget, Link.targetCode]
    · simp only [hk, hm]
    · simp only [hk, hm]
    · cases hp : s.links[k].positions[p].kind with
      | home => exact absurd hp hk
      | notFitted => rfl
      | spare => rfl
  case lineWord =>
    intro n hc hw
    obtain ⟨w, hw, hsum⟩ := lineWord_layout s n hc hw
    refine ⟨w, hw, hsum.trans ?_⟩
    cases s.lines[n].rate <;> cases s.lines[n].state <;> rfl

end

theorem offsetsGiven : OffsetsGiven :=
  ⟨rfl, rfl, rfl, rfl, rfl, rfl, rfl, rfl, rfl, rfl, fun _ _ => Nat.add_assoc _ _ _, fun _ => rfl⟩

theorem entryPlaces : EntryPlaces := ⟨fun _ _ => ⟨rfl, rfl⟩, fun _ _ => ⟨rfl, rfl⟩, fun _ _ _ _ => ⟨rfl, rfl⟩⟩

end Sys2Proof.Machine
end

section
/-! What the operations of the model post (R28): each covers the words that it changes. -/

namespace Sys2Proof.Machine
open Sys2Proof

section
variable {x y : TableWord → Prop} {s t u v : State}

/-! ### Changes, and posts behind them -/

/-- The words look at the Control Unit, the day number, the Drive Protection Unit, the links, the tape and the lines. -/
theorem tableWords_congr (hctl : t.ctl = s.ctl) (hday : t.tbl.dayNumber = s.tbl.dayNumber) (hdrive : t.drive = s.drive)
    (hlinks : t.links = s.links) (htape : t.tape = s.tape) (hlines : t.lines = s.lines) :
    t.tableWords = s.tableWords := by
  have hany : t.anyTripDisabled = s.anyTripDisabled := by rw [State.anyTripDisabled, State.anyTripDisabled, hlinks]
  funext w
  cases w <;>
    simp only [State.tableWords, State.driveStateWord, State.limitStatus, hctl, hday, hdrive, hlinks, htape, hlines, hany]

theorem covers_of_fields (hctl : t.ctl = s.ctl) (hday : t.tbl.dayNumber = s.tbl.dayNumber) (hdrive : t.drive = s.drive)
    (hlinks : t.links = s.links) (htape : t.tape = s.tape) (hlines : t.lines = s.lines) : Covers x s t :=
  covers_of_same (by rw [hctl]) (tableWords_congr hctl hday hdrive hlinks htape hlines)

/-- A word that was still to come is posted. -/
theorem Covers.post (h : Covers x s u) {w : TableWord} (hx : ∀ v, x v → v = w ∨ y v) (hy : ∀ v, y v → x v ∧ v ≠ w) :
    Covers y s (Machine.post w u) := by
  refine ⟨fun v hv ws hq => ?_, fun v hv hc => ?_⟩
  · obtain ⟨hxv, hne⟩ := hy v hv
    exact queued_post (h.pending v hxv ws hq) fun ws' he => hne (WbEntry.table.inj he).1
  · rw [(post_onlyPosts w u).tableWords v] at hc
    by_cases hxv : x v
    · obtain rfl := (hx v hxv).resolve_right hv
      exact post_posted v u
    · exact posted_anyPost (h.posted v hxv hc) w

/-- Several words that were still to come are posted. -/
theorem Covers.postAll (h : Covers x s u) {ts : List TableWord} (hx : ∀ v, x v → v ∈ ts ∨ y v)
    (hy : ∀ v, y v → x v ∧ v ∉ ts) : Covers y s (Machine.postAll ts u) := by
  have hkept {v : TableWord} {ws : List Word} (hv : v ∉ ts) (hq : u.Queued (.table v ws)) :
      (Machine.postAll ts u).Queued (.table v ws) := by
    clear h hx hy
    unfold Machine.postAll
    induction ts generalizing u with
    | nil => exact hq
    | cons w ts ih =>
      have hne : w ≠ v := fun h => hv (h ▸ List.mem_cons_self)
      exact ih (fun h => hv (List.mem_cons_of_mem w h))
        (queued_post hq fun ws' he => hne (WbEntry.table.inj he).1.symm)
  refine ⟨fun v hv ws hq => hkept (hy v hv).2 (h.pending v (hy v hv).1 ws hq), fun v hv hc => ?_⟩
  rw [(postAll_onlyPosts ts u).tableWords v] at hc
  by_cases hxv : x v
  · exact postAll_posted ((hx v hxv).resolve_right hv) u
  · exact posted_postAll (h.posted v hxv hc) ts

/-- One word is changed and posted. -/
theorem covers_post {w : TableWord} (hx : ¬ x w) (hwb : u.ctl.writeBack = s.ctl.writeBack)
    (hw : ∀ v, v ≠ w → u.tableWords v = s.tableWords v) : Covers x s (post w u) := by
  have hset : Covers (fun v => x v ∨ v = w) s u := covers_of_changed hwb fun v hv => hw v fun h => hv (.inr h)
  exact hset.post (fun v hv => hv.symm) fun v hv => ⟨.inl hv, fun h => hx (h ▸ hv)⟩

/-- Some words are changed and posted where they differ. -/
theorem covers_postChanged {ts : List TableWord} (hx : ∀ w ∈ ts, ¬ x w) (hwb : u.ctl.writeBack = s.ctl.writeBack)
    (hw : ∀ v, ¬ x v → v ∉ ts → u.tableWords v = s.tableWords v) : Covers x s (postChanged s ts u) := by
  have hset : Covers (fun v => x v ∨ v ∈ ts) s u :=
    covers_of_changed hwb fun v hv => hw v (fun h => hv (.inl h)) fun h => hv (.inr h)
  exact hset.postChanged (fun v hv => hv.symm) fun v hv => ⟨.inl hv, fun h => hx v h hv⟩

/-! ### The Control Unit -/

theorem setCommandCause_covers (b : Bool) (s : State) : Covers x s (setCommandCause b s) :=
  covers_of_same rfl (funext fun w => by cases w <;> rfl)

theorem popHanded_covers (s : State) : Covers x s (popHanded s) := covers_of_fields rfl rfl rfl rfl rfl rfl

theorem setInstrument_covers (i : Nat) (r : Instrument) (s : State) : Covers x s (setInstrument i r s) :=
  covers_of_fields rfl rfl rfl rfl rfl rfl

theorem setCap_covers (c : CaptureUnit) (s : State) : Covers x s (setCap c s) := covers_of_fields rfl rfl rfl rfl rfl rfl

theorem placePart_covers (src : PartSource) (a : Nat) (w : Option Word) (s : State) : Covers x s (placePart src a w s) :=
  covers_of_fields rfl rfl rfl rfl rfl rfl

theorem endCommand_covers (hx : ¬ x .commandStatus) (code : Option ResultCode) (d : Nat) (s : State) :
    Covers x s (endCommand code d s) := by
  unfold endCommand
  refine Covers.trans ?_ (setCommandCause_covers true _)
  refine covers_post hx rfl fun v hv => ?_
  cases v with
  | commandStatus => exact absurd rfl hv
  | _ => rfl

theorem takeCommand_covers (w : Word) (s : State) : Covers noWord s (takeCommand w s) := by
  refine covers_post (fun h => h) rfl fun v hv => ?_
  cases v with
  | commandStatus => exact absurd rfl hv
  | _ => rfl

theorem refuseBusy_covers (w : Word) (s : State) : Covers noWord s (refuseBusy w s) := by
  refine covers_post (fun h => h) rfl fun v hv => ?_
  cases v with
  | refusal => exact absurd rfl hv
  | _ => rfl

theorem setPartState_covers (p : PartState) (s : State) : Covers noWord s (setPartState p s) := by
  refine covers_post (fun h => h) rfl fun v hv => ?_
  cases v with
  | partState => exact absurd rfl hv
  | _ => rfl

theorem setLog_covers {g : FaultLog} (hw : g.writeIndex = s.ctl.log.writeIndex) (hr : g.readIndex = s.ctl.log.readIndex)
    (hm : g.overflowMark = s.ctl.log.overflowMark) : Covers x s (setLog g s) := by
  refine covers_of_same rfl (funext fun w => ?_)
  cases w with
  | faultStatus => simp only [State.tableWords, setLog, hw, hr, hm]
  | _ => rfl

theorem postFault_covers (hx : ¬ x .faultStatus) (k : FaultKind) (subj : Subject) (d : List Nat) (s : State) :
    Covers x s (postFault k subj d s) := by
  unfold postFault
  split
  · exact .refl x s
  dsimp only
  split
  · split
    · rename_i hmark
      exact setLog_covers rfl rfl hmark.symm
    · refine covers_post hx rfl fun v hv => ?_
      cases v with
      | faultStatus => exact absurd rfl hv
      | _ => rfl
  · refine Covers.trans ?_ (postRecord_covers _)
    exact setLog_covers rfl rfl rfl

/-- A command is refused, or carried out by a rule that covers what it changes (R24, R25). -/
theorem onCommand_covers {owning : State → State} (ho : ∀ u, Covers noWord u (owning u)) (codes : Nat → Bool)
    (s : State) : Covers noWord s (onCommand codes owning s) := by
  unfold onCommand
  split
  · split
    · rename_i w _ _ _
      have hend (code : Option ResultCode) (d : Nat) (u : State) : Covers noWord u (endCommand code d u) :=
        endCommand_covers (fun h => h) code d u
      refine ((popHanded_covers s).trans (setCommandCause_covers false _)).trans ?_
      unfold arrive
      dsimp only
      split
      · exact refuseBusy_covers w _
      · refine (takeCommand_covers w _).trans ?_
        unfold examine
        split
        · exact hend _ _ _
        · split
          · exact hend _ _ _
          · exact ho _
    · exact .refl _ s
  · exact .refl _ s

end

end Sys2Proof.Machine
end

section
/-! What the events of the floor post (R28, R121, R128, R136, R141). -/

namespace Sys2Proof.Machine
open Sys2Proof

section
variable {x y : TableWord → Prop} {s t u v : State} {k : Fin 8}

/-- From `s` to `t` each word but those of `x` that has changed, or whose present value waited, waits with its present
value. -/
def Keeps (x : TableWord → Prop) (s t : State) : Prop :=
  ∀ w, ¬ x w → t.tableWords w ≠ s.tableWords w ∨ s.Posted w → t.Posted w

/-- Each word but those of `x` that has changed from `s` to `t` waits with its present value: of no word, what R28 asks
of an event. -/
def Posts (x : TableWord → Prop) (s t : State) : Prop :=
  ∀ w, ¬ x w → t.tableWords w ≠ s.tableWords w → t.Posted w

theorem Covers.keeps (h : Covers x s t) : Keeps x s t := h.posted

theorem Keeps.posts (h : Keeps x s t) : Posts x s t := fun w hx hw => h w hx (.inl hw)

theorem Keeps.refl (x : TableWord → Prop) (s : State) : Keeps x s s := fun _ _ h => h.resolve_left fun h => h rfl

theorem Keeps.trans (h1 : Keeps x s u) (h2 : Keeps x u t) : Keeps x s t := fun w hw h => by
  by_cases hut : t.tableWords w = u.tableWords w
  · exact h2 w hw (.inr (h1 w hw (by rwa [← hut])))
  · exact h2 w hw (.inl hut)

theorem Keeps.mono (h : Keeps x s t) (hx : ∀ w, x w → y w) : Keeps y s t := fun w hw => h w (mt (hx w) hw)

theorem Posts.keeps (h : Posts x s u) (hk : Keeps x u t) : Posts x s t := fun w hx hw => by
  by_cases hut : t.tableWords w = u.tableWords w
  · exact hk w hx (.inr (h w hx (by rwa [← hut])))
  · exact hk w hx (.inl hut)

theorem Posts.mono (h : Posts x s t) (hx : ∀ w, x w → y w) : Posts y s t := fun w hw => h w (mt (hx w) hw)

theorem keeps_postChanged (old : State) (ts : List TableWord) (s : State) : Keeps x s (postChanged old ts s) :=
  fun w _ h => posted_postChanged (h.resolve_left fun h => h ((postChanged_onlyPosts old ts s).tableWords w)) ts

/-! ### The words of the drive -/

/-- The words of the Drive Protection Unit (R136, R138, R141). -/
def driveWord (w : TableWord) : Prop := w ∈ [TableWord.driveState, .limitReasons, .governorStage]

/-- The words that an event of link `k` may change: its module words, and those of the drive. -/
def floorWord (k : Fin 8) (w : TableWord) : Prop := w ∈ linkTable k ∨ driveWord w

theorem drive_words : driveWord .driveState ∧ driveWord .limitReasons ∧ driveWord .governorStage := by
  unfold driveWord
  decide

theorem mem_linkTable (k : Fin 8) (p : Fin 16) : .moduleWord k p ∈ linkTable k :=
  List.mem_map.mpr ⟨p, mem_all16 p, rfl⟩

theorem not_driveWord_status : ¬ driveWord .commandStatus ∧ ¬ driveWord .faultStatus := by
  unfold driveWord
  decide

theorem not_floorWord (k : Fin 8) : ¬ floorWord k .commandStatus ∧ ¬ floorWord k .faultStatus := by
  have hno {w : TableWord} (h : w ∈ linkTable k) : ∃ p, w = .moduleWord k p := by
    obtain ⟨p, -, rfl⟩ := List.mem_map.mp h
    exact ⟨p, rfl⟩
  refine ⟨fun h => ?_, fun h => ?_⟩
  · rcases h with h | h
    · obtain ⟨p, hp⟩ := hno h
      cases hp
    · exact not_driveWord_status.1 h
  · rcases h with h | h
    · obtain ⟨p, hp⟩ := hno h
      cases hp
    · exact not_driveWord_status.2 h

theorem setDrive_covers (hx : ∀ w, driveWord w → x w) (d : DriveUnit) (s : State) : Covers x s (setDrive d s) := by
  refine covers_of_changed rfl fun w hw => ?_
  cases w with
  | driveState | limitReasons | governorStage => exact absurd (hx _ (by unfold driveWord; decide)) hw
  | _ => rfl

/-- A change of the Drive Protection Unit that no word shows. -/
theorem setDrive_same {d : DriveUnit} (hlatch : d.hotLatch = s.drive.hotLatch) (hwarm : d.warm.taken = s.drive.warm.taken)
    (hlwarn : d.lwarn.taken = s.drive.lwarn.taken) (hllow : d.llow.taken = s.drive.llow.taken)
    (hstage : d.governor.stage = s.drive.governor.stage) (hlog : d.log = s.drive.log) : Covers x s (setDrive d s) := by
  refine covers_of_same rfl (funext fun w => ?_)
  cases w with
  | driveState | limitReasons | governorStage =>
    simp only [State.tableWords, State.driveStateWord, State.limitStatus, State.anyTripDisabled, setDrive, hlatch, hwarm,
      hlwarn, hllow, hstage, hlog]
  | _ => rfl

theorem setLink_covers (hx : ∀ w, floorWord k w → x w) (l : Link) (s : State) : Covers x s (setLink k l s) := by
  refine covers_of_changed rfl fun w hw => ?_
  cases w with
  | driveState | limitReasons | governorStage =>
    exact absurd (hx _ (.inr (by unfold driveWord; decide))) hw
  | moduleWord j p =>
    have hj : k ≠ j := fun h => hw (hx _ (.inl (h ▸ mem_linkTable k p)))
    have hlink := setLink_getElem k l s j
    rw [if_neg hj] at hlink
    simp only [State.tableWords, hlink]
  | _ => rfl

/-- With the outputs of a still ribbon and the log, the limit reasons word may change, and no other. -/
theorem logReasons_covers (hl : x .limitReasons) (s : State) : Covers x s (presentStill (logReasons s)) := by
  rw [presentStill_tape]
  refine covers_of_changed rfl fun w hw => ?_
  cases w with
  | limitReasons => exact absurd hl hw
  | _ => rfl

/-- The words of the drive that are still to come are posted where they have changed; the limit reasons word is one of
them. -/
theorem driveSettle_covers_of (hx : ∀ w, x w → driveWord w) (hl : x .limitReasons) (h : Covers x s v) :
    Covers noWord s (driveSettle s v) := by
  exact Covers.postChanged (h.trans (logReasons_covers hl v)) (fun w hw => .inl (hx w hw)) fun w hw => hw.elim

theorem driveSettle_covers (h : Covers driveWord s v) : Covers noWord s (driveSettle s v) :=
  driveSettle_covers_of (fun _ h => h) drive_words.2.1 h

theorem driveSettle_posts (h : Posts driveWord s v) : Posts noWord s (driveSettle s v) := by
  intro w _ hw
  have hkeep : Keeps driveWord v (presentStill (logReasons v)) :=
    Covers.keeps (logReasons_covers drive_words.2.1 v)
  rw [(driveSettle_onlyPosts s v).tableWords w] at hw
  by_cases hd : driveWord w
  · exact postChanged_posted hd hw
  · exact posted_postChanged (h.keeps hkeep w hd hw) _

theorem floorSettle_covers (h : Covers driveWord s v) : Covers noWord s (floorSettle s v) :=
  (driveSettle_covers h).trans (chooseAll_covers _)

/-- The words of a link are posted where they have changed. -/
theorem linkTable_covers (h : Covers (floorWord k) s v) : Covers driveWord s (postChanged s (linkTable k) v) := by
  refine h.postChanged (fun w hw => hw) fun w hw => ⟨.inr hw, fun hm => ?_⟩
  obtain ⟨p, -, rfl⟩ := List.mem_map.mp hm
  simp [driveWord] at hw

theorem boardSettle_covers (h : Covers (floorWord k) s v) : Covers noWord s (boardSettle s k v) :=
  (driveSettle_covers (linkTable_covers h)).trans (chooseAll_covers _)

theorem boardSettle_posts (h : Posts (floorWord k) s v) : Posts noWord s (boardSettle s k v) := by
  have hlink : Posts driveWord s (postChanged s (linkTable k) v) := by
    intro w hw hc
    rw [(postChanged_onlyPosts s (linkTable k) v).tableWords w] at hc
    by_cases hl : w ∈ linkTable k
    · exact postChanged_posted hl hc
    · exact posted_postChanged (h w (fun hf => hf.elim hl hw) hc) _
  exact (driveSettle_posts hlink).keeps (chooseAll_covers _).keeps

/-! ### Replies and trips (R112 to R116, R127, R128) -/

theorem setLink_keeps (k : Fin 8) (l : Link) (s : State) : Keeps (floorWord k) s (setLink k l s) :=
  (setLink_covers (fun _ h => h) l s).keeps

theorem Keeps.setLink (h : Keeps (floorWord k) s u) (l : Link) : Keeps (floorWord k) s (setLink k l u) :=
  h.trans (setLink_keeps k l u)

theorem Keeps.fault (h : Keeps (floorWord k) s u) (kind : FaultKind) (subj : Subject) (d : List Nat) :
    Keeps (floorWord k) s (postFault kind subj d u) :=
  h.trans (postFault_covers (not_floorWord k).2 kind subj d u).keeps

theorem autoRemap_keeps (k : Fin 8) (p : Fin 16) (s : State) : Keeps (floorWord k) s (autoRemap k p s) := by
  fun_cases autoRemap k p s with
  | case1 => exact .refl _ s
  | case2 => exact setLink_keeps k _ s
  | case3 => exact (setLink_keeps k _ s).fault _ _ _

theorem enterAbsent_keeps (k : Fin 8) (p : Fin 16) (s : State) : Keeps (floorWord k) s (enterAbsent k p s) := by
  unfold enterAbsent
  dsimp only
  exact ((setLink_keeps k _ s).fault _ _ _).trans (autoRemap_keeps k p _)

theorem missedReply_keeps (k : Fin 8) (f : LinkFrame) (s : State) : Keeps (floorWord k) s (missedReply k f s) := by
  have habsent (l : Link) : Keeps (floorWord k) s (enterAbsent k f.pos (setLink k l s)) :=
    (setLink_keeps k l s).trans (enterAbsent_keeps k f.pos _)
  rw [missedReply_eq]
  dsimp only
  split
  · split
    · exact habsent _
    · exact setLink_keeps k _ s
  · exact setLink_keeps k _ s

theorem disableAll_moduleWord (l : Link) (k : Fin 8) (p : Fin 16) : l.disableAll.moduleWord k p = l.moduleWord k p := by
  have hpos := disableAll_position l p
  have hmodules : l.disableAll.modules = l.modules := rfl
  unfold Link.moduleWord
  rw [hpos, hmodules]

theorem disableByPolicy_keeps (k : Fin 8) (p : Fin 16) (s : State) : Keeps (floorWord k) s (disableByPolicy k p s) := by
  fun_cases disableByPolicy k p s with
  | case1 => exact setLink_keeps k _ s
  | case2 => exact setLink_keeps k _ s
  | case3 =>
    refine Covers.keeps (covers_of_changed rfl fun w hw => ?_)
    cases w with
    | driveState => exact absurd (.inr drive_words.1) hw
    | limitReasons => exact absurd (.inr drive_words.2.1) hw
    | governorStage => exact absurd (.inr drive_words.2.2) hw
    | moduleWord j q =>
      simp only [State.tableWords, Fin.getElem_fin, Vector.getElem_ofFn]
      exact congrArg (fun w => [w]) (disableAll_moduleWord _ j q)
    | _ => rfl

theorem takeTrip_keeps (k : Fin 8) (p : Fin 16) (left : ModuleState) (s : State) :
    Keeps (floorWord k) s (takeTrip k p left s) := by
  have hfirst (kind : FaultKind) (subj : Subject) (d : List Nat) (l : Link) (ts : List TableWord) :
      Keeps (floorWord k) s (disableByPolicy k p (postFault kind subj d (postChanged s ts (setLink k l s)))) :=
    (((setLink_keeps k l s).trans (keeps_postChanged s ts _)).fault kind subj d).trans (disableByPolicy_keeps k p _)
  unfold takeTrip
  dsimp only
  split
  · exact ((hfirst _ _ _ _ _).setLink _).trans (autoRemap_keeps k p _)
  · exact (hfirst _ _ _ _ _).setLink _

theorem goodReply_keeps (k : Fin 8) (f : LinkFrame) (trip : Bool) (s : State) :
    Keeps (floorWord k) s (goodReply k f trip s) := by
  cases trip with
  | false =>
    rw [goodReply_ok]
    exact setLink_keeps k _ s
  | true =>
    generalize hq : { s.links[k].positions[f.pos] with missed := 0 }.acknowledge f = q
    by_cases hold : q.state = .tripped ∨ q.state = .failed
    · rw [goodReply_old hq.symm hold]
      exact setLink_keeps k _ s
    · rw [goodReply_trip hq.symm (fun h => hold (.inl h)) fun h => hold (.inr h)]
      exact (setLink_keeps k _ s).trans (takeTrip_keeps k f.pos _ _)

/-- A reply, or its absence, posts what it changes (R112 to R116). -/
theorem reply_posts (k : Fin 8) (f : LinkFrame) (good trip : Bool) (s : State) :
    Posts noWord s
      (boardSettle s k (if good then goodReply k f trip (quietLink k s) else missedReply k f (quietLink k s))) := by
  refine boardSettle_posts (Keeps.posts ?_)
  have hquiet : Keeps (floorWord k) s (quietLink k s) := setLink_keeps k _ s
  split
  · exact hquiet.trans (goodReply_keeps k f trip _)
  · exact hquiet.trans (missedReply_keeps k f _)

/-! ### REMAP, RESTORE and REARM (R117 to R119, R129 to R131) -/

theorem moveByCommand_covers (k : Fin 8) (m p : Fin 16) (s : State) : Covers noWord s (moveByCommand k m p s) :=
  boardSettle_covers ((setLink_covers (fun _ h => h) _ s).trans (endCommand_covers (not_floorWord k).1 none 0 _))

theorem endRefused_covers (code : ResultCode) (d : Nat) (s : State) : Covers noWord s (endRefused code d s) :=
  endCommand_covers id (some code) d s

theorem endDone_covers (s : State) : Covers noWord s (endDone s) := endCommand_covers id none 0 s

theorem remapTaken_covers (s : State) : Covers noWord s (remapTaken s) := by
  fun_cases remapTaken s with
  | case1 => exact moveByCommand_covers _ _ _ s
  | case2 => exact endRefused_covers _ _ s
  | case3 => exact endRefused_covers _ _ s

theorem restoreTaken_covers (s : State) : Covers noWord s (restoreTaken s) := by
  fun_cases restoreTaken s with
  | case1 => exact endRefused_covers _ _ s
  | case2 => exact endDone_covers s
  | case3 => exact moveByCommand_covers _ _ _ s
  | case4 => exact endRefused_covers _ _ s

theorem rearmLinks_covers (ks : List (Fin 8)) (s : State) : Covers driveWord s (rearmLinks ks s) := by
  unfold rearmLinks
  induction ks generalizing s with
  | nil => exact .refl _ s
  | cons k ks ih =>
    rw [List.foldl_cons]
    refine Covers.trans ?_ (ih _)
    have hset : Covers (floorWord k) s (setLink k s.links[k].rearm s) := setLink_covers (fun _ h => h) _ s
    exact linkTable_covers hset

theorem rearmDone_covers (ks : List (Fin 8)) (s : State) : Covers noWord s (rearmDone ks s) :=
  floorSettle_covers ((rearmLinks_covers ks s).trans (endCommand_covers not_driveWord_status.1 none 0 _))

theorem rearmTaken_covers (s : State) : Covers noWord s (rearmTaken s) := by
  fun_cases rearmTaken s with
  | case1 => exact endRefused_covers _ _ s
  | case2 => exact rearmDone_covers _ s
  | case3 => exact endRefused_covers _ _ s
  | case4 => exact setDrive_same rfl rfl rfl rfl rfl rfl

theorem hotCheckPassed_covers (h : HotCheck) (s : State) : Covers noWord s (hotCheckPassed h s) :=
  floorSettle_covers
    (((setDrive_covers (fun _ h => h) _ s).trans (rearmLinks_covers h.links _)).trans
      (endCommand_covers not_driveWord_status.1 none 0 _))

/-! ### The comparator inputs, the governor and the lamp test (R132 to R143) -/

/-- A filter whose taken level stands is shown by no word. -/
theorem setFilter_covers (c : Comparator) {f : Filter} (hf : f.taken = (s.drive.filter c).taken) :
    Covers x s (setDrive (s.drive.setFilter c f) s) := by
  cases c with
  | warm => exact setDrive_same rfl hf rfl rfl rfl rfl
  | hot => exact setDrive_same rfl rfl rfl rfl rfl rfl
  | lwarn => exact setDrive_same rfl rfl hf rfl rfl rfl
  | llow => exact setDrive_same rfl rfl rfl hf rfl rfl

theorem failHotCheck_covers (c : Comparator) (level : Bool) (s : State) : Covers noWord s (failHotCheck c level s) := by
  fun_cases failHotCheck c level s with
  | case2 =>
    refine Covers.trans ?_ (endRefused_covers _ _ _)
    exact setDrive_same rfl rfl rfl rfl rfl rfl
  | _ => exact .refl _ s

theorem changeInput_covers (c : Comparator) (level : Bool) (s : State) : Covers noWord s (changeInput c level s) := by
  refine Covers.trans ?_ (failHotCheck_covers c level _)
  exact setFilter_covers c rfl

theorem cutLampTest_covers (s : State) : Covers driveWord s (cutLampTest s) := by
  fun_cases cutLampTest s with
  | case1 => exact .refl _ s
  | case2 =>
    refine Covers.trans ?_ (endCommand_covers not_driveWord_status.1 _ _ _)
    exact setDrive_same rfl rfl rfl rfl rfl rfl

theorem takeFilter_covers (c : Comparator) (s : State) : Covers driveWord s (takeFilter c s) := by
  have hset (d : DriveUnit) (u : State) : Covers driveWord u (setDrive d u) := setDrive_covers (fun _ h => h) d u
  have hcut (k : FaultKind) (d : List Nat) (u : State) : Covers driveWord u (cutLampTest (postFault k .none d u)) :=
    (postFault_covers not_driveWord_status.2 k .none d u).trans (cutLampTest_covers _)
  unfold takeFilter
  dsimp only
  split
  · cases c with
    | warm => exact hset _ s
    | lwarn => exact hset _ s
    | hot => exact (hset _ s).trans ((hset _ _).trans (hcut _ _ _))
    | llow => exact (hset _ s).trans (hcut _ _ _)
  · exact hset _ s

theorem takeSample_covers (s : State) : Covers noWord s (takeSample s) :=
  floorSettle_covers (setDrive_covers (fun _ h => h) _ s)

theorem testNext_covers (ks : List (Fin 8)) (s : State) : Covers noWord s (testNext ks s) := by
  cases ks with
  | nil =>
    refine Covers.trans ?_ ((endDone_covers _).trans (chooseAll_covers _))
    exact setDrive_same rfl rfl rfl rfl rfl rfl
  | cons k ks =>
    refine Covers.trans ?_ (chooseAll_covers _)
    exact setDrive_same rfl rfl rfl rfl rfl rfl

theorem lampTestTaken_covers (s : State) : Covers noWord s (lampTestTaken s) := by
  fun_cases lampTestTaken s with
  | case1 => exact endRefused_covers _ _ s
  | case2 => exact endRefused_covers _ _ s
  | case3 => exact testNext_covers _ s

theorem clearLogTaken_covers (s : State) : Covers noWord s (clearLogTaken s) := by
  refine Covers.trans ?_ (endDone_covers _)
  refine covers_post id rfl fun v hv => ?_
  cases v with
  | limitReasons => exact absurd rfl hv
  | _ => rfl

/-! ### The choices of the links (R108, R111) -/

theorem chooseFrame_covers (k : Fin 8) (s : State) : Covers x s (chooseFrame k s) := by
  have hrest : chooseFrame k s = { s with links := (chooseFrame k s).links } := by
    unfold chooseFrame
    dsimp only
    split
    · split <;> rfl
    · rfl
  exact covers_of_same (by rw [hrest]) ((chooseFrame_steady k s).tableWords hrest)

theorem frameGone_covers (k : Fin 8) (s : State) : Covers x s (frameGone k s) := by
  have hwire (w : Wire) : Covers x s (setWire k w s) :=
    covers_of_same rfl (Steady.tableWords (setLink_steady ⟨fun _ => ⟨rfl, rfl, rfl, rfl⟩, fun _ => rfl⟩) rfl)
  fun_cases frameGone k s with
  | case1 => exact hwire _
  | case2 => exact hwire _
  | case3 => exact (hwire _).trans (chooseFrame_covers k _)
  | case4 => exact .refl x s

theorem stopFlash_covers (k : Fin 8) (m : Fin 16) (s : State) : Covers x s (stopFlash k m s) :=
  covers_of_same rfl ((stopFlash_steady k m s).tableWords rfl)

end

end Sys2Proof.Machine
end

section
/-! What the rules of the ticker, of the lines and of the prices post (R28, R97, R145 to R182): a rule carried out from
a state that covers what it has changed leaves such a state. -/

namespace Sys2Proof.Machine
open Sys2Proof

section
variable {s u : State}

/-! ### The Control Unit -/

@[simp] theorem setInstrument_covered (i : Nat) (r : Instrument) (h : Covers noWord s u) :
    Covers noWord s (setInstrument i r u) := h.trans (setInstrument_covers i r u)

@[simp] theorem setCap_covered (c : CaptureUnit) (h : Covers noWord s u) : Covers noWord s (setCap c u) :=
  h.trans (setCap_covers c u)

@[simp] theorem postFault_covered (k : FaultKind) (subj : Subject) (d : List Nat) (h : Covers noWord s u) :
    Covers noWord s (postFault k subj d u) := h.trans (postFault_covers id k subj d u)

@[simp] theorem endRefused_covered (code : ResultCode) (d : Nat) (h : Covers noWord s u) :
    Covers noWord s (endRefused code d u) := h.trans (endRefused_covers code d u)

@[simp] theorem endDone_covered (h : Covers noWord s u) : Covers noWord s (endDone u) := h.trans (endDone_covers u)

@[simp] theorem setPartState_covered (p : PartState) (h : Covers noWord s u) : Covers noWord s (setPartState p u) :=
  h.trans (setPartState_covers p u)

@[simp] theorem chooseAll_covered (h : Covers noWord s u) : Covers noWord s (chooseAll u) := h.trans (chooseAll_covers u)

/-! ### The ticker -/

/-- A tape whose mode, hold, queue length and lateness stand is shown by no word. -/
theorem setTape_covers {x : TableWord → Prop} {t : TickerUnit} (hmode : t.mode = s.tape.mode) (hhold : t.hold = s.tape.hold)
    (hqueue : t.queue = s.tape.queue) (hlate : t.shownLateness = s.tape.shownLateness) : Covers x s (setTape t s) := by
  refine covers_of_same rfl (funext fun w => ?_)
  cases w with
  | tickerState => simp only [State.tableWords, setTape, hmode, hhold, hqueue, hlate]
  | _ => rfl

/-- Of the table words, a change of the tape may change the ticker state word alone. -/
theorem setTape_tableWords (t : TickerUnit) (s : State) {w : TableWord} (hw : w ≠ .tickerState) :
    (setTape t s).tableWords w = s.tableWords w := by
  cases w with
  | tickerState => exact absurd rfl hw
  | _ => rfl

@[simp] theorem updateTape_covered (t : TickerUnit) (h : Covers noWord s u) : Covers noWord s (updateTape t u) := by
  refine h.trans (covers_postChanged (fun _ _ => id) rfl fun v _ hv => ?_)
  exact setTape_tableWords t u fun hw => hv (hw ▸ List.mem_cons_self)

@[simp] theorem joinPrint_covered (p : Print) (r : Instrument) (h : Covers noWord s u) :
    Covers noWord s (joinPrint p r u) := by
  fun_cases joinPrint p r u <;> simp [h]

@[simp] theorem printTrade_covered (i : Nat) (t : TradePart) (h : Covers noWord s u) :
    Covers noWord s (printTrade i t u) := by
  fun_cases printTrade i t u <;> simp [h]

theorem takePrint_covers (s : State) : Covers noWord s (takePrint s) := by
  unfold takePrint
  split
  · exact .refl _ s
  · refine covers_post id ?_ fun v hv => ?_
    · split <;> rfl
    · split
      · exact setTape_tableWords _ s hv
      · exact setTape_tableWords _ s hv

theorem presentStill_covers (s : State) : Covers noWord s (presentStill s) := by
  fun_cases presentStill s with
  | case1 => exact setTape_covers rfl rfl rfl rfl
  | case2 => exact .refl _ s

/-- A ribbon step draws from the buffer: what the ticker state word shows stands. -/
theorem runStep_shown (t : TickerUnit) (brightness : Nat) :
    let t' := t.runStep brightness
    t'.mode = t.mode ∧ t'.hold = t.hold ∧ t'.queue = t.queue ∧ t'.shownLateness = t.shownLateness := by
  unfold TickerUnit.runStep TickerUnit.enterHeld
  dsimp only
  split
  · split <;> exact ⟨rfl, rfl, rfl, rfl⟩
  · exact ⟨rfl, rfl, rfl, rfl⟩

theorem ribbonStep_covers (s : State) : Covers noWord s (ribbonStep s) := by
  fun_cases ribbonStep s with
  | case1 =>
    obtain ⟨hmode, hhold, hqueue, hlate⟩ := runStep_shown s.tape s.ribbonBrightness
    exact setTape_covers hmode hhold hqueue hlate
  | case2 => exact setTape_covers rfl rfl rfl rfl
  | case3 => exact .refl _ s
  | case4 => exact .refl _ s

theorem blankOutOver_covers (s : State) : Covers noWord s (blankOutOver s) := by
  fun_cases blankOutOver s with
  | case1 => exact setTape_covers rfl rfl rfl rfl
  | case2 =>
    refine Covers.trans ?_ (presentStill_covers _)
    exact setTape_covers rfl rfl rfl rfl

/-! ### The terminal lines -/

@[simp] theorem setLine_covered (n : Fin 16) (l : Line) (h : Covers noWord s u) : Covers noWord s (setLine n l u) :=
  h.trans (setLine_covers n l u)

@[simp] theorem countBad_covered (n : Fin 16) (cause : BadCause) (h : Covers noWord s u) :
    Covers noWord s (countBad n cause u) := by
  fun_cases countBad n cause u <;> simp [h]

@[simp] theorem badFrame_covered (n : Fin 16) (cause : BadCause) (h : Covers noWord s u) :
    Covers noWord s (badFrame n cause u) := by
  simp [badFrame, h]

@[simp] theorem changeWatchers_covered (i : Nat) (f : List (Fin 16) → List (Fin 16)) (h : Covers noWord s u) :
    Covers noWord s (changeWatchers i f u) := by
  fun_cases changeWatchers i f u <;> simp [h]

@[simp] theorem submitMessage_covered (n : Fin 16) (seq : Byte) (text : List Byte) (h : Covers noWord s u) :
    Covers noWord s (submitMessage n seq text u) := by
  refine (h.trans ?_).trans (postRecord_covers _)
  exact covers_of_same rfl (funext fun w => by cases w <;> rfl)

@[simp] theorem actOnFrame_covered (n : Fin 16) (kind : Byte) (body : List Byte) (h : Covers noWord s u) :
    Covers noWord s (actOnFrame n kind body u) := by
  fun_cases actOnFrame n kind body u with
  | case1 => fun_cases requestWatch n body u <;> simp [h]
  | case2 => fun_cases requestDrop n body u <;> simp [h]
  | case3 => fun_cases requestPage n body u <;> simp [h]
  | case4 => fun_cases requestMessage n body u <;> simp [h]
  | case5 => exact h

@[simp] theorem goodFrame_covered (n : Fin 16) (kind : Byte) (body : List Byte) (h : Covers noWord s u) :
    Covers noWord s (goodFrame n kind body u) := by
  unfold goodFrame
  dsimp only
  split <;> simp [h]

@[simp] theorem markArrives_covered (n : Fin 16) (h : Covers noWord s u) : Covers noWord s (markArrives n u) := by
  unfold markArrives
  refine setLine_covered n _ ?_
  split <;> simp [h]

@[simp] theorem receiveChar_covered (n : Fin 16) (c : RxChar) (h : Covers noWord s u) :
    Covers noWord s (receiveChar n c u) := by
  fun_cases receiveChar n c u <;> simp [h]

@[simp] theorem onGoodFrame_covered (n : Fin 16) (kinds : Byte → Bool) (h : Covers noWord s u) :
    Covers noWord s (onGoodFrame n kinds u) := by
  fun_cases onGoodFrame n kinds u <;> simp [h]

@[simp] theorem dozeOver_covered (n : Fin 16) (h : Covers noWord s u) : Covers noWord s (dozeOver n u) := by
  simp [dozeOver, h]

@[simp] theorem serveLine_covered (cls : Nat) (n : Fin 16) (h : Covers noWord s u) :
    Covers noWord s (serveLine cls n u) := by
  fun_cases serveLine cls n u with
  | case1 => exact h
  | case2 =>
    have hserve (v : State) (a : ServicePlaces) : Covers noWord v { v with service := a } :=
      covers_of_fields rfl rfl rfl rfl rfl rfl
    exact (setLine_covered n _ h).trans (hserve _ _)

@[simp] theorem noticeLines_covered (i : Nat) (h : Covers noWord s u) : Covers noWord s (noticeLines i u) :=
  h.trans (noticeLines_covers i u)

@[simp] theorem reportWritten_covered (n : Fin 16) (seq : Byte) (h : Covers noWord s u) :
    Covers noWord s (reportWritten n seq u) := by
  fun_cases reportWritten n seq u <;> simp [h]

@[simp] theorem leaveWatchers_covered (n : Fin 16) (watch : List Nat) (h : Covers noWord s u) :
    Covers noWord s (leaveWatchers n watch u) := by
  unfold leaveWatchers
  induction watch generalizing u with
  | nil => exact h
  | cons i watch ih => exact ih (by simp [h])

@[simp] theorem carrySetLine_covered (n : Fin 16) (rate : Rate) (cls doze : Nat) (h : Covers noWord s u) :
    Covers noWord s (carrySetLine n rate cls doze u) := by
  fun_cases carrySetLine n rate cls doze u <;> simp [h]

@[simp] theorem setLineTaken_covered (h : Covers noWord s u) : Covers noWord s (setLineTaken u) := by
  fun_cases setLineTaken u <;> simp [h]

/-! ### Prices and capture -/

@[simp] theorem notify_covered (i : Nat) (trade : Option TradePart) (h : Covers noWord s u) :
    Covers noWord s (notify i trade u) := by
  unfold notify
  refine chooseAll_covered ((noticeLines_covered i ?_).trans (recomputeBoards_covers _ _))
  cases trade <;> simp [h]

@[simp] theorem tradeArrives_covered (i v z : Nat) (captured : Time) (h : Covers noWord s u) :
    Covers noWord s (tradeArrives i v z captured u).1 := by
  unfold tradeArrives
  split
  · exact h
  · dsimp only
    split <;> split <;> simp [h]

@[simp] theorem cancelHold_covered (i : Nat) (h : Covers noWord s u) : Covers noWord s (cancelHold i u) := by
  fun_cases cancelHold i u <;> simp [h]

theorem settleHold_covered {settle : Nat → Instrument → Hold → State → State}
    (hs : ∀ i r d u, Covers noWord s u → Covers noWord s (settle i r d u)) (h : Covers noWord s u) :
    Covers noWord s (settleHold settle u) := by
  fun_cases settleHold settle u <;> simp [h, hs]

@[simp] theorem confirmHold_covered (i : Nat) (r : Instrument) (d : Hold) (h : Covers noWord s u) :
    Covers noWord s (confirmHold i r d u) :=
  endDone_covered (notify_covered i _ (setInstrument_covered i _ h))

@[simp] theorem withdrawHold_covered (i : Nat) (r : Instrument) (d : Hold) (h : Covers noWord s u) :
    Covers noWord s (withdrawHold i r d u) := by simp [withdrawHold, h]

@[simp] theorem applyHalt_covered (i : Nat) (c : CommitFlags) (h : Covers noWord s u) :
    Covers noWord s (applyHalt i c u) := by
  fun_cases applyHalt i c u <;> simp [h]

@[simp] theorem applyQuote_covered (i : Nat) (c : CommitFlags) (v : FieldValues) (h : Covers noWord s u) :
    Covers noWord s (applyQuote i c v u) := by
  fun_cases applyQuote i c v u <;> simp [h]

@[simp] theorem applyTrade_covered (i : Nat) (c : CommitFlags) (seq : BitVec 12) (time : Time) (v : FieldValues)
    (h : Covers noWord s u) : Covers noWord s (applyTrade i c seq time v u).1 := by
  fun_cases applyTrade i c seq time v u <;> simp [h]

@[simp] theorem applyFast_covered (i : Nat) (c : CommitFlags) (h : Covers noWord s u) :
    Covers noWord s (applyFast i c u) := by
  fun_cases applyFast i c u <;> simp [h]

@[simp] theorem applyCommit_covered (i : Nat) (c : CommitFlags) (seq : BitVec 12) (time : Time) (v : FieldValues)
    (h : Covers noWord s u) : Covers noWord s (applyCommit i c seq time v u) := by
  have hs :=
    applyFast_covered i c (applyTrade_covered i c seq time v (applyQuote_covered i c v (applyHalt_covered i c h)))
  unfold applyCommit
  dsimp only
  split
  · split
    · exact notify_covered i _ hs
    · exact hs
  · exact hs

@[simp] theorem drainGroupless_covered (fuel : Nat) (h : Covers noWord s u) :
    Covers noWord s (drainGroupless fuel u) := by
  fun_induction drainGroupless fuel u <;> simp_all

theorem placeFetch_covers (s : State) : Covers noWord s (placeFetch s) := by
  have hplace (c : CaptureUnit) (src : PartSource) (a : Nat) :
      Covers noWord s (placePart src a none (setCap c s)) := (setCap_covers c s).trans (placePart_covers src a none _)
  fun_cases placeFetch s with
  | case1 => exact .refl _ s
  | case2 => exact hplace _ _ _
  | case3 => exact hplace _ _ _

theorem placePhase2_covers (s : State) : Covers noWord s (placePhase2 s) := by
  fun_cases placePhase2 s with
  | case1 => exact covers_of_fields rfl rfl rfl rfl rfl rfl
  | case2 => exact .refl _ s

@[simp] theorem pumpCapture_covered (h : Covers noWord s u) : Covers noWord s (pumpCapture u) := by
  have hd := drainGroupless_covered u.cap.fetchQueue.length h
  unfold pumpCapture
  generalize drainGroupless u.cap.fetchQueue.length u = v at hd
  dsimp only
  split
  · exact hd
  · split
    · split
      · exact hd.trans (placeFetch_covers v)
      · exact hd.trans (placePhase2_covers v)
    · exact hd.trans (placeFetch_covers v)
    · exact hd.trans (placePhase2_covers v)
    · exact hd

theorem byStanding_covered {take : State → State} (ht : ∀ u, Covers noWord s u → Covers noWord s (take u)) (i : Nat)
    (h : Covers noWord s u) : Covers noWord s (byStanding i take u) := by
  fun_cases byStanding i take u with
  | case1 => exact ht u h
  | case2 => exact h
  | case3 =>
    fun_cases tearPhase2 u with
    | case1 =>
      refine h.trans ?_
      exact covers_of_fields rfl rfl rfl rfl rfl rfl
    | case2 => exact h

@[simp] theorem stageWord_covered (i : Nat) (n : Fin 7) (w : Word) (h : Covers noWord s u) :
    Covers noWord s (stageWord i n w u) := by
  fun_cases stageWord i n w u <;> simp [h]

@[simp] theorem tearFetch_covered (i : Nat) (h : Covers noWord s u) : Covers noWord s (tearFetch i u) := by
  fun_cases tearFetch i u <;> simp [h]

@[simp] theorem takeField_covered (i : Nat) (n : Fin 7) (w : Word) (h : Covers noWord s u) :
    Covers noWord s (takeField i n w u) := by
  simp [takeField, h]

@[simp] theorem settleCommit_covered (i : Nat) (c : CommitFlags) (seq : BitVec 12) (h : Covers noWord s u) :
    Covers noWord s (settleCommit i c seq u) := by
  fun_cases settleCommit i c seq u with
  | case1 => exact h
  | case2 => exact setCap_covered _ (setInstrument_covered i _ (setCap_covered _ h))
  | case3 => exact applyCommit_covered _ _ _ _ _ (setInstrument_covered i _ (setCap_covered _ h))
  | case4 => exact setCap_covered _ (setInstrument_covered i _ (setCap_covered _ h))

@[simp] theorem acceptCommit_covered (i : Nat) (w : Word) (r : Instrument) (h : Covers noWord s u) :
    Covers noWord s (acceptCommit i w r u) := by
  unfold acceptCommit
  refine settleCommit_covered _ _ _ ?_
  split <;> simp [h]

@[simp] theorem takeCommit_covered (i : Nat) (w : Word) (h : Covers noWord s u) : Covers noWord s (takeCommit i w u) := by
  fun_cases takeCommit i w u <;> simp [h]

@[simp] theorem endAttempt_covered (e : FetchEntry) (rest : List FetchEntry) (plan : List (Fin 7))
    (got : List (Word × Bool)) (h : Covers noWord s u) : Covers noWord s (endAttempt e rest plan got u) := by
  have hs := setCap_covered { u.cap with attempt := none } h
  fun_cases endAttempt e rest plan got u with
  | case1 => exact applyCommit_covered _ _ _ _ _ (setCap_covered _ hs)
  | case2 => exact applyCommit_covered _ _ _ _ _ (postFault_covered _ _ _ (setCap_covered _ hs))
  | case3 => exact hs

@[simp] theorem takeFetched_covered (w : Word) (good : Bool) (h : Covers noWord s u) :
    Covers noWord s (takeFetched w good u) := by
  fun_cases takeFetched w good u <;> simp [h]

end

end Sys2Proof.Machine
end

section
/-! What LOAD, CLOSE and the Control Unit's own commands post (R28, R33, R35, R38, R53 to R63). -/

namespace Sys2Proof.Machine
open Sys2Proof

section
variable {x y : TableWord → Prop} {s u : State}

/-! ### Part reads (R17) -/

theorem freePort_covers (s : State) : Covers x s (freePort s) := covers_of_fields rfl rfl rfl rfl rfl rfl

theorem partReturn_covers (p : PartCycle) (source : Nat) (s : State) : Covers noWord s (partReturn p source s) := by
  have hend (v : State) : Covers noWord v (freePort v) := freePort_covers v
  unfold partReturn
  dsimp only
  split
  · exact hend s
  · exact (postFault_covers id _ _ _ s).trans (hend _)

theorem onPartRead_covers {discarded : State → State} {take : Word → Bool → State → State}
    (hd : ∀ u, Covers noWord s u → Covers noWord s (discarded u))
    (ht : ∀ w good u, Covers noWord s u → Covers noWord s (take w good u)) (which : PartSource → Bool) (source : Nat) :
    Covers noWord s (onPartRead which source discarded take s) := by
  unfold onPartRead
  split
  · split
    · dsimp only
      split
      · exact hd _ (partReturn_covers _ _ s)
      · exact ht _ _ _ (partReturn_covers _ _ s)
    · exact .refl _ s
  · exact .refl _ s

/-! ### LOAD (R53 to R61) -/

theorem loadRefused_covers (code : ResultCode) (d : Nat) (s : State) : Covers noWord s (loadRefused code d s) := by
  refine Covers.trans ?_ (endRefused_covers code d _)
  refine covers_post id rfl fun v hv => ?_
  cases v with
  | partState => exact absurd rfl hv
  | _ => rfl

@[simp] theorem loadRefused_covered (code : ResultCode) (d : Nat) (h : Covers noWord s u) :
    Covers noWord s (loadRefused code d u) := h.trans (loadRefused_covers code d u)

@[simp] theorem placeDirectory_covered (d : DirectoryRead) (h : Covers noWord s u) :
    Covers noWord s (placeDirectory d u) := by
  fun_cases placeDirectory d u with
  | case1 => exact h.trans (placePart_covers _ _ _ u)
  | case2 => exact h

@[simp] theorem pumpDirectory_covered (h : Covers noWord s u) : Covers noWord s (pumpDirectory u) := by
  fun_cases pumpDirectory u <;> simp [h]

@[simp] theorem readOn_covered (d : DirectoryRead) (h : Covers noWord s u) : Covers noWord s (readOn d u) :=
  h.trans (readOn_covers noWord d u)

@[simp] theorem fillWatchLists_covered (header : List Word) (h : Covers noWord s u) :
    Covers noWord s (fillWatchLists header u) := by
  unfold fillWatchLists
  generalize all16 = ls
  induction ls generalizing u with
  | nil => exact h
  | cons l ls ih => exact ih (setLine_covered l _ h)

@[simp] theorem endPhase1_covered (header : List Word) (rs : List Instrument) (h : Covers noWord s u) :
    Covers noWord s (endPhase1 header rs u) := by
  refine pumpCapture_covered (fillWatchLists_covered header (h.trans ?_))
  exact covers_of_fields rfl rfl rfl rfl rfl rfl

@[simp] theorem takeDirectoryWord_covered (w : Word) (good : Bool) (h : Covers noWord s u) :
    Covers noWord s (takeDirectoryWord w good u) := by
  have hheader (d : DirectoryRead) : Covers noWord s (takeHeaderWord d w u) := by
    fun_cases takeHeaderWord d w u <;> simp [h]
  have hentry (d : DirectoryRead) : Covers noWord s (takeEntryWord d w u) := by
    fun_cases takeEntryWord d w u <;> simp [h]
  fun_cases takeDirectoryWord w good u <;> simp [h, hheader, hentry]

/-- The part state word was still to come. -/
theorem setPartState_posts (h : Covers x s u) (hx : ∀ v, x v → v = .partState ∨ y v)
    (hy : ∀ v, y v → x v ∧ v ≠ .partState) (hpart : x .partState) (p : PartState) :
    Covers y s (setPartState p u) := by
  have hset : Covers x u { u with ctl := { u.ctl with partState := p } } := by
    refine covers_of_changed rfl fun v hv => ?_
    cases v with
    | partState => exact absurd hpart hv
    | _ => rfl
  exact (h.trans hset).post hx hy

/-- The tables of the floor and of the lines. -/
def floorTables : List TableWord := moduleTable ++ lineTable

theorem mem_floorTables (k : Fin 8) (p n : Fin 16) : .moduleWord k p ∈ floorTables ∧ .lineWord n ∈ floorTables := by
  exact ⟨List.mem_append_left _ (List.mem_flatMap.mpr ⟨k, mem_all8 k, List.mem_map.mpr ⟨p, mem_all16 p, rfl⟩⟩),
    List.mem_append_right _ (List.mem_map.mpr ⟨n, mem_all16 n, rfl⟩)⟩

theorem kinds_of_floorTables {w : TableWord} (hw : w ∈ floorTables) :
    (∃ k p, w = .moduleWord k p) ∨ ∃ n, w = .lineWord n :=
  (List.mem_append.mp hw).imp mem_moduleTable mem_lineTable

/-- The words that the end of LOAD still has to post: those of the drive, the part state word, and the tables (R61). -/
def loadEndWord (w : TableWord) : Prop := driveWord w ∨ w = .partState ∨ w ∈ floorTables

theorem floorTables_not_drive {w : TableWord} (hw : w ∈ floorTables) : ¬ driveWord w ∧ w ≠ .partState ∧ w ≠ .tickerState := by
  unfold driveWord
  rcases kinds_of_floorTables hw with ⟨k, p, rfl⟩ | ⟨n, rfl⟩ <;> simp

theorem loadEnd_covers (header : List Word) (s : State) : Covers noWord s (loadEnd header s) := by
  have hup : Covers loadEndWord s
      (linesUp header (linksUp header { s with load := .idle, tbl := { s.tbl with dayNumber := 0 } })) := by
    refine covers_of_changed rfl fun w hw => ?_
    cases w with
    | partState => exact absurd (.inr (.inl rfl)) hw
    | driveState => exact absurd (.inl drive_words.1) hw
    | limitReasons => exact absurd (.inl drive_words.2.1) hw
    | governorStage => exact absurd (.inl drive_words.2.2) hw
    | moduleWord k p => exact absurd (.inr (.inr (mem_floorTables k p 0).1)) hw
    | lineWord n => exact absurd (.inr (.inr (mem_floorTables 0 0 n).2)) hw
    | _ => rfl
  have htape (t : TickerUnit) (v : State) : Covers loadEndWord v (updateTape t v) := by
    refine covers_postChanged (fun w hw hx => ?_) rfl fun w _ hw => ?_
    · obtain rfl := List.mem_singleton.mp hw
      rcases hx with hx | hx | hx
      · simp [driveWord] at hx
      · cases hx
      · exact (floorTables_not_drive hx).2.2 rfl
    · exact setTape_tableWords t v fun h => hw (h ▸ List.mem_cons_self)
  have hdrive (d : DriveUnit) (v : State) : Covers loadEndWord v (setDrive d v) :=
    setDrive_covers (fun _ h => .inl h) d v
  unfold loadEnd
  dsimp only
  refine chooseAll_covered (driveSettle_covers ?_)
  refine Covers.trans ?_ (endCommand_covers not_driveWord_status.1 none 0 _)
  refine setPartState_posts (x := fun w => driveWord w ∨ w = .partState) ?_ (fun _ h => h.symm) (fun w hw => ⟨.inl hw, ?_⟩)
    (.inr rfl) _
  · refine ((hup.trans (htape _ _)).trans (hdrive _ _)).postAll (fun w hw => ?_) fun w hw => ⟨?_, fun hmem => ?_⟩
    · exact hw.elim (fun h => .inr (.inl h)) fun h => h.elim (fun h => .inr (.inr h)) .inl
    · exact hw.elim .inl fun h => .inr (.inl h)
    · have hno := floorTables_not_drive hmem
      exact hw.elim hno.1 hno.2.1
  · rintro rfl
    simp [driveWord] at hw

theorem nextInstrument_covers (r : RecordRead) (s : State) : Covers noWord s (nextInstrument r s) := by
  fun_cases nextInstrument r s with
  | case1 => exact covers_of_fields rfl rfl rfl rfl rfl rfl
  | case2 => exact loadEnd_covers _ s

@[simp] theorem endRecordRead_covered (r : RecordRead) (got : List (Word × Bool)) (h : Covers noWord s u) :
    Covers noWord s (endRecordRead r got u) := by
  unfold endRecordRead
  split
  · refine h.trans ?_
    exact covers_of_fields rfl rfl rfl rfl rfl rfl
  · refine Covers.trans ?_ (nextInstrument_covers r _)
    split <;> split <;> simp [h]

@[simp] theorem takeRecordWord_covered (w : Word) (good : Bool) (h : Covers noWord s u) :
    Covers noWord s (takeRecordWord w good u) := by
  fun_cases takeRecordWord w good u with
  | case1 =>
    refine h.trans ?_
    exact covers_of_fields rfl rfl rfl rfl rfl rfl
  | case2 => simp [h]
  | case3 => exact h

/-- The words that the taking of LOAD still has to post when it has cleared the part (R53). -/
def clearedWord (w : TableWord) : Prop := driveWord w ∨ w = .partState ∨ w ∈ floorTables ++ [.tickerState]

theorem clearForLoad_covers (s : State) : Covers noWord s (clearForLoad s) := by
  have hcleared : Covers clearedWord s (loadCleared s) := by
    refine covers_of_changed rfl fun w hw => ?_
    cases w with
    | partState => exact absurd (.inr (.inl rfl)) hw
    | driveState => exact absurd (.inl drive_words.1) hw
    | limitReasons => exact absurd (.inl drive_words.2.1) hw
    | governorStage => exact absurd (.inl drive_words.2.2) hw
    | tickerState => exact absurd (.inr (.inr (List.mem_append_right _ List.mem_cons_self))) hw
    | moduleWord k p => exact absurd (.inr (.inr (List.mem_append_left _ (mem_floorTables k p 0).1))) hw
    | lineWord n => exact absurd (.inr (.inr (List.mem_append_left _ (mem_floorTables 0 0 n).2))) hw
    | _ => rfl
  have htables {w : TableWord} (hw : w ∈ floorTables ++ [.tickerState]) : ¬ driveWord w ∧ w ≠ .partState := by
    rcases List.mem_append.mp hw with hw | hw
    · exact ⟨(floorTables_not_drive hw).1, (floorTables_not_drive hw).2.1⟩
    · obtain rfl := List.mem_singleton.mp hw
      simp [driveWord]
  have hpart : Covers (fun w => driveWord w ∨ w ∈ floorTables ++ [.tickerState]) s (setPartState .loading (loadCleared s)) := by
    refine setPartState_posts hcleared (fun w hw => ?_) (fun w hw => ⟨?_, ?_⟩) (.inr (.inl rfl)) _
    · exact hw.elim (fun h => .inr (.inl h)) fun h => h.imp_right .inr
    · exact hw.imp_right .inr
    · rintro rfl
      exact hw.elim (by simp [driveWord]) fun h => (htables h).2 rfl
  have hposted : Covers driveWord s
      (postAll (floorTables ++ [.tickerState]) (setPartState .loading (loadCleared s))) :=
    hpart.postAll (fun w hw => hw.symm) fun w hw => ⟨.inl hw, fun hmem => (htables hmem).1 hw⟩
  have hstate : Covers (fun w => driveWord w ∧ w ≠ .driveState) s
      (post .driveState (postAll (floorTables ++ [.tickerState]) (setPartState .loading (loadCleared s)))) :=
    hposted.post (fun w hw => (em (w = .driveState)).imp_right fun h => ⟨hw, h⟩) fun w hw => hw
  exact driveSettle_covers_of (fun w hw => hw.1) ⟨drive_words.2.1, by simp⟩ hstate

theorem loadTaken_covers (s : State) : Covers noWord s (loadTaken s) := by
  fun_cases loadTaken s with
  | case1 => exact loadRefused_covered _ _ (clearForLoad_covers s)
  | case2 => exact readOn_covered _ (clearForLoad_covers s)

/-! ### CLOSE (R63) -/

theorem closeDay_covers (s : State) : Covers noWord s (closeDay s) := by
  fun_cases closeDay s with
  | case1 => exact endRefused_covers _ _ s
  | case2 =>
    refine endDone_covered (Covers.trans ?_ (noticeAll_covers _))
    refine covers_post id rfl fun v hv => ?_
    cases v with
    | partState => exact absurd rfl hv
    | _ => rfl

/-! ### The Control Unit's own events (R21, R33, R35, R36, R38) -/

theorem onControlWord_covers {take : Nat → Word → State → State} (ht : ∀ off w u, Covers noWord u (take off w u))
    (offs : Nat → Bool) (s : State) : Covers noWord s (onControlWord offs take s) := by
  unfold onControlWord
  split
  · split
    · exact (popHanded_covers s).trans (ht _ _ _)
    · exact .refl _ s
  · exact .refl _ s

theorem onCaptureWord_covers {take : Nat → Nat → Word → State → State}
    (ht : ∀ i n w u, Covers noWord u (take i n w u)) (nums : Nat → Bool) (s : State) :
    Covers noWord s (onCaptureWord nums take s) := by
  unfold onCaptureWord
  split
  · split
    · exact (popHanded_covers s).trans (ht _ _ _ _)
    · exact .refl _ s
  · exact .refl _ s

theorem latchWord_covers (off : Nat) (w : Word) (s : State) : Covers noWord s (latchWord off w s) := by
  fun_cases latchWord off w s with
  | case1 => exact covers_of_same rfl (funext fun v => by cases v <;> rfl)
  | case2 => exact .refl _ s

theorem takeFaultIndex_covers (off : Nat) (w : Word) (s : State) : Covers noWord s (takeFaultIndex off w s) := by
  fun_cases takeFaultIndex off w s with
  | case1 =>
    refine covers_postChanged (fun _ _ => id) rfl fun v _ hv => ?_
    cases v with
    | faultStatus => exact absurd List.mem_cons_self hv
    | _ => rfl
  | case2 => exact .refl _ s

theorem takeInboxIndex_covers (off : Nat) (w : Word) (s : State) : Covers noWord s (takeInboxIndex off w s) := by
  fun_cases takeInboxIndex off w s with
  | case1 =>
    refine covers_postChanged (fun _ _ => id) rfl fun v _ hv => ?_
    cases v with
    | inboxStatus => exact absurd List.mem_cons_self hv
    | _ => rfl
  | case2 => exact .refl _ s

theorem takeEnables_covers (off : Nat) (w : Word) (s : State) : Covers noWord s (takeEnables off w s) :=
  covers_of_same rfl (funext fun v => by cases v <;> rfl)

theorem clearCausesTaken_covers (s : State) : Covers noWord s (clearCausesTaken s) := by
  fun_cases clearCausesTaken s with
  | case1 => exact endRefused_covers _ _ s
  | case2 =>
    refine endDone_covered ?_
    refine covers_post id rfl fun v hv => ?_
    cases v with
    | resetCause => exact absurd rfl hv
    | _ => rfl

theorem setGuardTaken_covers (s : State) : Covers noWord s (setGuardTaken s) := by
  fun_cases setGuardTaken s with
  | case1 => exact endRefused_covers _ _ s
  | case2 => exact endRefused_covers _ _ s
  | case3 =>
    refine endDone_covered ?_
    exact covers_of_fields rfl rfl rfl rfl rfl rfl

theorem lockGuardsTaken_covers (s : State) : Covers noWord s (lockGuardsTaken s) := by
  refine endDone_covered ?_
  exact covers_of_fields rfl rfl rfl rfl rfl rfl

theorem armTrapTaken_covers (s : State) : Covers noWord s (armTrapTaken s) := by
  fun_cases armTrapTaken s with
  | case1 =>
    refine endDone_covered ?_
    exact covers_of_fields rfl rfl rfl rfl rfl rfl
  | case2 => exact endRefused_covers _ _ s

/-! ### Host cycles (R2 to R8) -/

theorem endHost_covers (e : Ending) (d : Option RamWord) (s : State) : Covers x s (endHost e d s) :=
  covers_of_fields rfl rfl rfl rfl rfl rfl

theorem refuseHost_covers (k : FaultKind) (c : BusCycle) (details : List Nat) (s : State) :
    Covers noWord s (refuseHost k c details s) :=
  postFault_covered _ _ _ (endHost_covers _ _ s)

theorem arriveHost_covers (c : BusCycle) (s : State) : Covers noWord s (arriveHost c s) := by
  have hadmit : Covers noWord s (admitHost c s) := by
    unfold admitHost
    split
    · exact endHost_covers _ _ s
    · exact covers_of_fields rfl rfl rfl rfl rfl rfl
  have hguard : Covers noWord s (guardCheck c s) := by
    fun_cases guardCheck c s with
    | case1 => exact hadmit
    | case2 => exact refuseHost_covers _ _ _ s
    | case3 => exact postFault_covered _ _ _ (endHost_covers _ _ s)
  have hwrite : Covers noWord s (writeCheck c s) := by
    fun_cases writeCheck c s with
    | case1 => exact refuseHost_covers _ _ _ s
    | case2 =>
      refine Covers.trans ?_ (refuseHost_covers _ _ _ _)
      exact covers_of_fields rfl rfl rfl rfl rfl rfl
    | case3 => exact refuseHost_covers _ _ _ s
    | case4 => exact hguard
  fun_cases arriveHost c s with
  | case1 => exact endHost_covers _ _ s
  | case2 => exact refuseHost_covers _ _ _ s
  | case3 => exact refuseHost_covers _ _ _ s
  | case4 => exact hwrite
  | case5 => exact hadmit

theorem serveRead_covers (c : HostCycle) (cut : Bool) (s : State) : Covers noWord s (serveRead c cut s) := by
  have hend (e : Ending) (d : Option RamWord) : Covers noWord s (endHost e d (freePort s)) :=
    (freePort_covers s).trans (endHost_covers e d _)
  unfold serveRead
  dsimp only
  split
  · exact hend _ _
  · split
    · exact hend _ _
    · exact postFault_covered _ _ _ (hend _ _)

theorem handOver_covers (a : Nat) (w : Word) (s : State) : Covers noWord s (handOver a w s) := by
  have hhanded (l : List Handed) : Covers noWord s { s with handed := l } :=
    covers_of_fields rfl rfl rfl rfl rfl rfl
  fun_cases handOver a w s with
  | case2 => exact hhanded _
  | case4 => exact hhanded _
  | _ => exact .refl _ s

theorem serveWrite_covers (c : HostCycle) (cut : Bool) (s : State) : Covers noWord s (serveWrite c cut s) := by
  have hend (e : Ending) (d : Option RamWord) (v : State) : Covers noWord v (endHost e d v) := endHost_covers e d v
  have hram (a : Nat) (w : Word) (v : State) : Covers noWord v (writeRam a w v) :=
    covers_of_fields rfl rfl rfl rfl rfl rfl
  have hfree : Covers noWord s (freePort s) := freePort_covers s
  unfold serveWrite
  dsimp only
  split
  · split
    · exact hfree.trans (hend _ _ _)
    · exact postFault_covered _ _ _ (hfree.trans (hend _ _ _))
  · split
    · exact (hfree.trans (hram _ _ _)).trans (hend _ _ _)
    · exact ((hfree.trans (hram _ _ _)).trans (hend _ _ _)).trans (handOver_covers _ _ _)

end

end Sys2Proof.Machine
end

section
/-! Every event posts the table words that it changes (R28), and where a posted value goes (R28, R29). -/

namespace Sys2Proof.Machine
open Sys2Proof

section
variable {s t u : State} {c : Instr}

/-! ### Write-backs, clearing writes and the ends of resets -/

theorem pumpWriteBack_covers {x : TableWord → Prop} (s : State) : Covers x s (pumpWriteBack s) :=
  ⟨fun _ _ _ h => queued_pump h, fun w _ h =>
    posted_pump (h.resolve_left fun h => h ((pumpWriteBack_onlyPosts s).tableWords w))⟩

theorem completeEntry_covers (e : WbEntry) (s : State) : Covers noWord s (completeEntry e s) := by
  cases e with
  | table => exact .refl _ s
  | faultRecord =>
    refine covers_post id rfl fun v hv => ?_
    cases v with
    | faultStatus => exact absurd rfl hv
    | _ => rfl
  | inboxSlot =>
    refine reportWritten_covered _ _ (covers_post id rfl fun v hv => ?_)
    cases v with
    | inboxStatus => exact absurd rfl hv
    | _ => rfl

/-- What changes no word at first posts what it changes. -/
theorem Covers.posts_of_same (h : Covers noWord u t) (hu : u.tableWords = s.tableWords) : Posts noWord s t :=
  fun w hx hw => h.posted w hx (.inl (by rwa [hu]))

theorem setActive_tableWords (a : Option (WbEntry × Nat)) (s : State) : (setActive a s).tableWords = s.tableWords :=
  funext fun w => by cases w <;> rfl

/-- A served write-back posts the words that it changes: the entry that it completes may be the fault write index or the
inbox write index (R32, R34). -/
theorem writeBackNext_posts (s : State) : Posts noWord s (writeBackNext s) := by
  fun_cases writeBackNext s with
  | case1 => exact (Covers.keeps (pumpWriteBack_covers s)).posts
  | case2 e n =>
    have hplace : Covers noWord (setActive (some (e, n + 1)) s)
        (placeWriteBack e (n + 1) (setActive (some (e, n + 1)) s)) := placePart_covers _ _ _ _
    exact hplace.posts_of_same (setActive_tableWords _ s)
  | case3 e =>
    have hdone : Covers noWord (setActive none s) (pumpWriteBack (completeEntry e (setActive none s))) :=
      (completeEntry_covers e _).trans (pumpWriteBack_covers _)
    exact hdone.posts_of_same (setActive_tableWords _ s)

theorem placeClear_covers (s : State) : Covers noWord s (placeClear s) := by
  fun_cases placeClear s with
  | case1 => exact placePart_covers _ _ _ s
  | case2 => exact .refl _ s

theorem clearNext_covers (s : State) : Covers noWord s (clearNext s) := by
  have hfree : Covers noWord s (freePort { s with mem := { s.mem with ram := s.mem.ram.clearNext } }) :=
    covers_of_fields rfl rfl rfl rfl rfl rfl
  fun_cases clearNext s with
  | case1 => exact covers_of_fields rfl rfl rfl rfl rfl rfl
  | case2 => exact hfree.trans (placeClear_covers _)

/-- After the end of a reset every word waits. -/
theorem resetEnd_posts (p : Straps) (s : State) : Posts noWord s (postAll resetPosts (resetBlocks p s)) :=
  fun w _ _ => postAll_posted (mem_resetPosts w) _

/-! ### Every command -/

/-- Every event but the beginnings of resets posts each word that it changes (R28). -/
theorem exec_posts (h : exec c s = .next t) (hc : beginsReset c = false) : Posts noWord s t := by
  have post {u : State} (h : answer u = .next t) (hu : Posts noWord s u) : Posts noWord s t := by
    cases h
    intro w hx hw
    rw [grant_tableWords] at hw
    exact posted_grant (hu w hx hw)
  have keep {u : State} (h : answer u = .next t) (hu : Covers noWord s u) : Posts noWord s t :=
    post h (Keeps.posts (Covers.keeps hu))
  have hsame : Covers noWord s s := .refl _ s
  have hcommand {owning : State → State} {codes : Nat → Bool} (ho : ∀ u, Covers noWord u (owning u)) :
      Covers noWord s (onCommand codes owning s) := onCommand_covers ho codes s
  cases c with
  | externalReset | powerOnReset | supplyLowReset => cases hc
  | hostCycle b => exact keep h (by split; exacts [hsame, arriveHost_covers b s])
  | hostReadServed =>
    refine keep h ?_
    split
    · split
      exacts [hsame, serveRead_covers _ _ s]
    · exact hsame
  | hostWriteServed =>
    refine keep h ?_
    split
    · split
      exacts [serveWrite_covers _ _ s, hsame]
    · exact hsame
  | refreshRequest =>
    refine keep h ?_
    split
    exacts [covers_of_fields rfl rfl rfl rfl rfl rfl, hsame]
  | refreshCycle =>
    refine keep h ?_
    split
    exacts [covers_of_fields rfl rfl rfl rfl rfl rfl, hsame]
  | externalResetRelease p =>
    refine keep h ?_
    split
    · refine Covers.trans ?_ (placeClear_covers _)
      exact covers_of_fields rfl rfl rfl rfl rfl rfl
    · exact hsame
  | supplyReturn p =>
    refine keep h ?_
    split
    · refine Covers.trans ?_ (placeClear_covers _)
      exact covers_of_fields rfl rfl rfl rfl rfl rfl
    · exact hsame
  | regionClearWritten =>
    refine keep h ?_
    split
    · split
      exacts [clearNext_covers s, hsame]
    · exact hsame
  | resetEnd p =>
    refine post h ?_
    split
    exacts [resetEnd_posts p s, Keeps.posts (.refl _ s)]
  | writeBackWritten =>
    have hmade (a : Nat) (w : Word) : Covers noWord s (freePort (writeRam a w s)) :=
      covers_of_fields rfl rfl rfl rfl rfl rfl
    have hwords (a : Nat) (w : Word) : (freePort (writeRam a w s)).tableWords = s.tableWords :=
      tableWords_congr rfl rfl rfl rfl rfl rfl
    refine post h ?_
    split
    · split
      · dsimp only
        split
        · exact Keeps.posts (Covers.keeps ((hmade _ _).trans (pumpWriteBack_covers _)))
        · intro v hx hv
          exact writeBackNext_posts _ v hx (by rwa [hwords])
      · exact Keeps.posts (.refl _ s)
    · exact Keeps.posts (.refl _ s)
  | parameterWordWrite => exact keep h (onControlWord_covers latchWord_covers _ s)
  | faultReadIndexWrite => exact keep h (onControlWord_covers takeFaultIndex_covers _ s)
  | inboxReadIndexWrite => exact keep h (onControlWord_covers takeInboxIndex_covers _ s)
  | alertEnablesWrite => exact keep h (onControlWord_covers takeEnables_covers _ s)
  | unknownCommand => exact keep h (hcommand fun u => .refl _ u)
  | load => exact keep h (hcommand loadTaken_covers)
  | close => exact keep h (hcommand closeDay_covers)
  | confirm =>
    exact keep h (hcommand fun u => settleHold_covered (fun i r d _ hu => confirmHold_covered i r d hu) (.refl _ u))
  | withdraw =>
    exact keep h (hcommand fun u => settleHold_covered (fun i r d _ hu => withdrawHold_covered i r d hu) (.refl _ u))
  | remap => exact keep h (hcommand remapTaken_covers)
  | restore => exact keep h (hcommand restoreTaken_covers)
  | rearm => exact keep h (hcommand rearmTaken_covers)
  | lampTest => exact keep h (hcommand lampTestTaken_covers)
  | clearLimitLog => exact keep h (hcommand clearLogTaken_covers)
  | tapeHold => exact keep h (hcommand fun u => endDone_covered (updateTape_covered _ (.refl _ u)))
  | tapeResume => exact keep h (hcommand fun u => endDone_covered (updateTape_covered _ (.refl _ u)))
  | setLine => exact keep h (hcommand fun u => setLineTaken_covered (.refl _ u))
  | setGuard => exact keep h (hcommand setGuardTaken_covers)
  | lockGuards => exact keep h (hcommand lockGuardsTaken_covers)
  | armTrap => exact keep h (hcommand armTrapTaken_covers)
  | clearCauses => exact keep h (hcommand clearCausesTaken_covers)
  | directoryReadReturn =>
    refine keep h ?_
    split
    · split
      exacts [hsame, loadRefused_covers _ _ s]
    · exact onPartRead_covers (fun _ hu => pumpDirectory_covered hu)
        (fun w good _ hu => takeDirectoryWord_covered w good hu) _ _
  | phase2ReadReturn =>
    exact keep h (onPartRead_covers (fun _ hu => pumpCapture_covered hu)
      (fun w good _ hu => pumpCapture_covered (takeRecordWord_covered w good hu)) _ _)
  | fetchReadReturn =>
    exact keep h (onPartRead_covers (fun _ hu => pumpCapture_covered hu)
      (fun w good _ hu => pumpCapture_covered (takeFetched_covered w good hu)) _ _)
  | fieldWrite =>
    refine keep h (onCaptureWord_covers (fun i n w u => ?_) _ s)
    split
    · exact byStanding_covered (fun _ hu => takeField_covered i _ w hu) i (.refl _ u)
    · exact .refl _ u
  | commitWrite =>
    refine keep h (onCaptureWord_covers (fun i n w u => pumpCapture_covered ?_) _ s)
    exact byStanding_covered (fun _ hu => takeCommit_covered i w hu) i (.refl _ u)
  | staleStaging i =>
    refine keep h ?_
    split
    · exact hsame
    · split
      exacts [postFault_covered _ _ _ (setCap_covered _ hsame), hsame]
  | holdExpired i =>
    refine keep h ?_
    split
    · exact hsame
    · split
      · exact hsame
      · split
        exacts [setInstrument_covered _ _ (postFault_covered _ _ _ hsame), hsame]
  | frameSent k => exact keep h (frameGone_covers k s)
  | reply k b0 b1 b2 =>
    refine post h ?_
    split
    · exact reply_posts k _ _ _ s
    · exact Keeps.posts (.refl _ s)
  | replyTimeout k =>
    refine post h ?_
    split
    · rename_i f _ _
      split
      exacts [reply_posts k f false false s, Keeps.posts (.refl _ s)]
    · exact Keeps.posts (.refl _ s)
  | pollDue k => exact keep h (chooseFrame_covers k s)
  | flashTimerExpiry k m =>
    refine keep h ?_
    split
    · exact hsame
    · split
      exacts [(stopFlash_covers k m s).trans (chooseFrame_covers k _), hsame]
  | comparatorInputChange i level => exact keep h (by split; exacts [hsame, changeInput_covers i level s])
  | filterTaken i =>
    refine keep h ?_
    split
    · exact hsame
    · split
      exacts [floorSettle_covers (takeFilter_covers i s), hsame]
  | hotCheckEnd =>
    refine keep h ?_
    split
    · exact hsame
    · split
      exacts [hotCheckPassed_covers _ s, hsame]
  | governorSample => exact keep h (by split; exacts [takeSample_covers s, hsame])
  | lampTestLinkEnd =>
    refine keep h ?_
    split
    · exact hsame
    · split
      exacts [testNext_covers _ s, hsame]
  | take => exact keep h (by split; exacts [takePrint_covers s, hsame])
  | ribbonStep => exact keep h (by split; exacts [hsame, ribbonStep_covers s])
  | blankOutEnd => exact keep h (by split; exacts [blankOutOver_covers s, hsame])
  | markReceived n => exact keep h (by split; exacts [hsame, receiveChar_covered n _ hsame])
  | characterReceived n c => exact keep h (by split; exacts [hsame, receiveChar_covered n c hsame])
  | badFrame n c => exact keep h (by split; exacts [receiveChar_covered n c hsame, hsame])
  | frameAbandoned n =>
    refine keep h ?_
    split
    · exact hsame
    · split
      exacts [badFrame_covered n _ hsame, hsame]
  | watchRequest n | watchDrop n | pageRequest n | messageRequest n | ping n | goodFrameOtherKind n =>
    exact keep h (onGoodFrame_covered n _ hsame)
  | dozeExpiry n =>
    refine keep h ?_
    split
    · exact hsame
    · split
      exacts [dozeOver_covered n hsame, hsame]
  | lineService =>
    refine keep h ?_
    split
    · exact hsame
    · split
      exacts [hsame, serveLine_covered _ _ hsame]
  | transmitterEmpty n => exact keep h (setLine_covers n _ s)
  | timeBaseAdvance =>
    refine keep h ?_
    exact covers_of_same rfl (funext fun v => by cases v <;> rfl)

/-- Settles O11: the queue's two clauses, and the posting rule through every command. -/
theorem tableEntryInPlace : Obligations.TableEntryInPlace := by
  refine ⟨fun t ws q => ⟨?_, joinTable_joins⟩, fun t s => ?_, fun c s t h hc w hw => exec_posts h hc w id hw,
    tableLayout, offsetsGiven, entryPlaces⟩
  · rintro a ws' b rfl ha
    exact joinTable_replaces ha
  · intro joined waiting
    refine ⟨joinTable_ne_nil t _ _, fun e n ha => ?_, fun ha ho => ?_, fun ha ho e rest hq => ?_⟩
    · rw [post_waits (.inl (by rw [ha]; rfl))]
      simp only [setWaiting, ha, waiting, joined]
    · rw [post_waits (.inr ho)]
      simp only [setWaiting, ha, waiting, joined]
    · have htakes := pumpWriteBack_takes (s := setWaiting joined s) ha hq ho
      rw [post, htakes, placeWriteBack, Nat.add_zero]
      rfl

end

end Sys2Proof.Machine
end

section
/-! The parameter words, the ALERT enables and the ALERT output (R21, R22, R36). -/

namespace Sys2Proof.Machine
open Sys2Proof

/-- ALERT is asserted outside a reset while a cause holds whose enable is set (R36). -/
theorem alertOut_iff (s : State) :
    s.alertOut = true ↔
      s.rst.inReset = false ∧
        ((s.ctl.log.writeIndex ≠ s.ctl.log.readIndex ∧ s.ctl.alert.enableFault = true) ∨
          (s.ctl.inbox.writeIndex ≠ s.ctl.inbox.readIndex ∧ s.ctl.alert.enableInbox = true) ∨
          (s.ctl.alert.commandCause = true ∧ s.ctl.alert.enableCommand = true)) := by
  simp [State.alertOut, State.causeFault, State.causeInbox, or_assoc]

/-- Parameter word `n` goes into its latch (R21). -/
theorem latchWord_eq (n : Fin 6) (w : Word) (s : State) :
    latchWord (n.val + 1) w s = { s with ctl := { s.ctl with latches := s.ctl.latches.set n w } } := by
  have hn : n.val + 1 - 1 < 6 := n.isLt
  rw [latchWord, dif_pos hn]
  rfl

/-- Settles O17. -/
theorem controlWordsAndAlert : Obligations.ControlWordsAndAlert := by
  refine ⟨alertOut_iff, fun w rest s hr => ⟨fun n hh => ?_, fun hh => ?_⟩⟩
  · have hoff : decide (1 ≤ n.val + 1 ∧ n.val + 1 ≤ 6) = true := decide_eq_true ⟨by omega, by omega⟩
    have htaken : exec .parameterWordWrite s = answer (latchWord (n.val + 1) w { s with handed := rest }) :=
      congrArg answer (onControlWord_taken hr hh hoff)
    rw [htaken, latchWord_eq]
    rfl
  · exact congrArg answer (onControlWord_taken (take := takeEnables) hr hh rfl)

end Sys2Proof.Machine
end
